-- ==== Sys2Proof/Word.lean ====
section
/-! DEFINITION. The word types of the part (R4, R200, R201): plain abbreviations, so that every `BitVec` lemma applies. -/
namespace Sys2Proof

/-- One byte of memory (R4). -/
abbrev Byte := BitVec 8
/-- A 32-bit Zarwell instruction word (R243). -/
abbrev IWord := BitVec 32
/-- A 16-bit wick microword (R262). -/
abbrev Micro := BitVec 16
/-- A 64-bit scalar register value (R200). -/
abbrev W64 := BitVec 64
/-- The number of an `x` or `v` register, as five bits of the word (R243). -/
abbrev Reg := BitVec 5
/-- The `sc` field of a word (R245). -/
abbrev Sc := BitVec 2
/-- One row of a subarray: 8,192 columns (R82). -/
abbrev Row := BitVec 8192
/-- A finite map from numbers, in one canonical form: keys strictly rising, no entry equal to the map's default. -/
abbrev Sparse (α : Type) := List (Nat × α)

end Sys2Proof
end

