-- ==== Sys2Proof/Syntax.lean ====
section
/-! DEFINITION. The instructions of the part: one constructor for each row of the opcode table. Operand fields of a word
are kept as the raw bits of the encoding (R243 to R262). A step with no encoding carries the numbers that say which unit,
request, command or register it concerns. -/
namespace Sys2Proof

/-- Every step of the opcode table. Letters follow the table: `sc` the hint field, `rd`, `rs1`, `rs2` the register fields. -/
inductive Instr where
  /-- REGISTER_WRITE (R505). -/
  | registerWrite (off : Nat) (val : BitVec 64) (lvl : BitVec 2)
  /-- REGION_DESCRIPTOR_WRITE (R20). -/
  | regionDescriptorWrite (r : Nat) (val : BitVec 64)
  /-- TCINV_WRITE (R32). -/
  | tcinvWrite (stack : Nat) (val : BitVec 64)
  /-- TCINV_READ (R32). -/
  | tcinvRead (stack : Nat)
  /-- TCINV_INVALIDATION_DONE (R31). -/
  | tcinvInvalidationDone (stack : Nat)
  /-- MIGCTL_HOLD (R44). -/
  | migctlHold (stack : Nat) (i : Nat) (val : BitVec 64)
  /-- MIGCTL_HOLD_GRANTED (R385). -/
  | migctlHoldGranted (stack : Nat) (i : Nat)
  /-- MIGCTL_DRAINED (R44). -/
  | migctlDrained (stack : Nat) (i : Nat)
  /-- MIGCTL_RELEASE (R44). -/
  | migctlRelease (stack : Nat) (i : Nat)
  /-- HOME_ACCESS (R34). -/
  | homeAccess (req : Nat)
  /-- WALK_BATCH_CLOSE (R30). -/
  | walkBatchClose (stack : Nat)
  /-- WALK_GATHER_DONE (R30). -/
  | walkGatherDone (stack : Nat)
  /-- ACCESS_RESPONSE (R116). -/
  | accessResponse (req : Nat)
  /-- FAULT_RESPONSE (R38). -/
  | faultResponse (req : Nat)
  /-- RUN_AHEAD_STOP (R41). -/
  | runAheadStop (place : Nat) (reason : Nat)
  /-- RETIREMENT_THRESHOLD (R46). -/
  | retirementThreshold (stack : Nat) (frame : Nat)
  /-- LINE_FILL (R49). -/
  | lineFill (cluster : Nat) (line : Nat)
  /-- WRITEBACK_ARRIVAL (R49). -/
  | writebackArrival (cluster : Nat) (line : Nat)
  /-- WRITEBACK_ACK (R51). -/
  | writebackAck (cluster : Nat)
  /-- SBCFG_WRITE (R55). -/
  | sbcfgWrite (cluster : Nat) (bank : Nat) (val : BitVec 64)
  /-- BANK_TRANSITION_DONE (R58). -/
  | bankTransitionDone (cluster : Nat) (bank : Nat)
  /-- SRAM_WINDOW_ACCESS (R62). -/
  | sramWindowAccess (req : Nat)
  /-- ATOMIC_ENGINE_ACCEPT (R71). -/
  | atomicEngineAccept (cluster : Nat)
  /-- ATOMIC_ENGINE_OP (R70). -/
  | atomicEngineOp (cluster : Nat) (line : Nat)
  /-- HOME_ATOMIC_OP (R73). -/
  | homeAtomicOp (req : Nat)
  /-- LANTERN_WINDOW_ACCESS (R77). -/
  | lanternWindowAccess (req : Nat)
  /-- VBUS_BEAT_GRANT (R76). -/
  | vbusBeatGrant (stack : Nat) (bus : Nat)
  /-- REPLICA_UPDATE_ORDER (R79). -/
  | replicaUpdateOrder (req : Nat)
  /-- REPLICA_UPDATE_APPLY (R79). -/
  | replicaUpdateApply (stack : Nat)
  /-- REPLICA_STORE_ACK (R79). -/
  | replicaStoreAck (upd : Nat)
  /-- BANK_PROBE (R384). -/
  | bankProbe (cmd : Nat)
  /-- BANK_PROBE_ANSWER (R384). -/
  | bankProbeAnswer (cmd : Nat)
  /-- INVOCATION_ARRIVAL (R94). -/
  | invocationArrival (inv : Nat)
  /-- INVOCATION_START (R94). -/
  | invocationStart (die : Nat)
  /-- BUDGET_EXPIRY (R93). -/
  | budgetExpiry (inv : Nat)
  /-- ACCESS_SLOT (R97). -/
  | accessSlot (bank : Nat)
  /-- REFRESH (R100). -/
  | refresh (bank : Nat)
  /-- SYNDROME_CORRECTION (R102). -/
  | syndromeCorrection (inv : Nat)
  /-- CPYB_DEST_WRITE (R105). -/
  | cpybDestWrite (inv : Nat)
  /-- SCRUBBER_VISIT (R103). -/
  | scrubberVisit (row : Nat)
  /-- ROW_LOCK_EXPIRY (R99). -/
  | rowLockExpiry (lock : Nat)
  /-- BKLOCK_HELD (R394). -/
  | bklockHeld (lock : Nat)
  /-- BPCTL_WRITE (R108). -/
  | bpctlWrite (die : Nat) (val : BitVec 64)
  /-- ENERGY_TELEMETRY_TICK (R110). -/
  | energyTelemetryTick (die : Nat)
  /-- BKOP_COMPLETE (R391). -/
  | bkopComplete (cmd : Nat)
  /-- BKCOPY_COMPLETE (R395). -/
  | bkcopyComplete (cmd : Nat)
  /-- WICKLOAD_DIE_LOAD (R91). -/
  | wickloadDieLoad (die : Nat) (slot : Nat)
  /-- GSCTL_WRITE (R136). -/
  | gsctlWrite (stack : Nat) (val : BitVec 64)
  /-- SNAP_REQUEST (R119). -/
  | snapRequest
  /-- FLIP_ARRIVAL (R116). -/
  | flipArrival (unit : Nat)
  /-- SETTLE_ACK (R119). -/
  | settleAck (unit : Nat)
  /-- SNAP_ANSWER (R120). -/
  | snapAnswer (place : Nat)
  /-- TRACKED_WRITE (R122). -/
  | trackedWrite (req : Nat)
  /-- PRESERVE_ROW_COPIED (R123). -/
  | preserveRowCopied (frame : Nat)
  /-- RESERVE_FRAME_FREED (R130). -/
  | reserveFrameFreed (frame : Nat)
  /-- RESERVE_TIMEOUT (R131). -/
  | reserveTimeout (slot : Nat)
  /-- DRAIN_VISIT (R134). -/
  | drainVisit (slot : Nat) (block : Nat)
  /-- DRAIN_COMPLETE (R135). -/
  | drainComplete (slot : Nat)
  /-- SYMBOL_RESOLVE (R190). -/
  | symbolResolve (place : Nat) (slot : Nat)
  /-- SYMBOL_POISON (R192). -/
  | symbolPoison (place : Nat) (slot : Nat)
  /-- VECTOR_TRAP_POINT (R185). -/
  | vectorTrapPoint (place : Nat)
  /-- VECTOR_LOAD_DATA (R340). -/
  | vectorLoadData (place : Nat)
  /-- BARRIER_ARM (R347). -/
  | barrierArm (copy : Nat)
  /-- BARRIER_TAKE (R347). -/
  | barrierTake (copy : Nat)
  /-- BARRIER_ARRIVE (R347). -/
  | barrierArrive (sig : Nat)
  /-- BWAIT_RETURN (R351). -/
  | bwaitReturn (place : Nat)
  /-- BWAIT_TIMEOUT (R351). -/
  | bwaitTimeout (place : Nat)
  /-- CBWAIT_RETURN (R356). -/
  | cbwaitReturn (place : Nat)
  /-- CBWAIT_TIMEOUT (R356). -/
  | cbwaitTimeout (place : Nat)
  /-- WFE_WAKE (R298). -/
  | wfeWake (place : Nat)
  /-- WFE_TIMEOUT (R298). -/
  | wfeTimeout (place : Nat)
  /-- SWAIT_WAKE (R304). -/
  | swaitWake (place : Nat)
  /-- SWAIT_TIMEOUT (R304). -/
  | swaitTimeout (place : Nat)
  /-- MLDW_BAY (R367). -/
  | mldwBay (op : Nat)
  /-- MMA_BAY (R369). -/
  | mmaBay (op : Nat)
  /-- MMAZ_BAY (R364). -/
  | mmazBay (op : Nat)
  /-- MSTA_BAY (R371). -/
  | mstaBay (op : Nat)
  /-- MCHK_BAY (R372). -/
  | mchkBay (op : Nat)
  /-- MVER_BAY (R373). -/
  | mverBay (op : Nat)
  /-- MATRIX_OP_COMPLETE (R376). -/
  | matrixOpComplete (op : Nat)
  /-- COPY_ACCEPT (R347). -/
  | copyAccept (copy : Nat)
  /-- COPY_CLASS_ROUND (R422). -/
  | copyClassRound (stack : Nat)
  /-- COPY_BUFFER_READY (R380). -/
  | copyBufferReady (copy : Nat)
  /-- COPY_CHUNK_COMPLETE (R381). -/
  | copyChunkComplete (copy : Nat) (chunk : Nat)
  /-- COPY_COMPLETE (R382). -/
  | copyComplete (copy : Nat)
  /-- DECREMENT_ARRIVAL (R414). -/
  | decrementArrival (stack : Nat) (vf : Nat) (tag : Nat)
  /-- NODE_FIRE (R415). -/
  | nodeFire (node : Nat)
  /-- SCHEDULING_TICK (R415). -/
  | schedulingTick (stack : Nat)
  /-- NODE_DISPATCH (R419). -/
  | nodeDispatch (stack : Nat) (bind : BitVec 64)
  /-- RESERVATION_OPEN (R418). -/
  | reservationOpen (stack : Nat) (quad : Nat)
  /-- NODE_COMPLETE (R416). -/
  | nodeComplete (node : Nat)
  /-- GANG_READY (R420). -/
  | gangReady (node : Nat)
  /-- GANG_START (R420). -/
  | gangStart (node : Nat)
  /-- GANG_ACK (R420). -/
  | gangAck (node : Nat)
  /-- GANG_NAY (R420). -/
  | gangNay (node : Nat)
  /-- GANG_ACK_DEADLINE (R420). -/
  | gangAckDeadline (vf : Nat) (gang : Nat)
  /-- GANG_GO (R420). -/
  | gangGo (node : Nat)
  /-- GANG_START_TICK (R420). -/
  | gangStartTick (node : Nat)
  /-- GANG_LATE (R420). -/
  | gangLate (node : Nat)
  /-- GANG_ABORT (R421). -/
  | gangAbort (node : Nat)
  /-- GANG_TIMEOUT (R420). -/
  | gangTimeout (node : Nat)
  /-- NAK_RECEIVED (R423). -/
  | nakReceived (sender : Nat)
  /-- REPLAY_BACKOFF_EXPIRY (R423). -/
  | replayBackoffExpiry (sender : Nat)
  /-- PREEMPT_REQUEST (R424). -/
  | preemptRequest (place : Nat) (save : Nat)
  /-- PREEMPT_DRAIN_DONE (R425). -/
  | preemptDrainDone (place : Nat)
  /-- PREEMPT_T1_EXPIRY (R425). -/
  | preemptT1Expiry (place : Nat)
  /-- PREEMPT_T2_EXPIRY (R425). -/
  | preemptT2Expiry (place : Nat)
  /-- CONTEXT_SAVE_DONE (R425). -/
  | contextSaveDone (place : Nat)
  /-- CONTEXT_RESUME (R216). -/
  | contextResume (save : Nat) (place : Nat) (vlen : Nat)
  /-- QSUB_WRITE (R428). -/
  | qsubWrite (vf : Nat) (val : BitVec 64)
  /-- QSTAT_WRITE (R429). -/
  | qstatWrite (vf : Nat) (val : BitVec 64) (lvl : BitVec 2)
  /-- MAILBOX_ROLLBACK (R137). -/
  | mailboxRollback (stack : Nat) (i : Nat)
  /-- MAILBOX_UNKNOWN_SERVICE (R432). -/
  | mailboxUnknownService (stack : Nat) (i : Nat)
  /-- FIRMWARE_RESTART (R429). -/
  | firmwareRestart (stack : Nat)
  /-- WATCHDOG_EXPIRY (R452). -/
  | watchdogExpiry (stack : Nat) (hart : Nat)
  /-- RASHB_WRITE (R457). -/
  | rashbWrite (stack : Nat) (val : BitVec 64)
  /-- HDOOR_WRITE (R457). -/
  | hdoorWrite (stack : Nat) (core : Nat)
  /-- INTERRUPT_TAKE (R441). -/
  | interruptTake (place : Nat)
  /-- STACK_FENCE (R454). -/
  | stackFence (stack : Nat)
  /-- DIE_FENCE (R454). -/
  | dieFence (die : Nat)
  /-- FATAL_ERROR (R459). -/
  | fatalError (why : Nat)
  /-- MESH_FLIT_CRC_ERROR (R450). -/
  | meshFlitCrcError (stack : Nat) (port : Nat)
  /-- HOST_LINK_TRAINED (R462). -/
  | hostLinkTrained (port : Nat) (cxl : Bool) (width : Nat) (gen : Nat)
  /-- HOST_MEM_REQUEST (R464). -/
  | hostMemRequest (off : Nat) (wr : Bool) (data : BitVec 64)
  /-- BISNP_RESPONSE (R465). -/
  | bisnpResponse (line : Nat) (dirty : Bool) (data : BitVec 512)
  /-- HOST_SNOOP (R466). -/
  | hostSnoop (addr : Nat)
  /-- UIO_COMPLETION (R467). -/
  | uioCompletion (req : Nat) (psn : Bool)
  /-- UIO_TIMEOUT (R467). -/
  | uioTimeout (req : Nat)
  /-- TOKEN_BUCKET_REFILL (R469). -/
  | tokenBucketRefill (stack : Nat) (vf : Nat)
  /-- VF_FLR (R470). -/
  | vfFlr (vf : Nat)
  /-- KEYGEN_WRITE (R471). -/
  | keygenWrite (val : BitVec 64)
  /-- GLOWLINE_LINK_TRAINED (R472). -/
  | glowlineLinkTrained (port : Nat) (peer : Nat) (pport : Nat)
  /-- GLOWLINE_FLIT (R472). -/
  | glowlineFlit (port : Nat) (crcOk : Bool) (seq : Nat)
  /-- TIMEBASE_FLIT (R474). -/
  | timebaseFlit (port : Nat) (delta : BitVec 64)
  /-- PART_RESET (R475). -/
  | partReset
  /-- RECOVERY_LOAD (R476). -/
  | recoveryLoad
  /-- RECOVERY_COMMIT (R476). -/
  | recoveryCommit
  /-- RECOVERY_RESET (R476). -/
  | recoveryReset
  /-- GET_VERSION (R477). -/
  | getVersion
  /-- GET_CAPABILITIES (R477). -/
  | getCapabilities
  /-- NEGOTIATE_ALGORITHMS (R477). -/
  | negotiateAlgorithms
  /-- GET_DIGESTS (R477). -/
  | getDigests
  /-- GET_CERTIFICATE (R477). -/
  | getCertificate
  /-- CHALLENGE (R477). -/
  | challenge
  /-- GET_MEASUREMENTS (R477). -/
  | getMeasurements (idx : Nat)
  /-- KEY_EXCHANGE (R477). -/
  | keyExchange
  /-- FINISH (R477). -/
  | finish
  /-- INPUT_VOLTAGE_FAULT (R478). -/
  | inputVoltageFault
  /-- POWER_THROTTLE (R478). -/
  | powerThrottle
  /-- ILLEGAL_INSTRUCTION (R246). -/
  | illegalInstruction (word : BitVec 32)
  /-- INSTRUCTION_FETCH_FAULT (R437). -/
  | instructionFetchFault (cause : Nat) (tval : BitVec 64)
  /-- INPUT_VOLTAGE_RESTORED (R478). -/
  | inputVoltageRestored
  /-- CONTEXT_DESTRUCTION (R61). -/
  | contextDestruction (ctx : Nat)
  /-- WNOP (R401). -/
  | uNop
  /-- AAP (R401). -/
  | uAap (d : BitVec 6) (s : BitVec 6)
  /-- AP3 (R401). -/
  | uAp3 (z : BitVec 2) (y : BitVec 2) (x : BitVec 2)
  /-- NOT (R401). -/
  | uNot (d : BitVec 6) (s : BitVec 6)
  /-- SHL (R401). -/
  | uShl (d : BitVec 6) (s : BitVec 6)
  /-- SHR (R401). -/
  | uShr (d : BitVec 6) (s : BitVec 6)
  /-- ZR (R401). -/
  | uZr (d : BitVec 6)
  /-- ON (R401). -/
  | uOn (d : BitVec 6)
  /-- ECR (R401). -/
  | uEcr (d : BitVec 6)
  /-- CPYB (R401). -/
  | uCpyb (n : BitVec 2) (s : BitVec 6)
  /-- LOOP (R402). -/
  | uLoop (e : BitVec 2) (v : BitVec 10)
  /-- END (R402). -/
  | uEnd (k : BitVec 4)
  /-- PAR (R401). -/
  | uPar (r : BitVec 2) (m : BitVec 2) (v : BitVec 8)
  /-- SIG (R401). -/
  | uSig (v : BitVec 12)
  /-- WAIT (R401). -/
  | uWait (k : BitVec 12)
  /-- HALT (R401). -/
  | uHalt (v : BitVec 12)
  /-- ADD (R268). -/
  | add (sc : BitVec 2) (rd : BitVec 5) (rs1 : BitVec 5) (rs2 : BitVec 5)
  /-- SUB (R268). -/
  | sub (sc : BitVec 2) (rd : BitVec 5) (rs1 : BitVec 5) (rs2 : BitVec 5)
  /-- MUL (R268). -/
  | mul (sc : BitVec 2) (rd : BitVec 5) (rs1 : BitVec 5) (rs2 : BitVec 5)
  /-- MULH (R268). -/
  | mulh (sc : BitVec 2) (rd : BitVec 5) (rs1 : BitVec 5) (rs2 : BitVec 5)
  /-- MULHN (R268). -/
  | mulhn (sc : BitVec 2) (rd : BitVec 5) (rs1 : BitVec 5) (rs2 : BitVec 5)
  /-- DIV (R269). -/
  | div (sc : BitVec 2) (rd : BitVec 5) (rs1 : BitVec 5) (rs2 : BitVec 5)
  /-- DIVN (R269). -/
  | divn (sc : BitVec 2) (rd : BitVec 5) (rs1 : BitVec 5) (rs2 : BitVec 5)
  /-- REM (R269). -/
  | rem (sc : BitVec 2) (rd : BitVec 5) (rs1 : BitVec 5) (rs2 : BitVec 5)
  /-- REMN (R269). -/
  | remn (sc : BitVec 2) (rd : BitVec 5) (rs1 : BitVec 5) (rs2 : BitVec 5)
  /-- AND (R268). -/
  | andR (sc : BitVec 2) (rd : BitVec 5) (rs1 : BitVec 5) (rs2 : BitVec 5)
  /-- OR (R268). -/
  | orR (sc : BitVec 2) (rd : BitVec 5) (rs1 : BitVec 5) (rs2 : BitVec 5)
  /-- XOR (R268). -/
  | xorR (sc : BitVec 2) (rd : BitVec 5) (rs1 : BitVec 5) (rs2 : BitVec 5)
  /-- SLL (R268). -/
  | sll (sc : BitVec 2) (rd : BitVec 5) (rs1 : BitVec 5) (rs2 : BitVec 5)
  /-- SRL (R268). -/
  | srl (sc : BitVec 2) (rd : BitVec 5) (rs1 : BitVec 5) (rs2 : BitVec 5)
  /-- SRA (R268). -/
  | sra (sc : BitVec 2) (rd : BitVec 5) (rs1 : BitVec 5) (rs2 : BitVec 5)
  /-- SLT (R268). -/
  | slt (sc : BitVec 2) (rd : BitVec 5) (rs1 : BitVec 5) (rs2 : BitVec 5)
  /-- SLTN (R268). -/
  | sltn (sc : BitVec 2) (rd : BitVec 5) (rs1 : BitVec 5) (rs2 : BitVec 5)
  /-- MIN (R268). -/
  | minR (sc : BitVec 2) (rd : BitVec 5) (rs1 : BitVec 5) (rs2 : BitVec 5)
  /-- MAX (R268). -/
  | maxR (sc : BitVec 2) (rd : BitVec 5) (rs1 : BitVec 5) (rs2 : BitVec 5)
  /-- MINN (R268). -/
  | minn (sc : BitVec 2) (rd : BitVec 5) (rs1 : BitVec 5) (rs2 : BitVec 5)
  /-- MAXN (R268). -/
  | maxn (sc : BitVec 2) (rd : BitVec 5) (rs1 : BitVec 5) (rs2 : BitVec 5)
  /-- CLZ (R268). -/
  | clz (sc : BitVec 2) (rd : BitVec 5) (rs1 : BitVec 5)
  /-- CTZ (R268). -/
  | ctz (sc : BitVec 2) (rd : BitVec 5) (rs1 : BitVec 5)
  /-- POPC (R268). -/
  | popc (sc : BitVec 2) (rd : BitVec 5) (rs1 : BitVec 5)
  /-- SEXT (R268). -/
  | sext (sc : BitVec 2) (rd : BitVec 5) (rs1 : BitVec 5) (w : BitVec 5)
  /-- ZEXT (R268). -/
  | zext (sc : BitVec 2) (rd : BitVec 5) (rs1 : BitVec 5) (w : BitVec 5)
  /-- ADDI (R270). -/
  | addi (sc : BitVec 2) (rd : BitVec 5) (rs1 : BitVec 5) (i : BitVec 12)
  /-- ANDI (R270). -/
  | andi (sc : BitVec 2) (rd : BitVec 5) (rs1 : BitVec 5) (i : BitVec 12)
  /-- ORI (R270). -/
  | ori (sc : BitVec 2) (rd : BitVec 5) (rs1 : BitVec 5) (i : BitVec 12)
  /-- XORI (R270). -/
  | xori (sc : BitVec 2) (rd : BitVec 5) (rs1 : BitVec 5) (i : BitVec 12)
  /-- SLTI (R270). -/
  | slti (sc : BitVec 2) (rd : BitVec 5) (rs1 : BitVec 5) (i : BitVec 12)
  /-- SLLI (R270). -/
  | slli (sc : BitVec 2) (rd : BitVec 5) (rs1 : BitVec 5) (h : BitVec 6)
  /-- SRLI (R270). -/
  | srli (sc : BitVec 2) (rd : BitVec 5) (rs1 : BitVec 5) (h : BitVec 6)
  /-- SRAI (R270). -/
  | srai (sc : BitVec 2) (rd : BitVec 5) (rs1 : BitVec 5) (h : BitVec 6)
  /-- BFX (R271). -/
  | bfx (sc : BitVec 2) (rd : BitVec 5) (rs1 : BitVec 5) (p : BitVec 6) (l : BitVec 6)
  /-- BFI (R271). -/
  | bfi (sc : BitVec 2) (rd : BitVec 5) (rs1 : BitVec 5) (p : BitVec 6) (l : BitVec 6)
  /-- LUI (R272). -/
  | lui (sc : BitVec 2) (rd : BitVec 5) (i : BitVec 17)
  /-- AUIPC (R272). -/
  | auipc (sc : BitVec 2) (rd : BitVec 5) (i : BitVec 17)
  /-- JAL (R273). -/
  | jal (sc : BitVec 2) (rd : BitVec 5) (o : BitVec 17)
  /-- JALR (R274). -/
  | jalr (sc : BitVec 2) (rd : BitVec 5) (rs1 : BitVec 5) (i : BitVec 12)
  /-- BEQ (R275). -/
  | beq (sc : BitVec 2) (rs1 : BitVec 5) (rs2 : BitVec 5) (o : BitVec 11)
  /-- BNE (R275). -/
  | bne (sc : BitVec 2) (rs1 : BitVec 5) (rs2 : BitVec 5) (o : BitVec 11)
  /-- BLT (R275). -/
  | blt (sc : BitVec 2) (rs1 : BitVec 5) (rs2 : BitVec 5) (o : BitVec 11)
  /-- BGE (R275). -/
  | bge (sc : BitVec 2) (rs1 : BitVec 5) (rs2 : BitVec 5) (o : BitVec 11)
  /-- BLTN (R275). -/
  | bltn (sc : BitVec 2) (rs1 : BitVec 5) (rs2 : BitVec 5) (o : BitVec 11)
  /-- BGEN (R275). -/
  | bgen (sc : BitVec 2) (rs1 : BitVec 5) (rs2 : BitVec 5) (o : BitVec 11)
  /-- LD (R277). -/
  | ld (sc : BitVec 2) (rd : BitVec 5) (rs1 : BitVec 5) (o : BitVec 8) (w : BitVec 3)
  /-- LD_SCOPED (R277). -/
  | ldScoped (sc : BitVec 2) (rd : BitVec 5) (rs1 : BitVec 5) (o : BitVec 3) (y : BitVec 1) (q : BitVec 1) (p : BitVec 3) (w : BitVec 3)
  /-- ST (R279). -/
  | st (sc : BitVec 2) (rs1 : BitVec 5) (rs2 : BitVec 5) (o : BitVec 9) (w : BitVec 2)
  /-- ST_SCOPED (R279). -/
  | stScoped (sc : BitVec 2) (rs1 : BitVec 5) (rs2 : BitVec 5) (o : BitVec 5) (r : BitVec 1) (p : BitVec 3) (w : BitVec 2)
  /-- AMOADD_32 (R281). -/
  | amoadd32 (sc : BitVec 2) (rd : BitVec 5) (rs1 : BitVec 5) (rs2 : BitVec 5) (p : BitVec 2) (r : BitVec 1) (q : BitVec 1)
  /-- AMOADD_64 (R281). -/
  | amoadd64 (sc : BitVec 2) (rd : BitVec 5) (rs1 : BitVec 5) (rs2 : BitVec 5) (p : BitVec 2) (r : BitVec 1) (q : BitVec 1)
  /-- AMOADD_SY (R283). -/
  | amoaddSy (sc : BitVec 2) (rd : BitVec 5) (rs1 : BitVec 5) (rs2 : BitVec 5) (p : BitVec 2) (r : BitVec 1) (q : BitVec 1)
  /-- AMOAND_32 (R281). -/
  | amoand32 (sc : BitVec 2) (rd : BitVec 5) (rs1 : BitVec 5) (rs2 : BitVec 5) (p : BitVec 2) (r : BitVec 1) (q : BitVec 1)
  /-- AMOAND_64 (R281). -/
  | amoand64 (sc : BitVec 2) (rd : BitVec 5) (rs1 : BitVec 5) (rs2 : BitVec 5) (p : BitVec 2) (r : BitVec 1) (q : BitVec 1)
  /-- AMOAND_SY (R283). -/
  | amoandSy (sc : BitVec 2) (rd : BitVec 5) (rs1 : BitVec 5) (rs2 : BitVec 5) (p : BitVec 2) (r : BitVec 1) (q : BitVec 1)
  /-- AMOOR_32 (R281). -/
  | amoor32 (sc : BitVec 2) (rd : BitVec 5) (rs1 : BitVec 5) (rs2 : BitVec 5) (p : BitVec 2) (r : BitVec 1) (q : BitVec 1)
  /-- AMOOR_64 (R281). -/
  | amoor64 (sc : BitVec 2) (rd : BitVec 5) (rs1 : BitVec 5) (rs2 : BitVec 5) (p : BitVec 2) (r : BitVec 1) (q : BitVec 1)
  /-- AMOOR_SY (R283). -/
  | amoorSy (sc : BitVec 2) (rd : BitVec 5) (rs1 : BitVec 5) (rs2 : BitVec 5) (p : BitVec 2) (r : BitVec 1) (q : BitVec 1)
  /-- AMOXOR_32 (R281). -/
  | amoxor32 (sc : BitVec 2) (rd : BitVec 5) (rs1 : BitVec 5) (rs2 : BitVec 5) (p : BitVec 2) (r : BitVec 1) (q : BitVec 1)
  /-- AMOXOR_64 (R281). -/
  | amoxor64 (sc : BitVec 2) (rd : BitVec 5) (rs1 : BitVec 5) (rs2 : BitVec 5) (p : BitVec 2) (r : BitVec 1) (q : BitVec 1)
  /-- AMOXOR_SY (R283). -/
  | amoxorSy (sc : BitVec 2) (rd : BitVec 5) (rs1 : BitVec 5) (rs2 : BitVec 5) (p : BitVec 2) (r : BitVec 1) (q : BitVec 1)
  /-- AMOMIN_32 (R281). -/
  | amomin32 (sc : BitVec 2) (rd : BitVec 5) (rs1 : BitVec 5) (rs2 : BitVec 5) (p : BitVec 2) (r : BitVec 1) (q : BitVec 1)
  /-- AMOMIN_64 (R281). -/
  | amomin64 (sc : BitVec 2) (rd : BitVec 5) (rs1 : BitVec 5) (rs2 : BitVec 5) (p : BitVec 2) (r : BitVec 1) (q : BitVec 1)
  /-- AMOMIN_SY (R283). -/
  | amominSy (sc : BitVec 2) (rd : BitVec 5) (rs1 : BitVec 5) (rs2 : BitVec 5) (p : BitVec 2) (r : BitVec 1) (q : BitVec 1)
  /-- AMOMAX_32 (R281). -/
  | amomax32 (sc : BitVec 2) (rd : BitVec 5) (rs1 : BitVec 5) (rs2 : BitVec 5) (p : BitVec 2) (r : BitVec 1) (q : BitVec 1)
  /-- AMOMAX_64 (R281). -/
  | amomax64 (sc : BitVec 2) (rd : BitVec 5) (rs1 : BitVec 5) (rs2 : BitVec 5) (p : BitVec 2) (r : BitVec 1) (q : BitVec 1)
  /-- AMOMAX_SY (R283). -/
  | amomaxSy (sc : BitVec 2) (rd : BitVec 5) (rs1 : BitVec 5) (rs2 : BitVec 5) (p : BitVec 2) (r : BitVec 1) (q : BitVec 1)
  /-- AMOMINN_32 (R281). -/
  | amominn32 (sc : BitVec 2) (rd : BitVec 5) (rs1 : BitVec 5) (rs2 : BitVec 5) (p : BitVec 2) (r : BitVec 1) (q : BitVec 1)
  /-- AMOMINN_64 (R281). -/
  | amominn64 (sc : BitVec 2) (rd : BitVec 5) (rs1 : BitVec 5) (rs2 : BitVec 5) (p : BitVec 2) (r : BitVec 1) (q : BitVec 1)
  /-- AMOMINN_SY (R283). -/
  | amominnSy (sc : BitVec 2) (rd : BitVec 5) (rs1 : BitVec 5) (rs2 : BitVec 5) (p : BitVec 2) (r : BitVec 1) (q : BitVec 1)
  /-- AMOMAXN_32 (R281). -/
  | amomaxn32 (sc : BitVec 2) (rd : BitVec 5) (rs1 : BitVec 5) (rs2 : BitVec 5) (p : BitVec 2) (r : BitVec 1) (q : BitVec 1)
  /-- AMOMAXN_64 (R281). -/
  | amomaxn64 (sc : BitVec 2) (rd : BitVec 5) (rs1 : BitVec 5) (rs2 : BitVec 5) (p : BitVec 2) (r : BitVec 1) (q : BitVec 1)
  /-- AMOMAXN_SY (R283). -/
  | amomaxnSy (sc : BitVec 2) (rd : BitVec 5) (rs1 : BitVec 5) (rs2 : BitVec 5) (p : BitVec 2) (r : BitVec 1) (q : BitVec 1)
  /-- AMOSWAP_32 (R281). -/
  | amoswap32 (sc : BitVec 2) (rd : BitVec 5) (rs1 : BitVec 5) (rs2 : BitVec 5) (p : BitVec 2) (r : BitVec 1) (q : BitVec 1)
  /-- AMOSWAP_64 (R281). -/
  | amoswap64 (sc : BitVec 2) (rd : BitVec 5) (rs1 : BitVec 5) (rs2 : BitVec 5) (p : BitVec 2) (r : BitVec 1) (q : BitVec 1)
  /-- AMOSWAP_SY (R283). -/
  | amoswapSy (sc : BitVec 2) (rd : BitVec 5) (rs1 : BitVec 5) (rs2 : BitVec 5) (p : BitVec 2) (r : BitVec 1) (q : BitVec 1)
  /-- AMOCAS_32 (R281). -/
  | amocas32 (sc : BitVec 2) (rd : BitVec 5) (rs1 : BitVec 5) (rs2 : BitVec 5) (p : BitVec 2) (r : BitVec 1) (q : BitVec 1)
  /-- AMOCAS_64 (R281). -/
  | amocas64 (sc : BitVec 2) (rd : BitVec 5) (rs1 : BitVec 5) (rs2 : BitVec 5) (p : BitVec 2) (r : BitVec 1) (q : BitVec 1)
  /-- AMOCAS_SY (R283). -/
  | amocasSy (sc : BitVec 2) (rd : BitVec 5) (rs1 : BitVec 5) (rs2 : BitVec 5) (p : BitVec 2) (r : BitVec 1) (q : BitVec 1)
  /-- AMOFADD (R282). -/
  | amofadd (sc : BitVec 2) (rd : BitVec 5) (rs1 : BitVec 5) (rs2 : BitVec 5) (p : BitVec 2) (r : BitVec 1) (q : BitVec 1)
  /-- FADD (R286). -/
  | fadd (sc : BitVec 2) (rd : BitVec 5) (rs1 : BitVec 5) (rs2 : BitVec 5) (f : BitVec 2) (m : BitVec 3)
  /-- FSUB (R286). -/
  | fsub (sc : BitVec 2) (rd : BitVec 5) (rs1 : BitVec 5) (rs2 : BitVec 5) (f : BitVec 2) (m : BitVec 3)
  /-- FMUL (R286). -/
  | fmul (sc : BitVec 2) (rd : BitVec 5) (rs1 : BitVec 5) (rs2 : BitVec 5) (f : BitVec 2) (m : BitVec 3)
  /-- FDIV (R286). -/
  | fdiv (sc : BitVec 2) (rd : BitVec 5) (rs1 : BitVec 5) (rs2 : BitVec 5) (f : BitVec 2) (m : BitVec 3)
  /-- FMA (R286). -/
  | fma (sc : BitVec 2) (rd : BitVec 5) (rs1 : BitVec 5) (rs2 : BitVec 5) (f : BitVec 2) (e : BitVec 5)
  /-- FSQRT (R287). -/
  | fsqrt (sc : BitVec 2) (rd : BitVec 5) (rs1 : BitVec 5) (f : BitVec 2) (m : BitVec 3)
  /-- FCVT_TO (R287). -/
  | fcvtTo (sc : BitVec 2) (rd : BitVec 5) (rs1 : BitVec 5) (f : BitVec 2) (m : BitVec 3) (k : BitVec 5)
  /-- FCVT_FROM (R287). -/
  | fcvtFrom (sc : BitVec 2) (rd : BitVec 5) (rs1 : BitVec 5) (f : BitVec 2) (m : BitVec 3) (k : BitVec 5)
  /-- FMIN (R288). -/
  | fmin (sc : BitVec 2) (rd : BitVec 5) (rs1 : BitVec 5) (rs2 : BitVec 5) (f : BitVec 2)
  /-- FMAX (R288). -/
  | fmax (sc : BitVec 2) (rd : BitVec 5) (rs1 : BitVec 5) (rs2 : BitVec 5) (f : BitVec 2)
  /-- FCMP_EQ (R288). -/
  | fcmpEq (sc : BitVec 2) (rd : BitVec 5) (rs1 : BitVec 5) (rs2 : BitVec 5) (f : BitVec 2)
  /-- FCMP_LT (R288). -/
  | fcmpLt (sc : BitVec 2) (rd : BitVec 5) (rs1 : BitVec 5) (rs2 : BitVec 5) (f : BitVec 2)
  /-- FCMP_LE (R288). -/
  | fcmpLe (sc : BitVec 2) (rd : BitVec 5) (rs1 : BitVec 5) (rs2 : BitVec 5) (f : BitVec 2)
  /-- FSGN (R288). -/
  | fsgn (sc : BitVec 2) (rd : BitVec 5) (rs1 : BitVec 5) (rs2 : BitVec 5) (f : BitVec 2)
  /-- FSGN_N (R288). -/
  | fsgnN (sc : BitVec 2) (rd : BitVec 5) (rs1 : BitVec 5) (rs2 : BitVec 5) (f : BitVec 2)
  /-- FSGN_X (R288). -/
  | fsgnX (sc : BitVec 2) (rd : BitVec 5) (rs1 : BitVec 5) (rs2 : BitVec 5) (f : BitVec 2)
  /-- FCLASS (R288). -/
  | fclass (sc : BitVec 2) (rd : BitVec 5) (rs1 : BitVec 5) (f : BitVec 2)
  /-- CSRR (R294). -/
  | csrr (sc : BitVec 2) (rd : BitVec 5) (i : BitVec 12)
  /-- CSRW (R295). -/
  | csrw (sc : BitVec 2) (rs1 : BitVec 5) (i : BitVec 12)
  /-- CSRS (R295). -/
  | csrs (sc : BitVec 2) (rs1 : BitVec 5) (i : BitVec 12)
  /-- CSRC (R295). -/
  | csrc (sc : BitVec 2) (rs1 : BitVec 5) (i : BitVec 12)
  /-- ECALL (R296). -/
  | ecall (sc : BitVec 2)
  /-- EBREAK (R296). -/
  | ebreak (sc : BitVec 2)
  /-- ERET (R297). -/
  | eret (sc : BitVec 2)
  /-- WFE (R298). -/
  | wfe (sc : BitVec 2) (rd : BitVec 5) (rs1 : BitVec 5)
  /-- SYMQ (R292). -/
  | symq (sc : BitVec 2) (rd : BitVec 5) (n : BitVec 5)
  /-- SYMWAIT (R293). -/
  | symwait (sc : BitVec 2) (rs1 : BitVec 5)
  /-- SNAP (R299). -/
  | snap (sc : BitVec 2) (rd : BitVec 5)
  /-- SNAPQ (R300). -/
  | snapq (sc : BitVec 2) (rd : BitVec 5) (rs1 : BitVec 5)
  /-- TSUBMIT (R301). -/
  | tsubmit (sc : BitVec 2) (rd : BitVec 5) (rs1 : BitVec 5) (rs2 : BitVec 5)
  /-- TDONE (R302). -/
  | tdone (sc : BitVec 2)
  /-- LKLINE (R284). -/
  | lkline (sc : BitVec 2) (rd : BitVec 5) (rs1 : BitVec 5)
  /-- ULKLINE (R284). -/
  | ulkline (sc : BitVec 2) (rd : BitVec 5) (rs1 : BitVec 5)
  /-- VSETVL (R306). -/
  | vsetvl (sc : BitVec 2) (rd : BitVec 5) (rs1 : BitVec 5) (rs2 : BitVec 5)
  /-- VSETDIM (R307). -/
  | vsetdim (sc : BitVec 2) (rd : BitVec 5) (rs1 : BitVec 5) (rs2 : BitVec 5) (e : BitVec 2)
  /-- VSETVLI (R306). -/
  | vsetvli (sc : BitVec 2) (rd : BitVec 5) (rs1 : BitVec 5) (l : BitVec 3) (s : BitVec 3)
  /-- QFETCH (R303). -/
  | qfetch (sc : BitVec 2) (rd : BitVec 5) (rs1 : BitVec 5)
  /-- SWAIT (R304). -/
  | swait (sc : BitVec 2) (rd : BitVec 5) (rs1 : BitVec 5) (rs2 : BitVec 5)
  /-- DISPATCH (R305). -/
  | dispatch (sc : BitVec 2) (rd : BitVec 5) (rs1 : BitVec 5) (rs2 : BitVec 5)
  /-- VADD (R315). -/
  | vadd (sc : BitVec 2) (rd : BitVec 5) (rs1 : BitVec 5) (rs2 : BitVec 5) (m : BitVec 3) (g : BitVec 2)
  /-- VSUB (R315). -/
  | vsub (sc : BitVec 2) (rd : BitVec 5) (rs1 : BitVec 5) (rs2 : BitVec 5) (m : BitVec 3) (g : BitVec 2)
  /-- VRSUB (R315). -/
  | vrsub (sc : BitVec 2) (rd : BitVec 5) (rs1 : BitVec 5) (rs2 : BitVec 5) (m : BitVec 3) (g : BitVec 2)
  /-- VMUL (R315). -/
  | vmul (sc : BitVec 2) (rd : BitVec 5) (rs1 : BitVec 5) (rs2 : BitVec 5) (m : BitVec 3) (g : BitVec 2)
  /-- VMACC (R315). -/
  | vmacc (sc : BitVec 2) (rd : BitVec 5) (rs1 : BitVec 5) (rs2 : BitVec 5) (m : BitVec 3) (g : BitVec 2)
  /-- VNMSAC (R315). -/
  | vnmsac (sc : BitVec 2) (rd : BitVec 5) (rs1 : BitVec 5) (rs2 : BitVec 5) (m : BitVec 3) (g : BitVec 2)
  /-- VAND (R315). -/
  | vand (sc : BitVec 2) (rd : BitVec 5) (rs1 : BitVec 5) (rs2 : BitVec 5) (m : BitVec 3) (g : BitVec 2)
  /-- VOR (R315). -/
  | vor (sc : BitVec 2) (rd : BitVec 5) (rs1 : BitVec 5) (rs2 : BitVec 5) (m : BitVec 3) (g : BitVec 2)
  /-- VXOR (R315). -/
  | vxor (sc : BitVec 2) (rd : BitVec 5) (rs1 : BitVec 5) (rs2 : BitVec 5) (m : BitVec 3) (g : BitVec 2)
  /-- VSLL (R315). -/
  | vsll (sc : BitVec 2) (rd : BitVec 5) (rs1 : BitVec 5) (rs2 : BitVec 5) (m : BitVec 3) (g : BitVec 2)
  /-- VSRL (R315). -/
  | vsrl (sc : BitVec 2) (rd : BitVec 5) (rs1 : BitVec 5) (rs2 : BitVec 5) (m : BitVec 3) (g : BitVec 2)
  /-- VSRA (R315). -/
  | vsra (sc : BitVec 2) (rd : BitVec 5) (rs1 : BitVec 5) (rs2 : BitVec 5) (m : BitVec 3) (g : BitVec 2)
  /-- VMERGE (R315). -/
  | vmerge (sc : BitVec 2) (rd : BitVec 5) (rs1 : BitVec 5) (rs2 : BitVec 5) (m : BitVec 3) (g : BitVec 2)
  /-- VMV (R315). -/
  | vmv (sc : BitVec 2) (rd : BitVec 5) (rs1 : BitVec 5) (m : BitVec 3) (g : BitVec 2)
  /-- VNSRA (R315). -/
  | vnsra (sc : BitVec 2) (rd : BitVec 5) (rs1 : BitVec 5) (rs2 : BitVec 5) (m : BitVec 3) (g : BitVec 2)
  /-- VADD_CH (R331). -/
  | vaddCh (sc : BitVec 2) (rd : BitVec 5) (rs1 : BitVec 5) (m : BitVec 3) (g : BitVec 2)
  /-- VMULH (R316). -/
  | vmulh (sc : BitVec 2) (rd : BitVec 5) (rs1 : BitVec 5) (rs2 : BitVec 5) (u : BitVec 1) (m : BitVec 3) (g : BitVec 3)
  /-- VDIV (R316). -/
  | vdiv (sc : BitVec 2) (rd : BitVec 5) (rs1 : BitVec 5) (rs2 : BitVec 5) (u : BitVec 1) (m : BitVec 3) (g : BitVec 3)
  /-- VREM (R316). -/
  | vrem (sc : BitVec 2) (rd : BitVec 5) (rs1 : BitVec 5) (rs2 : BitVec 5) (u : BitVec 1) (m : BitVec 3) (g : BitVec 3)
  /-- VMIN (R316). -/
  | vmin (sc : BitVec 2) (rd : BitVec 5) (rs1 : BitVec 5) (rs2 : BitVec 5) (u : BitVec 1) (m : BitVec 3) (g : BitVec 3)
  /-- VMAX (R316). -/
  | vmax (sc : BitVec 2) (rd : BitVec 5) (rs1 : BitVec 5) (rs2 : BitVec 5) (u : BitVec 1) (m : BitVec 3) (g : BitVec 3)
  /-- VSADD (R316). -/
  | vsadd (sc : BitVec 2) (rd : BitVec 5) (rs1 : BitVec 5) (rs2 : BitVec 5) (u : BitVec 1) (m : BitVec 3) (g : BitVec 3)
  /-- VSSUB (R316). -/
  | vssub (sc : BitVec 2) (rd : BitVec 5) (rs1 : BitVec 5) (rs2 : BitVec 5) (u : BitVec 1) (m : BitVec 3) (g : BitVec 3)
  /-- VCLAMP (R316). -/
  | vclamp (sc : BitVec 2) (rd : BitVec 5) (rs1 : BitVec 5) (rs2 : BitVec 5) (u : BitVec 1) (m : BitVec 3) (g : BitVec 3)
  /-- VFADD (R318). -/
  | vfadd (sc : BitVec 2) (rd : BitVec 5) (rs1 : BitVec 5) (rs2 : BitVec 5) (m : BitVec 3) (g : BitVec 1)
  /-- VFSUB (R318). -/
  | vfsub (sc : BitVec 2) (rd : BitVec 5) (rs1 : BitVec 5) (rs2 : BitVec 5) (m : BitVec 3) (g : BitVec 1)
  /-- VFMUL (R318). -/
  | vfmul (sc : BitVec 2) (rd : BitVec 5) (rs1 : BitVec 5) (rs2 : BitVec 5) (m : BitVec 3) (g : BitVec 1)
  /-- VFDIV (R318). -/
  | vfdiv (sc : BitVec 2) (rd : BitVec 5) (rs1 : BitVec 5) (rs2 : BitVec 5) (m : BitVec 3) (g : BitVec 1)
  /-- VFMA (R318). -/
  | vfma (sc : BitVec 2) (rd : BitVec 5) (rs1 : BitVec 5) (rs2 : BitVec 5) (m : BitVec 3) (g : BitVec 1)
  /-- VFNMA (R318). -/
  | vfnma (sc : BitVec 2) (rd : BitVec 5) (rs1 : BitVec 5) (rs2 : BitVec 5) (m : BitVec 3) (g : BitVec 1)
  /-- VFMIN (R318). -/
  | vfmin (sc : BitVec 2) (rd : BitVec 5) (rs1 : BitVec 5) (rs2 : BitVec 5) (m : BitVec 3) (g : BitVec 1)
  /-- VFMAX (R318). -/
  | vfmax (sc : BitVec 2) (rd : BitVec 5) (rs1 : BitVec 5) (rs2 : BitVec 5) (m : BitVec 3) (g : BitVec 1)
  /-- VFCMP_EQ (R318). -/
  | vfcmpEq (sc : BitVec 2) (rd : BitVec 5) (rs1 : BitVec 5) (rs2 : BitVec 5) (m : BitVec 3) (g : BitVec 1)
  /-- VFCMP_LT (R318). -/
  | vfcmpLt (sc : BitVec 2) (rd : BitVec 5) (rs1 : BitVec 5) (rs2 : BitVec 5) (m : BitVec 3) (g : BitVec 1)
  /-- VFCMP_LE (R318). -/
  | vfcmpLe (sc : BitVec 2) (rd : BitVec 5) (rs1 : BitVec 5) (rs2 : BitVec 5) (m : BitVec 3) (g : BitVec 1)
  /-- VFADD_CH (R331). -/
  | vfaddCh (sc : BitVec 2) (rd : BitVec 5) (rs1 : BitVec 5) (m : BitVec 3) (g : BitVec 1)
  /-- VFSQRT (R319). -/
  | vfsqrt (sc : BitVec 2) (rd : BitVec 5) (rs2 : BitVec 5) (m : BitVec 3)
  /-- VFRSQRT (R320). -/
  | vfrsqrt (sc : BitVec 2) (rd : BitVec 5) (rs2 : BitVec 5) (m : BitVec 3)
  /-- VFEXP2 (R320). -/
  | vfexp2 (sc : BitVec 2) (rd : BitVec 5) (rs2 : BitVec 5) (m : BitVec 3)
  /-- VFLOG2 (R320). -/
  | vflog2 (sc : BitVec 2) (rd : BitVec 5) (rs2 : BitVec 5) (m : BitVec 3)
  /-- VFCLASS (R319). -/
  | vfclass (sc : BitVec 2) (rd : BitVec 5) (rs2 : BitVec 5) (m : BitVec 3)
  /-- VFADD_BF16 (R318). -/
  | vfaddBf16 (sc : BitVec 2) (rd : BitVec 5) (rs1 : BitVec 5) (rs2 : BitVec 5) (m : BitVec 3) (g : BitVec 1)
  /-- VFSUB_BF16 (R318). -/
  | vfsubBf16 (sc : BitVec 2) (rd : BitVec 5) (rs1 : BitVec 5) (rs2 : BitVec 5) (m : BitVec 3) (g : BitVec 1)
  /-- VFMUL_BF16 (R318). -/
  | vfmulBf16 (sc : BitVec 2) (rd : BitVec 5) (rs1 : BitVec 5) (rs2 : BitVec 5) (m : BitVec 3) (g : BitVec 1)
  /-- VFDIV_BF16 (R318). -/
  | vfdivBf16 (sc : BitVec 2) (rd : BitVec 5) (rs1 : BitVec 5) (rs2 : BitVec 5) (m : BitVec 3) (g : BitVec 1)
  /-- VFMA_BF16 (R318). -/
  | vfmaBf16 (sc : BitVec 2) (rd : BitVec 5) (rs1 : BitVec 5) (rs2 : BitVec 5) (m : BitVec 3) (g : BitVec 1)
  /-- VFNMA_BF16 (R318). -/
  | vfnmaBf16 (sc : BitVec 2) (rd : BitVec 5) (rs1 : BitVec 5) (rs2 : BitVec 5) (m : BitVec 3) (g : BitVec 1)
  /-- VFMIN_BF16 (R318). -/
  | vfminBf16 (sc : BitVec 2) (rd : BitVec 5) (rs1 : BitVec 5) (rs2 : BitVec 5) (m : BitVec 3) (g : BitVec 1)
  /-- VFMAX_BF16 (R318). -/
  | vfmaxBf16 (sc : BitVec 2) (rd : BitVec 5) (rs1 : BitVec 5) (rs2 : BitVec 5) (m : BitVec 3) (g : BitVec 1)
  /-- VFCMP_EQ_BF16 (R318). -/
  | vfcmpEqBf16 (sc : BitVec 2) (rd : BitVec 5) (rs1 : BitVec 5) (rs2 : BitVec 5) (m : BitVec 3) (g : BitVec 1)
  /-- VFCMP_LT_BF16 (R318). -/
  | vfcmpLtBf16 (sc : BitVec 2) (rd : BitVec 5) (rs1 : BitVec 5) (rs2 : BitVec 5) (m : BitVec 3) (g : BitVec 1)
  /-- VFCMP_LE_BF16 (R318). -/
  | vfcmpLeBf16 (sc : BitVec 2) (rd : BitVec 5) (rs1 : BitVec 5) (rs2 : BitVec 5) (m : BitVec 3) (g : BitVec 1)
  /-- VFADD_CH_BF16 (R331). -/
  | vfaddChBf16 (sc : BitVec 2) (rd : BitVec 5) (rs1 : BitVec 5) (m : BitVec 3) (g : BitVec 1)
  /-- VFSQRT_BF16 (R319). -/
  | vfsqrtBf16 (sc : BitVec 2) (rd : BitVec 5) (rs2 : BitVec 5) (m : BitVec 3)
  /-- VFRSQRT_BF16 (R320). -/
  | vfrsqrtBf16 (sc : BitVec 2) (rd : BitVec 5) (rs2 : BitVec 5) (m : BitVec 3)
  /-- VFEXP2_BF16 (R320). -/
  | vfexp2Bf16 (sc : BitVec 2) (rd : BitVec 5) (rs2 : BitVec 5) (m : BitVec 3)
  /-- VFLOG2_BF16 (R320). -/
  | vflog2Bf16 (sc : BitVec 2) (rd : BitVec 5) (rs2 : BitVec 5) (m : BitVec 3)
  /-- VFCLASS_BF16 (R319). -/
  | vfclassBf16 (sc : BitVec 2) (rd : BitVec 5) (rs2 : BitVec 5) (m : BitVec 3)
  /-- VFCVT (R321). -/
  | vfcvt (sc : BitVec 2) (rd : BitVec 5) (rs2 : BitVec 5) (m : BitVec 3) (s : BitVec 5) (k : BitVec 5)
  /-- VCMP_EQ (R317). -/
  | vcmpEq (sc : BitVec 2) (rd : BitVec 5) (rs1 : BitVec 5) (rs2 : BitVec 5) (u : BitVec 1) (m : BitVec 3)
  /-- VCMP_NE (R317). -/
  | vcmpNe (sc : BitVec 2) (rd : BitVec 5) (rs1 : BitVec 5) (rs2 : BitVec 5) (u : BitVec 1) (m : BitVec 3)
  /-- VCMP_LT (R317). -/
  | vcmpLt (sc : BitVec 2) (rd : BitVec 5) (rs1 : BitVec 5) (rs2 : BitVec 5) (u : BitVec 1) (m : BitVec 3)
  /-- VCMP_LE (R317). -/
  | vcmpLe (sc : BitVec 2) (rd : BitVec 5) (rs1 : BitVec 5) (rs2 : BitVec 5) (u : BitVec 1) (m : BitVec 3)
  /-- VWADD (R317). -/
  | vwadd (sc : BitVec 2) (rd : BitVec 5) (rs1 : BitVec 5) (rs2 : BitVec 5) (u : BitVec 1) (m : BitVec 3)
  /-- VWMUL (R317). -/
  | vwmul (sc : BitVec 2) (rd : BitVec 5) (rs1 : BitVec 5) (rs2 : BitVec 5) (u : BitVec 1) (m : BitVec 3)
  /-- VMAX_CH (R331). -/
  | vmaxCh (sc : BitVec 2) (rd : BitVec 5) (rs1 : BitVec 5) (u : BitVec 1) (m : BitVec 3)
  /-- VMIN_CH (R331). -/
  | vminCh (sc : BitVec 2) (rd : BitVec 5) (rs1 : BitVec 5) (u : BitVec 1) (m : BitVec 3)
  /-- VREDSUM (R327). -/
  | vredsum (sc : BitVec 2) (rd : BitVec 5) (rs1 : BitVec 5) (rs2 : BitVec 5) (m : BitVec 3)
  /-- VREDMAX (R327). -/
  | vredmax (sc : BitVec 2) (rd : BitVec 5) (rs1 : BitVec 5) (rs2 : BitVec 5) (m : BitVec 3)
  /-- VREDMIN (R327). -/
  | vredmin (sc : BitVec 2) (rd : BitVec 5) (rs1 : BitVec 5) (rs2 : BitVec 5) (m : BitVec 3)
  /-- VREDMAX_N (R327). -/
  | vredmaxN (sc : BitVec 2) (rd : BitVec 5) (rs1 : BitVec 5) (rs2 : BitVec 5) (m : BitVec 3)
  /-- VREDMIN_N (R327). -/
  | vredminN (sc : BitVec 2) (rd : BitVec 5) (rs1 : BitVec 5) (rs2 : BitVec 5) (m : BitVec 3)
  /-- VFREDSUM (R328). -/
  | vfredsum (sc : BitVec 2) (rd : BitVec 5) (rs1 : BitVec 5) (rs2 : BitVec 5) (m : BitVec 3)
  /-- VFREDMAX (R327). -/
  | vfredmax (sc : BitVec 2) (rd : BitVec 5) (rs1 : BitVec 5) (rs2 : BitVec 5) (m : BitVec 3)
  /-- VFREDSUM_BF16 (R328). -/
  | vfredsumBf16 (sc : BitVec 2) (rd : BitVec 5) (rs1 : BitVec 5) (rs2 : BitVec 5) (m : BitVec 3)
  /-- VFREDMAX_BF16 (R327). -/
  | vfredmaxBf16 (sc : BitVec 2) (rd : BitVec 5) (rs1 : BitVec 5) (rs2 : BitVec 5) (m : BitVec 3)
  /-- VMXUNP (R324). -/
  | vmxunp (sc : BitVec 2) (rd : BitVec 5) (rs1 : BitVec 5) (rs2 : BitVec 5) (e : BitVec 3) (m : BitVec 3)
  /-- VMXPACK (R325). -/
  | vmxpack (sc : BitVec 2) (rd : BitVec 5) (rs1 : BitVec 5) (rs2 : BitVec 5) (e : BitVec 3) (m : BitVec 3)
  /-- VSLIDEUP (R329). -/
  | vslideup (sc : BitVec 2) (rd : BitVec 5) (rs1 : BitVec 5) (rs2 : BitVec 5) (m : BitVec 3)
  /-- VSLIDEDN (R329). -/
  | vslidedn (sc : BitVec 2) (rd : BitVec 5) (rs1 : BitVec 5) (rs2 : BitVec 5) (m : BitVec 3)
  /-- VRGATHER (R329). -/
  | vrgather (sc : BitVec 2) (rd : BitVec 5) (rs1 : BitVec 5) (rs2 : BitVec 5) (m : BitVec 3)
  /-- VCOMPRESS (R329). -/
  | vcompress (sc : BitVec 2) (rd : BitVec 5) (rs1 : BitVec 5) (rs2 : BitVec 5)
  /-- VIOTA (R329). -/
  | viota (sc : BitVec 2) (rd : BitVec 5) (rs1 : BitVec 5) (m : BitVec 3)
  /-- VID (R329). -/
  | vid (sc : BitVec 2) (rd : BitVec 5) (m : BitVec 3)
  /-- VBCAST (R329). -/
  | vbcast (sc : BitVec 2) (rd : BitVec 5) (rs1 : BitVec 5) (m : BitVec 3)
  /-- VEXT (R329). -/
  | vext (sc : BitVec 2) (rd : BitVec 5) (rs1 : BitVec 5) (rs2 : BitVec 5) (m : BitVec 3)
  /-- VINS (R329). -/
  | vins (sc : BitVec 2) (rd : BitVec 5) (rs1 : BitVec 5) (rs2 : BitVec 5) (m : BitVec 3)
  /-- MAND (R330). -/
  | mand (sc : BitVec 2) (rd : BitVec 5) (rs1 : BitVec 5) (rs2 : BitVec 5)
  /-- MOR (R330). -/
  | mor (sc : BitVec 2) (rd : BitVec 5) (rs1 : BitVec 5) (rs2 : BitVec 5)
  /-- MXOR (R330). -/
  | mxor (sc : BitVec 2) (rd : BitVec 5) (rs1 : BitVec 5) (rs2 : BitVec 5)
  /-- MNOT (R330). -/
  | mnot (sc : BitVec 2) (rd : BitVec 5) (rs1 : BitVec 5)
  /-- MPOPC (R330). -/
  | mpopc (sc : BitVec 2) (rd : BitVec 5) (rs1 : BitVec 5)
  /-- MFIRST (R330). -/
  | mfirst (sc : BitVec 2) (rd : BitVec 5) (rs1 : BitVec 5)
  /-- VLD (R337). -/
  | vld (sc : BitVec 2) (rd : BitVec 5) (rs1 : BitVec 5) (p : BitVec 3) (m : BitVec 3)
  /-- VLDS (R337). -/
  | vlds (sc : BitVec 2) (rd : BitVec 5) (rs1 : BitVec 5) (rs2 : BitVec 5) (p : BitVec 3) (m : BitVec 3)
  /-- VLDX (R337). -/
  | vldx (sc : BitVec 2) (rd : BitVec 5) (rs1 : BitVec 5) (rs2 : BitVec 5) (p : BitVec 3) (m : BitVec 3)
  /-- VST (R337). -/
  | vst (sc : BitVec 2) (rd : BitVec 5) (rs1 : BitVec 5) (p : BitVec 3) (u : BitVec 1) (m : BitVec 3)
  /-- VSTS (R337). -/
  | vsts (sc : BitVec 2) (rd : BitVec 5) (rs1 : BitVec 5) (rs2 : BitVec 5) (p : BitVec 3) (u : BitVec 1) (m : BitVec 3)
  /-- VSTX (R337). -/
  | vstx (sc : BitVec 2) (rd : BitVec 5) (rs1 : BitVec 5) (rs2 : BitVec 5) (p : BitVec 3) (u : BitVec 1) (m : BitVec 3)
  /-- VLDM (R343). -/
  | vldm (sc : BitVec 2) (rd : BitVec 5) (rs1 : BitVec 5) (p : BitVec 3) (m : BitVec 3)
  /-- VSTM (R343). -/
  | vstm (sc : BitVec 2) (rd : BitVec 5) (rs1 : BitVec 5) (p : BitVec 3) (u : BitVec 1) (m : BitVec 3)
  /-- VSLD (R344). -/
  | vsld (sc : BitVec 2) (rd : BitVec 5) (rs1 : BitVec 5) (rs2 : BitVec 5) (p : BitVec 3)
  /-- FENCE (R147). -/
  | fence (sc : BitVec 2) (p : BitVec 3)
  /-- FENCE_ACQ (R147). -/
  | fenceAcq (sc : BitVec 2) (p : BitVec 3)
  /-- FENCE_REL (R147). -/
  | fenceRel (sc : BitVec 2) (p : BitVec 3)
  /-- FENCE_SV (R144). -/
  | fenceSv (sc : BitVec 2) (p : BitVec 3)
  /-- FENCE_VS (R144). -/
  | fenceVs (sc : BitVec 2) (p : BitVec 3)
  /-- FENCE_SE (R144). -/
  | fenceSe (sc : BitVec 2) (p : BitVec 3)
  /-- FENCE_VE (R144). -/
  | fenceVe (sc : BitVec 2) (p : BitVec 3)
  /-- BINIT (R349). -/
  | binit (sc : BitVec 2) (rs1 : BitVec 5) (rs2 : BitVec 5) (p : BitVec 3)
  /-- BARR (R350). -/
  | barr (sc : BitVec 2) (rd : BitVec 5) (rs1 : BitVec 5) (rs2 : BitVec 5) (p : BitVec 3)
  /-- BARB (R350). -/
  | barb (sc : BitVec 2) (rd : BitVec 5) (rs1 : BitVec 5) (rs2 : BitVec 5) (p : BitVec 3)
  /-- BWAIT (R351). -/
  | bwait (sc : BitVec 2) (rd : BitVec 5) (rs1 : BitVec 5) (rs2 : BitVec 5) (p : BitVec 3)
  /-- BTEST (R352). -/
  | btest (sc : BitVec 2) (rd : BitVec 5) (rs1 : BitVec 5) (rs2 : BitVec 5) (p : BitVec 3)
  /-- CBINIT (R354). -/
  | cbinit (sc : BitVec 2) (rs1 : BitVec 5) (rs2 : BitVec 5) (p : BitVec 3)
  /-- CBPUSH (R355). -/
  | cbpush (sc : BitVec 2) (rd : BitVec 5) (rs1 : BitVec 5) (rs2 : BitVec 5) (p : BitVec 3)
  /-- CBPOP (R355). -/
  | cbpop (sc : BitVec 2) (rd : BitVec 5) (rs1 : BitVec 5) (rs2 : BitVec 5) (p : BitVec 3)
  /-- CBWAIT (R356). -/
  | cbwait (sc : BitVec 2) (rd : BitVec 5) (rs1 : BitVec 5) (rs2 : BitVec 5) (p : BitVec 3)
  /-- SRCFG (R357). -/
  | srcfg (sc : BitVec 2) (rd : BitVec 5) (rs1 : BitVec 5) (rs2 : BitVec 5)
  /-- TSHAPE (R362). -/
  | tshape (sc : BitVec 2) (rd : BitVec 5) (rs1 : BitVec 5)
  /-- MLDW (R367). -/
  | mldw (sc : BitVec 2) (rs1 : BitVec 5) (rs2 : BitVec 5) (o : BitVec 3) (k : BitVec 5)
  /-- MMAZ (R364). -/
  | mmaz (sc : BitVec 2) (n : BitVec 5)
  /-- MSTA (R371). -/
  | msta (sc : BitVec 2) (rs1 : BitVec 5) (rs2 : BitVec 5) (o : BitVec 3) (n : BitVec 5)
  /-- MCHK (R372). -/
  | mchk (sc : BitVec 2) (rs2 : BitVec 5) (n : BitVec 5)
  /-- MVER (R373). -/
  | mver (sc : BitVec 2) (rs2 : BitVec 5) (o : BitVec 3) (n : BitVec 5)
  /-- MSTAT (R365). -/
  | mstat (sc : BitVec 2) (rd : BitVec 5) (n : BitVec 5)
  /-- MREL (R368). -/
  | mrel (sc : BitVec 2) (rs1 : BitVec 5)
  /-- MMA (R369). -/
  | mma (sc : BitVec 2) (rs1 : BitVec 5) (rs2 : BitVec 5) (o : BitVec 3) (k : BitVec 5)
  /-- MMA_MX (R369). -/
  | mmaMx (sc : BitVec 2) (rs1 : BitVec 5) (rs2 : BitVec 5) (o : BitVec 3) (k : BitVec 5)
  /-- CPY (R377). -/
  | cpy (sc : BitVec 2) (rd : BitVec 5) (rs1 : BitVec 5) (rs2 : BitVec 5) (q : BitVec 1) (o : BitVec 3)
  /-- CPY2 (R378). -/
  | cpy2 (sc : BitVec 2) (rd : BitVec 5) (rs1 : BitVec 5) (rs2 : BitVec 5) (q : BitVec 1) (o : BitVec 3)
  /-- CPYG (R379). -/
  | cpyg (sc : BitVec 2) (rd : BitVec 5) (rs1 : BitVec 5) (rs2 : BitVec 5) (q : BitVec 1) (o : BitVec 3)
  /-- CPYX (R383). -/
  | cpyx (sc : BitVec 2) (rd : BitVec 5) (rs1 : BitVec 5)
  /-- BKOP (R388). -/
  | bkop (sc : BitVec 2) (rd : BitVec 5) (rs1 : BitVec 5) (rs2 : BitVec 5) (o : BitVec 3)
  /-- BKLOCK (R394). -/
  | bklock (sc : BitVec 2) (rd : BitVec 5) (rs1 : BitVec 5) (rs2 : BitVec 5)
  /-- BKUNLOCK (R394). -/
  | bkunlock (sc : BitVec 2) (rd : BitVec 5) (rs1 : BitVec 5) (rs2 : BitVec 5)
  /-- BKFENCE (R393). -/
  | bkfence (sc : BitVec 2) (o : BitVec 3)
  /-- BKCOPY (R395). -/
  | bkcopy (sc : BitVec 2) (rd : BitVec 5) (rs1 : BitVec 5) (rs2 : BitVec 5) (o : BitVec 3)
  /-- WICKLOAD (R396). -/
  | wickload (sc : BitVec 2) (rd : BitVec 5) (rs1 : BitVec 5) (rs2 : BitVec 5)
  /-- BKCFG (R398). -/
  | bkcfg (sc : BitVec 2) (rd : BitVec 5) (rs1 : BitVec 5) (rs2 : BitVec 5)
  deriving DecidableEq, Repr

end Sys2Proof
end

