-- ==== Sys2Proof/WellFormed.lean ====
section
/-! DEFINITION. Which operand fields an instruction's row allows (R246 step 5, R249 to R261). Selectors are the decoder's. -/
namespace Sys2Proof

/-- The other format of a scalar FCVT (R255, R287): 0x00 to 0x02, 0x12 to 0x15 or 0x1A to 0x1D, and not `fmt` itself. -/
def scalarCvtCode (f : BitVec 2) (k : BitVec 5) : Bool :=
  let n := k.toNat
  (decide (n ≤ 2) || (decide (0x12 ≤ n) && decide (n ≤ 0x15)) || (decide (0x1A ≤ n) && decide (n ≤ 0x1D))) && decide (n ≠ f.toNat)

/-- Whether a format code is assigned (R217). -/
def formatCode (k : BitVec 5) : Bool :=
  let n := k.toNat
  decide (n ≤ 8) || (decide (0x10 ≤ n) && decide (n ≤ 0x15)) || (decide (0x18 ≤ n) && decide (n ≤ 0x1D)) || decide (n = 0x1F)

/-- The legal format pairs of VFCVT (R258): no reserved code, no E8M0, no TERN2 destination, one side 0x00 to 0x07, and
two different codes. -/
def vectorCvtPair (src dst : BitVec 5) : Bool :=
  formatCode src && formatCode dst && decide (src ≠ 8) && decide (dst ≠ 8) && decide (dst ≠ 0x1F) &&
    (decide (src.toNat ≤ 7) || decide (dst.toNat ≤ 7)) && decide (src ≠ dst)

/-- The element formats of MLDW and MMA (R261). -/
def matrixCode (k : BitVec 5) : Bool :=
  let n := k.toNat
  (decide (1 ≤ n) && decide (n ≤ 7)) || (decide (0x10 ≤ n) && decide (n ≤ 0x12)) || decide (n = 0x1F)

/-- A pair field holds an even number other than 0 (R253). -/
def isPair (r : Reg) : Bool := decide (r.toNat % 2 = 0) && decide (r ≠ 0)

/-- A quad field holds a multiple of 4 other than 0 (R253). -/
def isQuad (r : Reg) : Bool := decide (r.toNat % 4 = 0) && decide (r ≠ 0)

/-- The operand fields of the instruction are ones its row allows (R246 step 5). -/
def wellFormed (i : Instr) : Bool :=
  match i with
  | .registerWrite _ _ _ => true
  | .regionDescriptorWrite _ _ => true
  | .tcinvWrite _ _ => true
  | .tcinvRead _ => true
  | .tcinvInvalidationDone _ => true
  | .migctlHold _ _ _ => true
  | .migctlHoldGranted _ _ => true
  | .migctlDrained _ _ => true
  | .migctlRelease _ _ => true
  | .homeAccess _ => true
  | .walkBatchClose _ => true
  | .walkGatherDone _ => true
  | .accessResponse _ => true
  | .faultResponse _ => true
  | .runAheadStop _ _ => true
  | .retirementThreshold _ _ => true
  | .lineFill _ _ => true
  | .writebackArrival _ _ => true
  | .writebackAck _ => true
  | .sbcfgWrite _ _ _ => true
  | .bankTransitionDone _ _ => true
  | .sramWindowAccess _ => true
  | .atomicEngineAccept _ => true
  | .atomicEngineOp _ _ => true
  | .homeAtomicOp _ => true
  | .lanternWindowAccess _ => true
  | .vbusBeatGrant _ _ => true
  | .replicaUpdateOrder _ => true
  | .replicaUpdateApply _ => true
  | .replicaStoreAck _ => true
  | .bankProbe _ => true
  | .bankProbeAnswer _ => true
  | .invocationArrival _ => true
  | .invocationStart _ => true
  | .budgetExpiry _ => true
  | .accessSlot _ => true
  | .refresh _ => true
  | .syndromeCorrection _ => true
  | .cpybDestWrite _ => true
  | .scrubberVisit _ => true
  | .rowLockExpiry _ => true
  | .bklockHeld _ => true
  | .bpctlWrite _ _ => true
  | .energyTelemetryTick _ => true
  | .bkopComplete _ => true
  | .bkcopyComplete _ => true
  | .wickloadDieLoad _ _ => true
  | .gsctlWrite _ _ => true
  | .snapRequest => true
  | .flipArrival _ => true
  | .settleAck _ => true
  | .snapAnswer _ => true
  | .trackedWrite _ => true
  | .preserveRowCopied _ => true
  | .reserveFrameFreed _ => true
  | .reserveTimeout _ => true
  | .drainVisit _ _ => true
  | .drainComplete _ => true
  | .symbolResolve _ _ => true
  | .symbolPoison _ _ => true
  | .vectorTrapPoint _ => true
  | .vectorLoadData _ => true
  | .barrierArm _ => true
  | .barrierTake _ => true
  | .barrierArrive _ => true
  | .bwaitReturn _ => true
  | .bwaitTimeout _ => true
  | .cbwaitReturn _ => true
  | .cbwaitTimeout _ => true
  | .wfeWake _ => true
  | .wfeTimeout _ => true
  | .swaitWake _ => true
  | .swaitTimeout _ => true
  | .mldwBay _ => true
  | .mmaBay _ => true
  | .mmazBay _ => true
  | .mstaBay _ => true
  | .mchkBay _ => true
  | .mverBay _ => true
  | .matrixOpComplete _ => true
  | .copyAccept _ => true
  | .copyClassRound _ => true
  | .copyBufferReady _ => true
  | .copyChunkComplete _ _ => true
  | .copyComplete _ => true
  | .decrementArrival _ _ _ => true
  | .nodeFire _ => true
  | .schedulingTick _ => true
  | .nodeDispatch _ _ => true
  | .reservationOpen _ _ => true
  | .nodeComplete _ => true
  | .gangReady _ => true
  | .gangStart _ => true
  | .gangAck _ => true
  | .gangNay _ => true
  | .gangAckDeadline _ _ => true
  | .gangGo _ => true
  | .gangStartTick _ => true
  | .gangLate _ => true
  | .gangAbort _ => true
  | .gangTimeout _ => true
  | .nakReceived _ => true
  | .replayBackoffExpiry _ => true
  | .preemptRequest _ _ => true
  | .preemptDrainDone _ => true
  | .preemptT1Expiry _ => true
  | .preemptT2Expiry _ => true
  | .contextSaveDone _ => true
  | .contextResume _ _ _ => true
  | .qsubWrite _ _ => true
  | .qstatWrite _ _ _ => true
  | .mailboxRollback _ _ => true
  | .mailboxUnknownService _ _ => true
  | .firmwareRestart _ => true
  | .watchdogExpiry _ _ => true
  | .rashbWrite _ _ => true
  | .hdoorWrite _ _ => true
  | .interruptTake _ => true
  | .stackFence _ => true
  | .dieFence _ => true
  | .fatalError _ => true
  | .meshFlitCrcError _ _ => true
  | .hostLinkTrained _ _ _ _ => true
  | .hostMemRequest _ _ _ => true
  | .bisnpResponse _ _ _ => true
  | .hostSnoop _ => true
  | .uioCompletion _ _ => true
  | .uioTimeout _ => true
  | .tokenBucketRefill _ _ => true
  | .vfFlr _ => true
  | .keygenWrite _ => true
  | .glowlineLinkTrained _ _ _ => true
  | .glowlineFlit _ _ _ => true
  | .timebaseFlit _ _ => true
  | .partReset => true
  | .recoveryLoad => true
  | .recoveryCommit => true
  | .recoveryReset => true
  | .getVersion => true
  | .getCapabilities => true
  | .negotiateAlgorithms => true
  | .getDigests => true
  | .getCertificate => true
  | .challenge => true
  | .getMeasurements _ => true
  | .keyExchange => true
  | .finish => true
  | .inputVoltageFault => true
  | .powerThrottle => true
  | .illegalInstruction _ => true
  | .instructionFetchFault _ _ => true
  | .inputVoltageRestored => true
  | .contextDestruction _ => true
  | .uNop => true
  | .uAap _ _ => true
  | .uAp3 _ _ _ => true
  | .uNot _ _ => true
  | .uShl _ _ => true
  | .uShr _ _ => true
  | .uZr _ => true
  | .uOn _ => true
  | .uEcr _ => true
  | .uCpyb _ _ => true
  | .uLoop _ _ => true
  | .uEnd _ => true
  | .uPar _ _ _ => true
  | .uSig _ => true
  | .uWait _ => true
  | .uHalt _ => true
  | .add _ _ _ _ => true
  | .sub _ _ _ _ => true
  | .mul _ _ _ _ => true
  | .mulh _ _ _ _ => true
  | .mulhn _ _ _ _ => true
  | .div _ _ _ _ => true
  | .divn _ _ _ _ => true
  | .rem _ _ _ _ => true
  | .remn _ _ _ _ => true
  | .andR _ _ _ _ => true
  | .orR _ _ _ _ => true
  | .xorR _ _ _ _ => true
  | .sll _ _ _ _ => true
  | .srl _ _ _ _ => true
  | .sra _ _ _ _ => true
  | .slt _ _ _ _ => true
  | .sltn _ _ _ _ => true
  | .minR _ _ _ _ => true
  | .maxR _ _ _ _ => true
  | .minn _ _ _ _ => true
  | .maxn _ _ _ _ => true
  | .clz _ _ _ => true
  | .ctz _ _ _ => true
  | .popc _ _ _ => true
  | .sext _ _ _ w => decide (w.toNat ≤ 2)
  | .zext _ _ _ w => decide (w.toNat ≤ 2)
  | .addi _ _ _ _ => true
  | .andi _ _ _ _ => true
  | .ori _ _ _ _ => true
  | .xori _ _ _ _ => true
  | .slti _ _ _ _ => true
  | .slli _ _ _ _ => true
  | .srli _ _ _ _ => true
  | .srai _ _ _ _ => true
  | .bfx _ _ _ p l => decide (p.toNat + l.toNat + 1 ≤ 64)
  | .bfi _ _ _ p l => decide (p.toNat + l.toNat + 1 ≤ 64)
  | .lui _ _ _ => true
  | .auipc _ _ _ => true
  | .jal _ _ _ => true
  | .jalr _ _ _ _ => true
  | .beq _ _ _ _ => true
  | .bne _ _ _ _ => true
  | .blt _ _ _ _ => true
  | .bge _ _ _ _ => true
  | .bltn _ _ _ _ => true
  | .bgen _ _ _ _ => true
  | .ld _ _ _ _ w => decide (w ≠ 7)
  | .ldScoped _ _ _ _ _ _ p w => decide (w ≠ 7 ∧ p.toNat ≤ 5)
  | .st _ _ _ _ _ => true
  | .stScoped _ _ _ _ _ p _ => decide (p.toNat ≤ 5)
  | .amoadd32 _ _ _ _ _ _ _ => true
  | .amoadd64 _ _ _ _ _ _ _ => true
  | .amoaddSy _ _ _ _ _ _ _ => true
  | .amoand32 _ _ _ _ _ _ _ => true
  | .amoand64 _ _ _ _ _ _ _ => true
  | .amoandSy _ _ _ _ _ _ _ => true
  | .amoor32 _ _ _ _ _ _ _ => true
  | .amoor64 _ _ _ _ _ _ _ => true
  | .amoorSy _ _ _ _ _ _ _ => true
  | .amoxor32 _ _ _ _ _ _ _ => true
  | .amoxor64 _ _ _ _ _ _ _ => true
  | .amoxorSy _ _ _ _ _ _ _ => true
  | .amomin32 _ _ _ _ _ _ _ => true
  | .amomin64 _ _ _ _ _ _ _ => true
  | .amominSy _ _ _ _ _ _ _ => true
  | .amomax32 _ _ _ _ _ _ _ => true
  | .amomax64 _ _ _ _ _ _ _ => true
  | .amomaxSy _ _ _ _ _ _ _ => true
  | .amominn32 _ _ _ _ _ _ _ => true
  | .amominn64 _ _ _ _ _ _ _ => true
  | .amominnSy _ _ _ _ _ _ _ => true
  | .amomaxn32 _ _ _ _ _ _ _ => true
  | .amomaxn64 _ _ _ _ _ _ _ => true
  | .amomaxnSy _ _ _ _ _ _ _ => true
  | .amoswap32 _ _ _ _ _ _ _ => true
  | .amoswap64 _ _ _ _ _ _ _ => true
  | .amoswapSy _ _ _ _ _ _ _ => true
  | .amocas32 _ _ _ _ _ _ _ => true
  | .amocas64 _ _ _ _ _ _ _ => true
  | .amocasSy _ _ _ _ _ _ _ => true
  | .amofadd _ _ _ _ _ _ _ => true
  | .fadd _ _ _ _ f m => decide (f ≠ 3 ∧ m ≠ 5 ∧ m ≠ 6)
  | .fsub _ _ _ _ f m => decide (f ≠ 3 ∧ m ≠ 5 ∧ m ≠ 6)
  | .fmul _ _ _ _ f m => decide (f ≠ 3 ∧ m ≠ 5 ∧ m ≠ 6)
  | .fdiv _ _ _ _ f m => decide (f ≠ 3 ∧ m ≠ 5 ∧ m ≠ 6)
  | .fma _ _ _ _ f _ => decide (f ≠ 3)
  | .fsqrt _ _ _ f m => decide (f ≠ 3 ∧ m ≠ 5 ∧ m ≠ 6)
  | .fcvtTo _ _ _ f m k => decide (f ≠ 3 ∧ m ≠ 5 ∧ m ≠ 6 ∧ scalarCvtCode f k = true)
  | .fcvtFrom _ _ _ f m k => decide (f ≠ 3 ∧ m ≠ 5 ∧ m ≠ 6 ∧ scalarCvtCode f k = true)
  | .fmin _ _ _ _ f => decide (f ≠ 3)
  | .fmax _ _ _ _ f => decide (f ≠ 3)
  | .fcmpEq _ _ _ _ f => decide (f ≠ 3)
  | .fcmpLt _ _ _ _ f => decide (f ≠ 3)
  | .fcmpLe _ _ _ _ f => decide (f ≠ 3)
  | .fsgn _ _ _ _ f => decide (f ≠ 3)
  | .fsgnN _ _ _ _ f => decide (f ≠ 3)
  | .fsgnX _ _ _ _ f => decide (f ≠ 3)
  | .fclass _ _ _ f => decide (f ≠ 3)
  | .csrr _ _ _ => true
  | .csrw _ _ _ => true
  | .csrs _ _ _ => true
  | .csrc _ _ _ => true
  | .ecall _ => true
  | .ebreak _ => true
  | .eret _ => true
  | .wfe _ _ _ => true
  | .symq _ _ n => decide (n.toNat ≤ 15)
  | .symwait _ _ => true
  | .snap _ _ => true
  | .snapq _ _ _ => true
  | .tsubmit _ _ _ _ => true
  | .tdone _ => true
  | .lkline _ _ _ => true
  | .ulkline _ _ _ => true
  | .vsetvl _ _ _ _ => true
  | .vsetdim _ _ _ _ e => decide (e ≠ 0)
  | .vsetvli _ _ _ _ _ => true
  | .qfetch _ _ _ => true
  | .swait _ _ _ _ => true
  | .dispatch _ _ _ _ => true
  | .vadd _ _ _ _ _ g => decide (g ≠ 3)
  | .vsub _ _ _ _ _ g => decide (g ≠ 3)
  | .vrsub _ _ _ _ _ g => decide (g ≠ 3)
  | .vmul _ _ _ _ _ g => decide (g ≠ 3)
  | .vmacc _ _ _ _ _ g => decide (g ≠ 3)
  | .vnmsac _ _ _ _ _ g => decide (g ≠ 3)
  | .vand _ _ _ _ _ g => decide (g ≠ 3)
  | .vor _ _ _ _ _ g => decide (g ≠ 3)
  | .vxor _ _ _ _ _ g => decide (g ≠ 3)
  | .vsll _ _ _ _ _ g => decide (g ≠ 3)
  | .vsrl _ _ _ _ _ g => decide (g ≠ 3)
  | .vsra _ _ _ _ _ g => decide (g ≠ 3)
  | .vmerge _ _ _ _ m g => decide (g ≠ 3 ∧ m ≠ 0)
  | .vmv _ _ _ _ g => decide (g ≠ 3)
  | .vnsra _ _ _ _ _ g => decide (g ≠ 3)
  | .vaddCh _ _ _ _ g => decide (g ≠ 3)
  | .vmulh _ _ _ _ _ _ g => decide ((g = 3 ∨ g = 4 ∨ g = 5))
  | .vdiv _ _ _ _ _ _ g => decide ((g = 3 ∨ g = 4 ∨ g = 5))
  | .vrem _ _ _ _ _ _ g => decide ((g = 3 ∨ g = 4 ∨ g = 5))
  | .vmin _ _ _ _ _ _ g => decide ((g = 3 ∨ g = 4 ∨ g = 5))
  | .vmax _ _ _ _ _ _ g => decide ((g = 3 ∨ g = 4 ∨ g = 5))
  | .vsadd _ _ _ _ _ _ g => decide ((g = 3 ∨ g = 4 ∨ g = 5))
  | .vssub _ _ _ _ _ _ g => decide ((g = 3 ∨ g = 4 ∨ g = 5))
  | .vclamp _ _ _ _ _ _ g => decide ((g = 3 ∨ g = 4 ∨ g = 5))
  | .vfadd _ _ _ _ _ _ => true
  | .vfsub _ _ _ _ _ _ => true
  | .vfmul _ _ _ _ _ _ => true
  | .vfdiv _ _ _ _ _ _ => true
  | .vfma _ _ _ _ _ _ => true
  | .vfnma _ _ _ _ _ _ => true
  | .vfmin _ _ _ _ _ _ => true
  | .vfmax _ _ _ _ _ _ => true
  | .vfcmpEq _ rd _ _ _ _ => decide (0 < rd.toNat ∧ rd.toNat < 8)
  | .vfcmpLt _ rd _ _ _ _ => decide (0 < rd.toNat ∧ rd.toNat < 8)
  | .vfcmpLe _ rd _ _ _ _ => decide (0 < rd.toNat ∧ rd.toNat < 8)
  | .vfaddCh _ _ _ _ _ => true
  | .vfsqrt _ _ _ _ => true
  | .vfrsqrt _ _ _ _ => true
  | .vfexp2 _ _ _ _ => true
  | .vflog2 _ _ _ _ => true
  | .vfclass _ _ _ _ => true
  | .vfaddBf16 _ _ _ _ _ _ => true
  | .vfsubBf16 _ _ _ _ _ _ => true
  | .vfmulBf16 _ _ _ _ _ _ => true
  | .vfdivBf16 _ _ _ _ _ _ => true
  | .vfmaBf16 _ _ _ _ _ _ => true
  | .vfnmaBf16 _ _ _ _ _ _ => true
  | .vfminBf16 _ _ _ _ _ _ => true
  | .vfmaxBf16 _ _ _ _ _ _ => true
  | .vfcmpEqBf16 _ rd _ _ _ _ => decide (0 < rd.toNat ∧ rd.toNat < 8)
  | .vfcmpLtBf16 _ rd _ _ _ _ => decide (0 < rd.toNat ∧ rd.toNat < 8)
  | .vfcmpLeBf16 _ rd _ _ _ _ => decide (0 < rd.toNat ∧ rd.toNat < 8)
  | .vfaddChBf16 _ _ _ _ _ => true
  | .vfsqrtBf16 _ _ _ _ => true
  | .vfrsqrtBf16 _ _ _ _ => true
  | .vfexp2Bf16 _ _ _ _ => true
  | .vflog2Bf16 _ _ _ _ => true
  | .vfclassBf16 _ _ _ _ => true
  | .vfcvt _ _ _ _ s k => decide (vectorCvtPair s k = true)
  | .vcmpEq _ rd _ _ _ _ => decide (0 < rd.toNat ∧ rd.toNat < 8)
  | .vcmpNe _ rd _ _ _ _ => decide (0 < rd.toNat ∧ rd.toNat < 8)
  | .vcmpLt _ rd _ _ _ _ => decide (0 < rd.toNat ∧ rd.toNat < 8)
  | .vcmpLe _ rd _ _ _ _ => decide (0 < rd.toNat ∧ rd.toNat < 8)
  | .vwadd _ _ _ _ _ _ => true
  | .vwmul _ _ _ _ _ _ => true
  | .vmaxCh _ _ _ _ _ => true
  | .vminCh _ _ _ _ _ => true
  | .vredsum _ _ _ _ _ => true
  | .vredmax _ _ _ _ _ => true
  | .vredmin _ _ _ _ _ => true
  | .vredmaxN _ _ _ _ _ => true
  | .vredminN _ _ _ _ _ => true
  | .vfredsum _ _ _ _ _ => true
  | .vfredmax _ _ _ _ _ => true
  | .vfredsumBf16 _ _ _ _ _ => true
  | .vfredmaxBf16 _ _ _ _ _ => true
  | .vmxunp _ _ _ _ _ _ => true
  | .vmxpack _ _ _ _ _ _ => true
  | .vslideup _ _ _ _ _ => true
  | .vslidedn _ _ _ _ _ => true
  | .vrgather _ _ _ _ _ => true
  | .vcompress _ _ rs1 _ => decide (rs1.toNat < 8)
  | .viota _ _ rs1 _ => decide (rs1.toNat < 8)
  | .vid _ _ _ => true
  | .vbcast _ _ _ _ => true
  | .vext _ _ _ _ _ => true
  | .vins _ _ _ _ _ => true
  | .mand _ rd rs1 rs2 => decide (0 < rd.toNat ∧ rd.toNat < 8 ∧ rs1.toNat < 8 ∧ rs2.toNat < 8)
  | .mor _ rd rs1 rs2 => decide (0 < rd.toNat ∧ rd.toNat < 8 ∧ rs1.toNat < 8 ∧ rs2.toNat < 8)
  | .mxor _ rd rs1 rs2 => decide (0 < rd.toNat ∧ rd.toNat < 8 ∧ rs1.toNat < 8 ∧ rs2.toNat < 8)
  | .mnot _ rd rs1 => decide (0 < rd.toNat ∧ rd.toNat < 8 ∧ rs1.toNat < 8)
  | .mpopc _ _ rs1 => decide (rs1.toNat < 8)
  | .mfirst _ _ rs1 => decide (rs1.toNat < 8)
  | .vld _ _ _ p _ => decide (p.toNat ≤ 5)
  | .vlds _ _ _ _ p _ => decide (p.toNat ≤ 5)
  | .vldx _ _ _ _ p _ => decide (p.toNat ≤ 5)
  | .vst _ _ _ p _ _ => decide (p.toNat ≤ 5)
  | .vsts _ _ _ _ p _ _ => decide (p.toNat ≤ 5)
  | .vstx _ _ _ _ p _ _ => decide (p.toNat ≤ 5)
  | .vldm _ _ _ p _ => decide (p.toNat ≤ 5)
  | .vstm _ _ _ p _ _ => decide (p.toNat ≤ 5)
  | .vsld _ _ _ _ p => decide (p.toNat ≤ 5)
  | .fence _ p => decide (p.toNat ≤ 5)
  | .fenceAcq _ p => decide (p.toNat ≤ 5)
  | .fenceRel _ p => decide (p.toNat ≤ 5)
  | .fenceSv _ p => decide (p.toNat ≤ 5)
  | .fenceVs _ p => decide (p.toNat ≤ 5)
  | .fenceSe _ p => decide (p.toNat ≤ 5)
  | .fenceVe _ p => decide (p.toNat ≤ 5)
  | .binit _ _ _ _ => true
  | .barr _ _ _ _ p => decide (p.toNat ≤ 5)
  | .barb _ _ _ _ p => decide (p.toNat ≤ 5)
  | .bwait _ _ _ _ p => decide (p.toNat ≤ 5)
  | .btest _ _ _ _ p => decide (p.toNat ≤ 5)
  | .cbinit _ _ _ _ => true
  | .cbpush _ _ _ _ p => decide (p.toNat ≤ 5)
  | .cbpop _ _ _ _ p => decide (p.toNat ≤ 5)
  | .cbwait _ _ _ _ p => decide (p.toNat ≤ 5)
  | .srcfg _ _ _ _ => true
  | .tshape _ _ _ => true
  | .mldw _ _ _ _ k => decide (matrixCode k = true)
  | .mmaz _ n => decide (n.toNat < 8)
  | .msta _ _ _ _ n => decide (n.toNat < 8)
  | .mchk _ _ n => decide (n.toNat < 8)
  | .mver _ _ _ n => decide (n.toNat < 8)
  | .mstat _ _ n => decide (n.toNat < 8)
  | .mrel _ _ => true
  | .mma _ _ _ _ k => decide (matrixCode k = true)
  | .mmaMx _ _ _ _ k => decide (matrixCode k = true)
  | .cpy _ _ rs1 rs2 _ _ => decide (isPair rs1 = true ∧ isPair rs2 = true)
  | .cpy2 _ _ rs1 rs2 _ _ => decide (isPair rs1 = true ∧ isQuad rs2 = true)
  | .cpyg _ _ rs1 rs2 _ _ => decide (isPair rs1 = true ∧ isPair rs2 = true)
  | .cpyx _ _ _ => true
  | .bkop _ _ rs1 _ _ => decide (isPair rs1 = true)
  | .bklock _ _ _ _ => true
  | .bkunlock _ _ _ _ => true
  | .bkfence _ o => decide ((o = 1 ∨ o = 4 ∨ o = 7))
  | .bkcopy _ _ rs1 rs2 _ => decide (isPair rs1 = true ∧ isPair rs2 = true)
  | .wickload _ _ _ _ => true
  | .bkcfg _ _ _ _ => true

end Sys2Proof
end

