-- ==== Sys2Proof/Decode.lean ====
section
/-! DEFINITION. The decoder and the encoder (R243 to R262): a word to an instruction or a named rejection, total on every
word, and the word of a well-formed instruction. -/
namespace Sys2Proof

/-- Why a word is no instruction, in the order of R246. -/
inductive DecodeError where
  | illegalVersion | zeroWord | illegalSelector | illegalField
  deriving DecidableEq, Repr

/-- The word frame (R243). -/
def wordFrame (f7 : BitVec 7) (b a d : BitVec 5) (maj : BitVec 6) (sc : Sc) : IWord :=
  f7 ++ b ++ a ++ d ++ maj ++ sc ++ 0#2

/-- Selectors of each major (R255 to R261): the instruction whose row the fields `f7`, `b`, `a`, `d` of the word match. -/
noncomputable def decMajor00 (f7 : BitVec 7) (b a d : BitVec 5) (_maj : BitVec 6) (sc : Sc) : Option Instr :=
  if f7 = 0 then some (.add sc d a b) else
  if f7 = 1 then some (.sub sc d a b) else
  if f7 = 2 then some (.mul sc d a b) else
  if f7 = 3 then some (.mulh sc d a b) else
  if f7 = 4 then some (.mulhn sc d a b) else
  if f7 = 5 then some (.div sc d a b) else
  if f7 = 6 then some (.divn sc d a b) else
  if f7 = 7 then some (.rem sc d a b) else
  if f7 = 8 then some (.remn sc d a b) else
  if f7 = 9 then some (.andR sc d a b) else
  if f7 = 10 then some (.orR sc d a b) else
  if f7 = 11 then some (.xorR sc d a b) else
  if f7 = 12 then some (.sll sc d a b) else
  if f7 = 13 then some (.srl sc d a b) else
  if f7 = 14 then some (.sra sc d a b) else
  if f7 = 15 then some (.slt sc d a b) else
  if f7 = 16 then some (.sltn sc d a b) else
  if f7 = 17 then some (.minR sc d a b) else
  if f7 = 18 then some (.maxR sc d a b) else
  if f7 = 19 then some (.minn sc d a b) else
  if f7 = 20 then some (.maxn sc d a b) else
  if f7 = 24 ∧ b = 0 then some (.clz sc d a) else
  if f7 = 25 ∧ b = 0 then some (.ctz sc d a) else
  if f7 = 26 ∧ b = 0 then some (.popc sc d a) else
  if f7 = 27 then some (.sext sc d a b) else
  if f7 = 28 then some (.zext sc d a b) else
  none

noncomputable def decMajor01 (f7 : BitVec 7) (b a d : BitVec 5) (_maj : BitVec 6) (sc : Sc) : Option Instr :=
  some (.addi sc d a (f7 ++ b : BitVec 12))

noncomputable def decMajor02 (f7 : BitVec 7) (b a d : BitVec 5) (_maj : BitVec 6) (sc : Sc) : Option Instr :=
  some (.andi sc d a (f7 ++ b : BitVec 12))

noncomputable def decMajor03 (f7 : BitVec 7) (b a d : BitVec 5) (_maj : BitVec 6) (sc : Sc) : Option Instr :=
  some (.ori sc d a (f7 ++ b : BitVec 12))

noncomputable def decMajor04 (f7 : BitVec 7) (b a d : BitVec 5) (_maj : BitVec 6) (sc : Sc) : Option Instr :=
  some (.xori sc d a (f7 ++ b : BitVec 12))

noncomputable def decMajor05 (f7 : BitVec 7) (b a d : BitVec 5) (_maj : BitVec 6) (sc : Sc) : Option Instr :=
  some (.slti sc d a (f7 ++ b : BitVec 12))

noncomputable def decMajor06 (f7 : BitVec 7) (b a d : BitVec 5) (_maj : BitVec 6) (sc : Sc) : Option Instr :=
  if f7.extractLsb' 1 6 = 0 then some (.slli sc d a (f7.extractLsb' 0 1 ++ b : BitVec 6)) else
  if f7.extractLsb' 1 6 = 1 then some (.srli sc d a (f7.extractLsb' 0 1 ++ b : BitVec 6)) else
  if f7.extractLsb' 1 6 = 2 then some (.srai sc d a (f7.extractLsb' 0 1 ++ b : BitVec 6)) else
  none

noncomputable def decMajor07 (f7 : BitVec 7) (b a d : BitVec 5) (_maj : BitVec 6) (sc : Sc) : Option Instr :=
  some (.bfx sc d a (f7.extractLsb' 1 6) (f7.extractLsb' 0 1 ++ b : BitVec 6))

noncomputable def decMajor08 (f7 : BitVec 7) (b a d : BitVec 5) (_maj : BitVec 6) (sc : Sc) : Option Instr :=
  some (.bfi sc d a (f7.extractLsb' 1 6) (f7.extractLsb' 0 1 ++ b : BitVec 6))

noncomputable def decMajor09 (f7 : BitVec 7) (b a d : BitVec 5) (_maj : BitVec 6) (sc : Sc) : Option Instr :=
  some (.lui sc d (f7 ++ b ++ a : BitVec 17))

noncomputable def decMajor0A (f7 : BitVec 7) (b a d : BitVec 5) (_maj : BitVec 6) (sc : Sc) : Option Instr :=
  some (.auipc sc d (f7 ++ b ++ a : BitVec 17))

noncomputable def decMajor0B (f7 : BitVec 7) (b a d : BitVec 5) (_maj : BitVec 6) (sc : Sc) : Option Instr :=
  some (.jal sc d (f7 ++ b ++ a : BitVec 17))

noncomputable def decMajor0C (f7 : BitVec 7) (b a d : BitVec 5) (_maj : BitVec 6) (sc : Sc) : Option Instr :=
  some (.jalr sc d a (f7 ++ b : BitVec 12))

noncomputable def decMajor0D (f7 : BitVec 7) (b a d : BitVec 5) (_maj : BitVec 6) (sc : Sc) : Option Instr :=
  if d.extractLsb' 0 1 = 0 then some (.beq sc a b (f7 ++ d.extractLsb' 1 4 : BitVec 11)) else
  if d.extractLsb' 0 1 = 1 then some (.bne sc a b (f7 ++ d.extractLsb' 1 4 : BitVec 11)) else
  none

noncomputable def decMajor0E (f7 : BitVec 7) (b a d : BitVec 5) (_maj : BitVec 6) (sc : Sc) : Option Instr :=
  if d.extractLsb' 0 1 = 0 then some (.blt sc a b (f7 ++ d.extractLsb' 1 4 : BitVec 11)) else
  if d.extractLsb' 0 1 = 1 then some (.bge sc a b (f7 ++ d.extractLsb' 1 4 : BitVec 11)) else
  none

noncomputable def decMajor0F (f7 : BitVec 7) (b a d : BitVec 5) (_maj : BitVec 6) (sc : Sc) : Option Instr :=
  if d.extractLsb' 0 1 = 0 then some (.bltn sc a b (f7 ++ d.extractLsb' 1 4 : BitVec 11)) else
  if d.extractLsb' 0 1 = 1 then some (.bgen sc a b (f7 ++ d.extractLsb' 1 4 : BitVec 11)) else
  none

noncomputable def decMajor10 (f7 : BitVec 7) (b a d : BitVec 5) (_maj : BitVec 6) (sc : Sc) : Option Instr :=
  if b.extractLsb' 3 1 = 0 then some (.ld sc d a (f7 ++ b.extractLsb' 4 1 : BitVec 8) (b.extractLsb' 0 3)) else
  if b.extractLsb' 3 1 = 1 then some (.ldScoped sc d a (f7.extractLsb' 4 3) (f7.extractLsb' 3 1) (f7.extractLsb' 2 1) (f7.extractLsb' 0 2 ++ b.extractLsb' 4 1 : BitVec 3) (b.extractLsb' 0 3)) else
  none

noncomputable def decMajor11 (f7 : BitVec 7) (b a d : BitVec 5) (_maj : BitVec 6) (sc : Sc) : Option Instr :=
  if f7.extractLsb' 0 1 = 0 then some (.st sc a b (f7.extractLsb' 1 6 ++ d.extractLsb' 2 3 : BitVec 9) (d.extractLsb' 0 2)) else
  if f7.extractLsb' 0 1 = 1 then some (.stScoped sc a b (f7.extractLsb' 2 5) (f7.extractLsb' 1 1) (d.extractLsb' 2 3) (d.extractLsb' 0 2)) else
  none

noncomputable def decMajor12 (f7 : BitVec 7) (b a d : BitVec 5) (maj : BitVec 6) (sc : Sc) : Option Instr :=
  if f7.extractLsb' 3 4 = 0 then some (.amoadd32 sc d a b (f7.extractLsb' 1 2) (f7.extractLsb' 0 1) (maj.extractLsb' 0 1)) else
  if f7.extractLsb' 3 4 = 1 then some (.amoand32 sc d a b (f7.extractLsb' 1 2) (f7.extractLsb' 0 1) (maj.extractLsb' 0 1)) else
  if f7.extractLsb' 3 4 = 2 then some (.amoor32 sc d a b (f7.extractLsb' 1 2) (f7.extractLsb' 0 1) (maj.extractLsb' 0 1)) else
  if f7.extractLsb' 3 4 = 3 then some (.amoxor32 sc d a b (f7.extractLsb' 1 2) (f7.extractLsb' 0 1) (maj.extractLsb' 0 1)) else
  if f7.extractLsb' 3 4 = 4 then some (.amomin32 sc d a b (f7.extractLsb' 1 2) (f7.extractLsb' 0 1) (maj.extractLsb' 0 1)) else
  if f7.extractLsb' 3 4 = 5 then some (.amomax32 sc d a b (f7.extractLsb' 1 2) (f7.extractLsb' 0 1) (maj.extractLsb' 0 1)) else
  if f7.extractLsb' 3 4 = 6 then some (.amominn32 sc d a b (f7.extractLsb' 1 2) (f7.extractLsb' 0 1) (maj.extractLsb' 0 1)) else
  if f7.extractLsb' 3 4 = 7 then some (.amomaxn32 sc d a b (f7.extractLsb' 1 2) (f7.extractLsb' 0 1) (maj.extractLsb' 0 1)) else
  if f7.extractLsb' 3 4 = 8 then some (.amoswap32 sc d a b (f7.extractLsb' 1 2) (f7.extractLsb' 0 1) (maj.extractLsb' 0 1)) else
  if f7.extractLsb' 3 4 = 9 then some (.amocas32 sc d a b (f7.extractLsb' 1 2) (f7.extractLsb' 0 1) (maj.extractLsb' 0 1)) else
  if f7.extractLsb' 3 4 = 10 then some (.amofadd sc d a b (f7.extractLsb' 1 2) (f7.extractLsb' 0 1) (maj.extractLsb' 0 1)) else
  none

noncomputable def decMajor14 (f7 : BitVec 7) (b a d : BitVec 5) (maj : BitVec 6) (sc : Sc) : Option Instr :=
  if f7.extractLsb' 3 4 = 0 then some (.amoadd64 sc d a b (f7.extractLsb' 1 2) (f7.extractLsb' 0 1) (maj.extractLsb' 0 1)) else
  if f7.extractLsb' 3 4 = 1 then some (.amoand64 sc d a b (f7.extractLsb' 1 2) (f7.extractLsb' 0 1) (maj.extractLsb' 0 1)) else
  if f7.extractLsb' 3 4 = 2 then some (.amoor64 sc d a b (f7.extractLsb' 1 2) (f7.extractLsb' 0 1) (maj.extractLsb' 0 1)) else
  if f7.extractLsb' 3 4 = 3 then some (.amoxor64 sc d a b (f7.extractLsb' 1 2) (f7.extractLsb' 0 1) (maj.extractLsb' 0 1)) else
  if f7.extractLsb' 3 4 = 4 then some (.amomin64 sc d a b (f7.extractLsb' 1 2) (f7.extractLsb' 0 1) (maj.extractLsb' 0 1)) else
  if f7.extractLsb' 3 4 = 5 then some (.amomax64 sc d a b (f7.extractLsb' 1 2) (f7.extractLsb' 0 1) (maj.extractLsb' 0 1)) else
  if f7.extractLsb' 3 4 = 6 then some (.amominn64 sc d a b (f7.extractLsb' 1 2) (f7.extractLsb' 0 1) (maj.extractLsb' 0 1)) else
  if f7.extractLsb' 3 4 = 7 then some (.amomaxn64 sc d a b (f7.extractLsb' 1 2) (f7.extractLsb' 0 1) (maj.extractLsb' 0 1)) else
  if f7.extractLsb' 3 4 = 8 then some (.amoswap64 sc d a b (f7.extractLsb' 1 2) (f7.extractLsb' 0 1) (maj.extractLsb' 0 1)) else
  if f7.extractLsb' 3 4 = 9 then some (.amocas64 sc d a b (f7.extractLsb' 1 2) (f7.extractLsb' 0 1) (maj.extractLsb' 0 1)) else
  none

noncomputable def decMajor16 (f7 : BitVec 7) (b a d : BitVec 5) (maj : BitVec 6) (sc : Sc) : Option Instr :=
  if f7.extractLsb' 3 4 = 0 then some (.amoaddSy sc d a b (f7.extractLsb' 1 2) (f7.extractLsb' 0 1) (maj.extractLsb' 0 1)) else
  if f7.extractLsb' 3 4 = 1 then some (.amoandSy sc d a b (f7.extractLsb' 1 2) (f7.extractLsb' 0 1) (maj.extractLsb' 0 1)) else
  if f7.extractLsb' 3 4 = 2 then some (.amoorSy sc d a b (f7.extractLsb' 1 2) (f7.extractLsb' 0 1) (maj.extractLsb' 0 1)) else
  if f7.extractLsb' 3 4 = 3 then some (.amoxorSy sc d a b (f7.extractLsb' 1 2) (f7.extractLsb' 0 1) (maj.extractLsb' 0 1)) else
  if f7.extractLsb' 3 4 = 4 then some (.amominSy sc d a b (f7.extractLsb' 1 2) (f7.extractLsb' 0 1) (maj.extractLsb' 0 1)) else
  if f7.extractLsb' 3 4 = 5 then some (.amomaxSy sc d a b (f7.extractLsb' 1 2) (f7.extractLsb' 0 1) (maj.extractLsb' 0 1)) else
  if f7.extractLsb' 3 4 = 6 then some (.amominnSy sc d a b (f7.extractLsb' 1 2) (f7.extractLsb' 0 1) (maj.extractLsb' 0 1)) else
  if f7.extractLsb' 3 4 = 7 then some (.amomaxnSy sc d a b (f7.extractLsb' 1 2) (f7.extractLsb' 0 1) (maj.extractLsb' 0 1)) else
  if f7.extractLsb' 3 4 = 8 then some (.amoswapSy sc d a b (f7.extractLsb' 1 2) (f7.extractLsb' 0 1) (maj.extractLsb' 0 1)) else
  if f7.extractLsb' 3 4 = 9 then some (.amocasSy sc d a b (f7.extractLsb' 1 2) (f7.extractLsb' 0 1) (maj.extractLsb' 0 1)) else
  none

noncomputable def decMajor18 (f7 : BitVec 7) (b a d : BitVec 5) (_maj : BitVec 6) (sc : Sc) : Option Instr :=
  if f7.extractLsb' 0 2 = 0 then some (.fadd sc d a b (f7.extractLsb' 5 2) (f7.extractLsb' 2 3)) else
  if f7.extractLsb' 0 2 = 1 then some (.fsub sc d a b (f7.extractLsb' 5 2) (f7.extractLsb' 2 3)) else
  if f7.extractLsb' 0 2 = 2 then some (.fmul sc d a b (f7.extractLsb' 5 2) (f7.extractLsb' 2 3)) else
  if f7.extractLsb' 0 2 = 3 then some (.fdiv sc d a b (f7.extractLsb' 5 2) (f7.extractLsb' 2 3)) else
  none

noncomputable def decMajor19 (f7 : BitVec 7) (b a d : BitVec 5) (_maj : BitVec 6) (sc : Sc) : Option Instr :=
  some (.fma sc d a b (f7.extractLsb' 5 2) (f7.extractLsb' 0 5))

noncomputable def decMajor1A (f7 : BitVec 7) (b a d : BitVec 5) (_maj : BitVec 6) (sc : Sc) : Option Instr :=
  if f7.extractLsb' 0 2 = 0 ∧ b = 0 then some (.fsqrt sc d a (f7.extractLsb' 5 2) (f7.extractLsb' 2 3)) else
  if f7.extractLsb' 0 2 = 1 then some (.fcvtTo sc d a (f7.extractLsb' 5 2) (f7.extractLsb' 2 3) b) else
  if f7.extractLsb' 0 2 = 2 then some (.fcvtFrom sc d a (f7.extractLsb' 5 2) (f7.extractLsb' 2 3) b) else
  none

noncomputable def decMajor1B (f7 : BitVec 7) (b a d : BitVec 5) (_maj : BitVec 6) (sc : Sc) : Option Instr :=
  if f7.extractLsb' 0 5 = 0 then some (.fmin sc d a b (f7.extractLsb' 5 2)) else
  if f7.extractLsb' 0 5 = 1 then some (.fmax sc d a b (f7.extractLsb' 5 2)) else
  if f7.extractLsb' 0 5 = 2 then some (.fcmpEq sc d a b (f7.extractLsb' 5 2)) else
  if f7.extractLsb' 0 5 = 3 then some (.fcmpLt sc d a b (f7.extractLsb' 5 2)) else
  if f7.extractLsb' 0 5 = 4 then some (.fcmpLe sc d a b (f7.extractLsb' 5 2)) else
  if f7.extractLsb' 0 5 = 5 then some (.fsgn sc d a b (f7.extractLsb' 5 2)) else
  if f7.extractLsb' 0 5 = 6 then some (.fsgnN sc d a b (f7.extractLsb' 5 2)) else
  if f7.extractLsb' 0 5 = 7 then some (.fsgnX sc d a b (f7.extractLsb' 5 2)) else
  if f7.extractLsb' 0 5 = 8 ∧ b = 0 then some (.fclass sc d a (f7.extractLsb' 5 2)) else
  none

noncomputable def decMajor1C (f7 : BitVec 7) (b a d : BitVec 5) (_maj : BitVec 6) (sc : Sc) : Option Instr :=
  if a = 0 then some (.csrr sc d (f7 ++ b : BitVec 12)) else
  none

noncomputable def decMajor1D (f7 : BitVec 7) (b a d : BitVec 5) (_maj : BitVec 6) (sc : Sc) : Option Instr :=
  if d = 0 then some (.csrw sc a (f7 ++ b : BitVec 12)) else
  if d = 1 then some (.csrs sc a (f7 ++ b : BitVec 12)) else
  if d = 2 then some (.csrc sc a (f7 ++ b : BitVec 12)) else
  none

noncomputable def decMajor1E (f7 : BitVec 7) (b a d : BitVec 5) (_maj : BitVec 6) (sc : Sc) : Option Instr :=
  if f7 = 0 ∧ b = 0 ∧ a = 0 ∧ d = 0 then some (.ecall sc) else
  if f7 = 1 ∧ b = 0 ∧ a = 0 ∧ d = 0 then some (.ebreak sc) else
  if f7 = 2 ∧ b = 0 ∧ a = 0 ∧ d = 0 then some (.eret sc) else
  if f7 = 3 ∧ b = 0 then some (.wfe sc d a) else
  if f7 = 8 ∧ b = 0 then some (.symq sc d a) else
  if f7 = 9 ∧ b = 0 ∧ d = 0 then some (.symwait sc a) else
  if f7 = 16 ∧ b = 0 ∧ a = 0 then some (.snap sc d) else
  if f7 = 17 ∧ b = 0 then some (.snapq sc d a) else
  if f7 = 24 then some (.tsubmit sc d a b) else
  if f7 = 25 ∧ b = 0 ∧ a = 0 ∧ d = 0 then some (.tdone sc) else
  if f7 = 32 ∧ b = 0 then some (.lkline sc d a) else
  if f7 = 33 ∧ b = 0 then some (.ulkline sc d a) else
  if f7 = 48 then some (.vsetvl sc d a b) else
  if f7.extractLsb' 2 5 = 12 then some (.vsetdim sc d a b (f7.extractLsb' 0 2)) else
  if f7.extractLsb' 6 1 = 1 ∧ b = 0 then some (.vsetvli sc d a (f7.extractLsb' 3 3) (f7.extractLsb' 0 3)) else
  none

noncomputable def decMajor1F (f7 : BitVec 7) (b a d : BitVec 5) (_maj : BitVec 6) (sc : Sc) : Option Instr :=
  if f7 = 0 ∧ b = 0 then some (.qfetch sc d a) else
  if f7 = 1 then some (.swait sc d a b) else
  if f7 = 2 then some (.dispatch sc d a b) else
  none

noncomputable def decMajor20 (f7 : BitVec 7) (b a d : BitVec 5) (maj : BitVec 6) (sc : Sc) : Option Instr :=
  if f7.extractLsb' 3 4 = 0 then some (.vadd sc d a b (f7.extractLsb' 0 3) (maj.extractLsb' 0 2)) else
  if f7.extractLsb' 3 4 = 1 then some (.vsub sc d a b (f7.extractLsb' 0 3) (maj.extractLsb' 0 2)) else
  if f7.extractLsb' 3 4 = 2 then some (.vrsub sc d a b (f7.extractLsb' 0 3) (maj.extractLsb' 0 2)) else
  if f7.extractLsb' 3 4 = 3 then some (.vmul sc d a b (f7.extractLsb' 0 3) (maj.extractLsb' 0 2)) else
  if f7.extractLsb' 3 4 = 4 then some (.vmacc sc d a b (f7.extractLsb' 0 3) (maj.extractLsb' 0 2)) else
  if f7.extractLsb' 3 4 = 5 then some (.vnmsac sc d a b (f7.extractLsb' 0 3) (maj.extractLsb' 0 2)) else
  if f7.extractLsb' 3 4 = 6 then some (.vand sc d a b (f7.extractLsb' 0 3) (maj.extractLsb' 0 2)) else
  if f7.extractLsb' 3 4 = 7 then some (.vor sc d a b (f7.extractLsb' 0 3) (maj.extractLsb' 0 2)) else
  if f7.extractLsb' 3 4 = 8 then some (.vxor sc d a b (f7.extractLsb' 0 3) (maj.extractLsb' 0 2)) else
  if f7.extractLsb' 3 4 = 9 then some (.vsll sc d a b (f7.extractLsb' 0 3) (maj.extractLsb' 0 2)) else
  if f7.extractLsb' 3 4 = 10 then some (.vsrl sc d a b (f7.extractLsb' 0 3) (maj.extractLsb' 0 2)) else
  if f7.extractLsb' 3 4 = 11 then some (.vsra sc d a b (f7.extractLsb' 0 3) (maj.extractLsb' 0 2)) else
  if f7.extractLsb' 3 4 = 12 then some (.vmerge sc d a b (f7.extractLsb' 0 3) (maj.extractLsb' 0 2)) else
  if f7.extractLsb' 3 4 = 13 ∧ b = 0 then some (.vmv sc d a (f7.extractLsb' 0 3) (maj.extractLsb' 0 2)) else
  if f7.extractLsb' 3 4 = 14 then some (.vnsra sc d a b (f7.extractLsb' 0 3) (maj.extractLsb' 0 2)) else
  if f7.extractLsb' 3 4 = 15 ∧ b = 0 then some (.vaddCh sc d a (f7.extractLsb' 0 3) (maj.extractLsb' 0 2)) else
  none

noncomputable def decMajor23 (f7 : BitVec 7) (b a d : BitVec 5) (maj : BitVec 6) (sc : Sc) : Option Instr :=
  if f7.extractLsb' 3 3 = 0 then some (.vmulh sc d a b (f7.extractLsb' 6 1) (f7.extractLsb' 0 3) (maj.extractLsb' 0 3)) else
  if f7.extractLsb' 3 3 = 1 then some (.vdiv sc d a b (f7.extractLsb' 6 1) (f7.extractLsb' 0 3) (maj.extractLsb' 0 3)) else
  if f7.extractLsb' 3 3 = 2 then some (.vrem sc d a b (f7.extractLsb' 6 1) (f7.extractLsb' 0 3) (maj.extractLsb' 0 3)) else
  if f7.extractLsb' 3 3 = 3 then some (.vmin sc d a b (f7.extractLsb' 6 1) (f7.extractLsb' 0 3) (maj.extractLsb' 0 3)) else
  if f7.extractLsb' 3 3 = 4 then some (.vmax sc d a b (f7.extractLsb' 6 1) (f7.extractLsb' 0 3) (maj.extractLsb' 0 3)) else
  if f7.extractLsb' 3 3 = 5 then some (.vsadd sc d a b (f7.extractLsb' 6 1) (f7.extractLsb' 0 3) (maj.extractLsb' 0 3)) else
  if f7.extractLsb' 3 3 = 6 then some (.vssub sc d a b (f7.extractLsb' 6 1) (f7.extractLsb' 0 3) (maj.extractLsb' 0 3)) else
  if f7.extractLsb' 3 3 = 7 then some (.vclamp sc d a b (f7.extractLsb' 6 1) (f7.extractLsb' 0 3) (maj.extractLsb' 0 3)) else
  none

noncomputable def decMajor26 (f7 : BitVec 7) (b a d : BitVec 5) (maj : BitVec 6) (sc : Sc) : Option Instr :=
  if f7.extractLsb' 3 4 = 0 then some (.vfadd sc d a b (f7.extractLsb' 0 3) (maj.extractLsb' 0 1)) else
  if f7.extractLsb' 3 4 = 1 then some (.vfsub sc d a b (f7.extractLsb' 0 3) (maj.extractLsb' 0 1)) else
  if f7.extractLsb' 3 4 = 2 then some (.vfmul sc d a b (f7.extractLsb' 0 3) (maj.extractLsb' 0 1)) else
  if f7.extractLsb' 3 4 = 3 then some (.vfdiv sc d a b (f7.extractLsb' 0 3) (maj.extractLsb' 0 1)) else
  if f7.extractLsb' 3 4 = 4 then some (.vfma sc d a b (f7.extractLsb' 0 3) (maj.extractLsb' 0 1)) else
  if f7.extractLsb' 3 4 = 5 then some (.vfnma sc d a b (f7.extractLsb' 0 3) (maj.extractLsb' 0 1)) else
  if f7.extractLsb' 3 4 = 6 then some (.vfmin sc d a b (f7.extractLsb' 0 3) (maj.extractLsb' 0 1)) else
  if f7.extractLsb' 3 4 = 7 then some (.vfmax sc d a b (f7.extractLsb' 0 3) (maj.extractLsb' 0 1)) else
  if f7.extractLsb' 3 4 = 8 then some (.vfcmpEq sc d a b (f7.extractLsb' 0 3) (maj.extractLsb' 0 1)) else
  if f7.extractLsb' 3 4 = 9 then some (.vfcmpLt sc d a b (f7.extractLsb' 0 3) (maj.extractLsb' 0 1)) else
  if f7.extractLsb' 3 4 = 10 then some (.vfcmpLe sc d a b (f7.extractLsb' 0 3) (maj.extractLsb' 0 1)) else
  if f7.extractLsb' 3 4 = 12 ∧ b = 0 then some (.vfaddCh sc d a (f7.extractLsb' 0 3) (maj.extractLsb' 0 1)) else
  if f7.extractLsb' 3 4 = 11 ∧ a = 0 then some (.vfsqrt sc d b (f7.extractLsb' 0 3)) else
  if f7.extractLsb' 3 4 = 11 ∧ a = 1 then some (.vfrsqrt sc d b (f7.extractLsb' 0 3)) else
  if f7.extractLsb' 3 4 = 11 ∧ a = 2 then some (.vfexp2 sc d b (f7.extractLsb' 0 3)) else
  if f7.extractLsb' 3 4 = 11 ∧ a = 3 then some (.vflog2 sc d b (f7.extractLsb' 0 3)) else
  if f7.extractLsb' 3 4 = 11 ∧ a = 4 then some (.vfclass sc d b (f7.extractLsb' 0 3)) else
  none

noncomputable def decMajor27 (f7 : BitVec 7) (b a d : BitVec 5) (maj : BitVec 6) (sc : Sc) : Option Instr :=
  if f7.extractLsb' 3 4 = 0 then some (.vfadd sc d a b (f7.extractLsb' 0 3) (maj.extractLsb' 0 1)) else
  if f7.extractLsb' 3 4 = 1 then some (.vfsub sc d a b (f7.extractLsb' 0 3) (maj.extractLsb' 0 1)) else
  if f7.extractLsb' 3 4 = 2 then some (.vfmul sc d a b (f7.extractLsb' 0 3) (maj.extractLsb' 0 1)) else
  if f7.extractLsb' 3 4 = 3 then some (.vfdiv sc d a b (f7.extractLsb' 0 3) (maj.extractLsb' 0 1)) else
  if f7.extractLsb' 3 4 = 4 then some (.vfma sc d a b (f7.extractLsb' 0 3) (maj.extractLsb' 0 1)) else
  if f7.extractLsb' 3 4 = 5 then some (.vfnma sc d a b (f7.extractLsb' 0 3) (maj.extractLsb' 0 1)) else
  if f7.extractLsb' 3 4 = 6 then some (.vfmin sc d a b (f7.extractLsb' 0 3) (maj.extractLsb' 0 1)) else
  if f7.extractLsb' 3 4 = 7 then some (.vfmax sc d a b (f7.extractLsb' 0 3) (maj.extractLsb' 0 1)) else
  if f7.extractLsb' 3 4 = 8 then some (.vfcmpEq sc d a b (f7.extractLsb' 0 3) (maj.extractLsb' 0 1)) else
  if f7.extractLsb' 3 4 = 9 then some (.vfcmpLt sc d a b (f7.extractLsb' 0 3) (maj.extractLsb' 0 1)) else
  if f7.extractLsb' 3 4 = 10 then some (.vfcmpLe sc d a b (f7.extractLsb' 0 3) (maj.extractLsb' 0 1)) else
  if f7.extractLsb' 3 4 = 12 ∧ b = 0 then some (.vfaddCh sc d a (f7.extractLsb' 0 3) (maj.extractLsb' 0 1)) else
  none

noncomputable def decMajor28 (f7 : BitVec 7) (b a d : BitVec 5) (maj : BitVec 6) (sc : Sc) : Option Instr :=
  if f7.extractLsb' 3 4 = 0 then some (.vfaddBf16 sc d a b (f7.extractLsb' 0 3) (maj.extractLsb' 0 1)) else
  if f7.extractLsb' 3 4 = 1 then some (.vfsubBf16 sc d a b (f7.extractLsb' 0 3) (maj.extractLsb' 0 1)) else
  if f7.extractLsb' 3 4 = 2 then some (.vfmulBf16 sc d a b (f7.extractLsb' 0 3) (maj.extractLsb' 0 1)) else
  if f7.extractLsb' 3 4 = 3 then some (.vfdivBf16 sc d a b (f7.extractLsb' 0 3) (maj.extractLsb' 0 1)) else
  if f7.extractLsb' 3 4 = 4 then some (.vfmaBf16 sc d a b (f7.extractLsb' 0 3) (maj.extractLsb' 0 1)) else
  if f7.extractLsb' 3 4 = 5 then some (.vfnmaBf16 sc d a b (f7.extractLsb' 0 3) (maj.extractLsb' 0 1)) else
  if f7.extractLsb' 3 4 = 6 then some (.vfminBf16 sc d a b (f7.extractLsb' 0 3) (maj.extractLsb' 0 1)) else
  if f7.extractLsb' 3 4 = 7 then some (.vfmaxBf16 sc d a b (f7.extractLsb' 0 3) (maj.extractLsb' 0 1)) else
  if f7.extractLsb' 3 4 = 8 then some (.vfcmpEqBf16 sc d a b (f7.extractLsb' 0 3) (maj.extractLsb' 0 1)) else
  if f7.extractLsb' 3 4 = 9 then some (.vfcmpLtBf16 sc d a b (f7.extractLsb' 0 3) (maj.extractLsb' 0 1)) else
  if f7.extractLsb' 3 4 = 10 then some (.vfcmpLeBf16 sc d a b (f7.extractLsb' 0 3) (maj.extractLsb' 0 1)) else
  if f7.extractLsb' 3 4 = 12 ∧ b = 0 then some (.vfaddChBf16 sc d a (f7.extractLsb' 0 3) (maj.extractLsb' 0 1)) else
  if f7.extractLsb' 3 4 = 11 ∧ a = 0 then some (.vfsqrtBf16 sc d b (f7.extractLsb' 0 3)) else
  if f7.extractLsb' 3 4 = 11 ∧ a = 1 then some (.vfrsqrtBf16 sc d b (f7.extractLsb' 0 3)) else
  if f7.extractLsb' 3 4 = 11 ∧ a = 2 then some (.vfexp2Bf16 sc d b (f7.extractLsb' 0 3)) else
  if f7.extractLsb' 3 4 = 11 ∧ a = 3 then some (.vflog2Bf16 sc d b (f7.extractLsb' 0 3)) else
  if f7.extractLsb' 3 4 = 11 ∧ a = 4 then some (.vfclassBf16 sc d b (f7.extractLsb' 0 3)) else
  none

noncomputable def decMajor29 (f7 : BitVec 7) (b a d : BitVec 5) (maj : BitVec 6) (sc : Sc) : Option Instr :=
  if f7.extractLsb' 3 4 = 0 then some (.vfaddBf16 sc d a b (f7.extractLsb' 0 3) (maj.extractLsb' 0 1)) else
  if f7.extractLsb' 3 4 = 1 then some (.vfsubBf16 sc d a b (f7.extractLsb' 0 3) (maj.extractLsb' 0 1)) else
  if f7.extractLsb' 3 4 = 2 then some (.vfmulBf16 sc d a b (f7.extractLsb' 0 3) (maj.extractLsb' 0 1)) else
  if f7.extractLsb' 3 4 = 3 then some (.vfdivBf16 sc d a b (f7.extractLsb' 0 3) (maj.extractLsb' 0 1)) else
  if f7.extractLsb' 3 4 = 4 then some (.vfmaBf16 sc d a b (f7.extractLsb' 0 3) (maj.extractLsb' 0 1)) else
  if f7.extractLsb' 3 4 = 5 then some (.vfnmaBf16 sc d a b (f7.extractLsb' 0 3) (maj.extractLsb' 0 1)) else
  if f7.extractLsb' 3 4 = 6 then some (.vfminBf16 sc d a b (f7.extractLsb' 0 3) (maj.extractLsb' 0 1)) else
  if f7.extractLsb' 3 4 = 7 then some (.vfmaxBf16 sc d a b (f7.extractLsb' 0 3) (maj.extractLsb' 0 1)) else
  if f7.extractLsb' 3 4 = 8 then some (.vfcmpEqBf16 sc d a b (f7.extractLsb' 0 3) (maj.extractLsb' 0 1)) else
  if f7.extractLsb' 3 4 = 9 then some (.vfcmpLtBf16 sc d a b (f7.extractLsb' 0 3) (maj.extractLsb' 0 1)) else
  if f7.extractLsb' 3 4 = 10 then some (.vfcmpLeBf16 sc d a b (f7.extractLsb' 0 3) (maj.extractLsb' 0 1)) else
  if f7.extractLsb' 3 4 = 12 ∧ b = 0 then some (.vfaddChBf16 sc d a (f7.extractLsb' 0 3) (maj.extractLsb' 0 1)) else
  none

noncomputable def decMajor2A (f7 : BitVec 7) (b a d : BitVec 5) (maj : BitVec 6) (sc : Sc) : Option Instr :=
  some (.vfcvt sc d b (f7.extractLsb' 0 3) a (maj.extractLsb' 0 1 ++ f7.extractLsb' 3 4 : BitVec 5))

noncomputable def decMajor2C (f7 : BitVec 7) (b a d : BitVec 5) (_maj : BitVec 6) (sc : Sc) : Option Instr :=
  if f7.extractLsb' 3 3 = 0 then some (.vcmpEq sc d a b (f7.extractLsb' 6 1) (f7.extractLsb' 0 3)) else
  if f7.extractLsb' 3 3 = 1 then some (.vcmpNe sc d a b (f7.extractLsb' 6 1) (f7.extractLsb' 0 3)) else
  if f7.extractLsb' 3 3 = 2 then some (.vcmpLt sc d a b (f7.extractLsb' 6 1) (f7.extractLsb' 0 3)) else
  if f7.extractLsb' 3 3 = 3 then some (.vcmpLe sc d a b (f7.extractLsb' 6 1) (f7.extractLsb' 0 3)) else
  if f7.extractLsb' 3 3 = 4 then some (.vwadd sc d a b (f7.extractLsb' 6 1) (f7.extractLsb' 0 3)) else
  if f7.extractLsb' 3 3 = 5 then some (.vwmul sc d a b (f7.extractLsb' 6 1) (f7.extractLsb' 0 3)) else
  if f7.extractLsb' 3 3 = 6 ∧ b = 0 then some (.vmaxCh sc d a (f7.extractLsb' 6 1) (f7.extractLsb' 0 3)) else
  if f7.extractLsb' 3 3 = 7 ∧ b = 0 then some (.vminCh sc d a (f7.extractLsb' 6 1) (f7.extractLsb' 0 3)) else
  none

noncomputable def decMajor2D (f7 : BitVec 7) (b a d : BitVec 5) (_maj : BitVec 6) (sc : Sc) : Option Instr :=
  if f7.extractLsb' 3 4 = 0 then some (.vredsum sc d a b (f7.extractLsb' 0 3)) else
  if f7.extractLsb' 3 4 = 1 then some (.vredmax sc d a b (f7.extractLsb' 0 3)) else
  if f7.extractLsb' 3 4 = 2 then some (.vredmin sc d a b (f7.extractLsb' 0 3)) else
  if f7.extractLsb' 3 4 = 3 then some (.vredmaxN sc d a b (f7.extractLsb' 0 3)) else
  if f7.extractLsb' 3 4 = 4 then some (.vredminN sc d a b (f7.extractLsb' 0 3)) else
  if f7.extractLsb' 3 4 = 5 then some (.vfredsum sc d a b (f7.extractLsb' 0 3)) else
  if f7.extractLsb' 3 4 = 6 then some (.vfredmax sc d a b (f7.extractLsb' 0 3)) else
  if f7.extractLsb' 3 4 = 7 then some (.vfredsumBf16 sc d a b (f7.extractLsb' 0 3)) else
  if f7.extractLsb' 3 4 = 8 then some (.vfredmaxBf16 sc d a b (f7.extractLsb' 0 3)) else
  none

noncomputable def decMajor2E (f7 : BitVec 7) (b a d : BitVec 5) (_maj : BitVec 6) (sc : Sc) : Option Instr :=
  if f7.extractLsb' 6 1 = 0 then some (.vmxunp sc d a b (f7.extractLsb' 3 3) (f7.extractLsb' 0 3)) else
  if f7.extractLsb' 6 1 = 1 then some (.vmxpack sc d a b (f7.extractLsb' 3 3) (f7.extractLsb' 0 3)) else
  none

noncomputable def decMajor2F (f7 : BitVec 7) (b a d : BitVec 5) (_maj : BitVec 6) (sc : Sc) : Option Instr :=
  if f7.extractLsb' 3 4 = 0 then some (.vslideup sc d a b (f7.extractLsb' 0 3)) else
  if f7.extractLsb' 3 4 = 1 then some (.vslidedn sc d a b (f7.extractLsb' 0 3)) else
  if f7.extractLsb' 3 4 = 2 then some (.vrgather sc d a b (f7.extractLsb' 0 3)) else
  if f7 = 24 then some (.vcompress sc d a b) else
  if f7.extractLsb' 3 4 = 4 ∧ b = 0 then some (.viota sc d a (f7.extractLsb' 0 3)) else
  if f7.extractLsb' 3 4 = 5 ∧ b = 0 ∧ a = 0 then some (.vid sc d (f7.extractLsb' 0 3)) else
  if f7.extractLsb' 3 4 = 6 ∧ b = 0 then some (.vbcast sc d a (f7.extractLsb' 0 3)) else
  if f7.extractLsb' 3 4 = 7 then some (.vext sc d a b (f7.extractLsb' 0 3)) else
  if f7.extractLsb' 3 4 = 8 then some (.vins sc d a b (f7.extractLsb' 0 3)) else
  if f7 = 72 then some (.mand sc d a b) else
  if f7 = 80 then some (.mor sc d a b) else
  if f7 = 88 then some (.mxor sc d a b) else
  if f7 = 96 ∧ b = 0 then some (.mnot sc d a) else
  if f7 = 104 ∧ b = 0 then some (.mpopc sc d a) else
  if f7 = 112 ∧ b = 0 then some (.mfirst sc d a) else
  none

noncomputable def decMajor30 (f7 : BitVec 7) (b a d : BitVec 5) (_maj : BitVec 6) (sc : Sc) : Option Instr :=
  if f7.extractLsb' 3 1 = 0 ∧ b = 0 then some (.vld sc d a (f7.extractLsb' 4 3) (f7.extractLsb' 0 3)) else
  none

noncomputable def decMajor31 (f7 : BitVec 7) (b a d : BitVec 5) (_maj : BitVec 6) (sc : Sc) : Option Instr :=
  if f7.extractLsb' 3 1 = 0 then some (.vlds sc d a b (f7.extractLsb' 4 3) (f7.extractLsb' 0 3)) else
  none

noncomputable def decMajor32 (f7 : BitVec 7) (b a d : BitVec 5) (_maj : BitVec 6) (sc : Sc) : Option Instr :=
  if f7.extractLsb' 3 1 = 0 then some (.vldx sc d a b (f7.extractLsb' 4 3) (f7.extractLsb' 0 3)) else
  none

noncomputable def decMajor33 (f7 : BitVec 7) (b a d : BitVec 5) (_maj : BitVec 6) (sc : Sc) : Option Instr :=
  if b = 0 then some (.vst sc d a (f7.extractLsb' 4 3) (f7.extractLsb' 3 1) (f7.extractLsb' 0 3)) else
  none

noncomputable def decMajor34 (f7 : BitVec 7) (b a d : BitVec 5) (_maj : BitVec 6) (sc : Sc) : Option Instr :=
  some (.vsts sc d a b (f7.extractLsb' 4 3) (f7.extractLsb' 3 1) (f7.extractLsb' 0 3))

noncomputable def decMajor35 (f7 : BitVec 7) (b a d : BitVec 5) (_maj : BitVec 6) (sc : Sc) : Option Instr :=
  some (.vstx sc d a b (f7.extractLsb' 4 3) (f7.extractLsb' 3 1) (f7.extractLsb' 0 3))

noncomputable def decMajor36 (f7 : BitVec 7) (b a d : BitVec 5) (_maj : BitVec 6) (sc : Sc) : Option Instr :=
  if f7.extractLsb' 3 1 = 0 ∧ b = 0 then some (.vldm sc d a (f7.extractLsb' 4 3) (f7.extractLsb' 0 3)) else
  if b = 1 then some (.vstm sc d a (f7.extractLsb' 4 3) (f7.extractLsb' 3 1) (f7.extractLsb' 0 3)) else
  none

noncomputable def decMajor37 (f7 : BitVec 7) (b a d : BitVec 5) (_maj : BitVec 6) (sc : Sc) : Option Instr :=
  if f7.extractLsb' 0 4 = 0 then some (.vsld sc d a b (f7.extractLsb' 4 3)) else
  none

noncomputable def decMajor38 (f7 : BitVec 7) (b a d : BitVec 5) (_maj : BitVec 6) (sc : Sc) : Option Instr :=
  if f7.extractLsb' 3 4 = 0 ∧ b = 0 ∧ a = 0 ∧ d = 0 then some (.fence sc (f7.extractLsb' 0 3)) else
  if f7.extractLsb' 3 4 = 1 ∧ b = 0 ∧ a = 0 ∧ d = 0 then some (.fenceAcq sc (f7.extractLsb' 0 3)) else
  if f7.extractLsb' 3 4 = 2 ∧ b = 0 ∧ a = 0 ∧ d = 0 then some (.fenceRel sc (f7.extractLsb' 0 3)) else
  if f7.extractLsb' 3 4 = 3 ∧ b = 0 ∧ a = 0 ∧ d = 0 then some (.fenceSv sc (f7.extractLsb' 0 3)) else
  if f7.extractLsb' 3 4 = 4 ∧ b = 0 ∧ a = 0 ∧ d = 0 then some (.fenceVs sc (f7.extractLsb' 0 3)) else
  if f7.extractLsb' 3 4 = 5 ∧ b = 0 ∧ a = 0 ∧ d = 0 then some (.fenceSe sc (f7.extractLsb' 0 3)) else
  if f7.extractLsb' 3 4 = 6 ∧ b = 0 ∧ a = 0 ∧ d = 0 then some (.fenceVe sc (f7.extractLsb' 0 3)) else
  none

noncomputable def decMajor39 (f7 : BitVec 7) (b a d : BitVec 5) (_maj : BitVec 6) (sc : Sc) : Option Instr :=
  if f7.extractLsb' 3 4 = 0 ∧ d = 0 then some (.binit sc a b (f7.extractLsb' 0 3)) else
  if f7.extractLsb' 3 4 = 1 then some (.barr sc d a b (f7.extractLsb' 0 3)) else
  if f7.extractLsb' 3 4 = 2 then some (.barb sc d a b (f7.extractLsb' 0 3)) else
  if f7.extractLsb' 3 4 = 3 then some (.bwait sc d a b (f7.extractLsb' 0 3)) else
  if f7.extractLsb' 3 4 = 4 then some (.btest sc d a b (f7.extractLsb' 0 3)) else
  none

noncomputable def decMajor3A (f7 : BitVec 7) (b a d : BitVec 5) (_maj : BitVec 6) (sc : Sc) : Option Instr :=
  if f7.extractLsb' 3 4 = 0 ∧ d = 0 then some (.cbinit sc a b (f7.extractLsb' 0 3)) else
  if f7.extractLsb' 3 4 = 1 then some (.cbpush sc d a b (f7.extractLsb' 0 3)) else
  if f7.extractLsb' 3 4 = 2 then some (.cbpop sc d a b (f7.extractLsb' 0 3)) else
  if f7.extractLsb' 3 4 = 3 then some (.cbwait sc d a b (f7.extractLsb' 0 3)) else
  if f7 = 32 then some (.srcfg sc d a b) else
  none

noncomputable def decMajor3C (f7 : BitVec 7) (b a d : BitVec 5) (_maj : BitVec 6) (sc : Sc) : Option Instr :=
  if f7 = 0 ∧ b = 0 then some (.tshape sc d a) else
  if f7.extractLsb' 3 4 = 1 then some (.mldw sc a b (f7.extractLsb' 0 3) d) else
  if f7 = 16 ∧ b = 0 ∧ a = 0 then some (.mmaz sc d) else
  if f7.extractLsb' 3 4 = 3 then some (.msta sc a b (f7.extractLsb' 0 3) d) else
  if f7 = 32 ∧ a = 0 then some (.mchk sc b d) else
  if f7.extractLsb' 3 4 = 5 ∧ a = 0 then some (.mver sc b (f7.extractLsb' 0 3) d) else
  if f7 = 48 ∧ b = 0 then some (.mstat sc d a) else
  if f7 = 56 ∧ b = 0 ∧ d = 0 then some (.mrel sc a) else
  if f7.extractLsb' 3 4 = 8 then some (.mma sc a b (f7.extractLsb' 0 3) d) else
  if f7.extractLsb' 3 4 = 9 then some (.mmaMx sc a b (f7.extractLsb' 0 3) d) else
  none

noncomputable def decMajor3D (f7 : BitVec 7) (b a d : BitVec 5) (_maj : BitVec 6) (sc : Sc) : Option Instr :=
  if f7.extractLsb' 3 3 = 0 then some (.cpy sc d a b (f7.extractLsb' 6 1) (f7.extractLsb' 0 3)) else
  if f7.extractLsb' 3 3 = 1 then some (.cpy2 sc d a b (f7.extractLsb' 6 1) (f7.extractLsb' 0 3)) else
  if f7.extractLsb' 3 3 = 2 then some (.cpyg sc d a b (f7.extractLsb' 6 1) (f7.extractLsb' 0 3)) else
  if f7 = 24 ∧ b = 0 then some (.cpyx sc d a) else
  none

noncomputable def decMajor3E (f7 : BitVec 7) (b a d : BitVec 5) (_maj : BitVec 6) (sc : Sc) : Option Instr :=
  if f7.extractLsb' 3 4 = 0 then some (.bkop sc d a b (f7.extractLsb' 0 3)) else
  if f7 = 8 then some (.bklock sc d a b) else
  if f7 = 16 then some (.bkunlock sc d a b) else
  if f7.extractLsb' 3 4 = 3 ∧ b = 0 ∧ a = 0 ∧ d = 0 then some (.bkfence sc (f7.extractLsb' 0 3)) else
  if f7.extractLsb' 3 4 = 4 then some (.bkcopy sc d a b (f7.extractLsb' 0 3)) else
  if f7 = 40 then some (.wickload sc d a b) else
  if f7 = 48 then some (.bkcfg sc d a b) else
  none

/-- The opcode map (R255): the major selects the row set; a major not listed is illegal. -/
noncomputable def decodeMajor (f7 : BitVec 7) (b a d : BitVec 5) (maj : BitVec 6) (sc : Sc) : Option Instr :=
  match maj.toNat with
  | 0x00 => decMajor00 f7 b a d maj sc
  | 0x01 => decMajor01 f7 b a d maj sc
  | 0x02 => decMajor02 f7 b a d maj sc
  | 0x03 => decMajor03 f7 b a d maj sc
  | 0x04 => decMajor04 f7 b a d maj sc
  | 0x05 => decMajor05 f7 b a d maj sc
  | 0x06 => decMajor06 f7 b a d maj sc
  | 0x07 => decMajor07 f7 b a d maj sc
  | 0x08 => decMajor08 f7 b a d maj sc
  | 0x09 => decMajor09 f7 b a d maj sc
  | 0x0A => decMajor0A f7 b a d maj sc
  | 0x0B => decMajor0B f7 b a d maj sc
  | 0x0C => decMajor0C f7 b a d maj sc
  | 0x0D => decMajor0D f7 b a d maj sc
  | 0x0E => decMajor0E f7 b a d maj sc
  | 0x0F => decMajor0F f7 b a d maj sc
  | 0x10 => decMajor10 f7 b a d maj sc
  | 0x11 => decMajor11 f7 b a d maj sc
  | 0x12 | 0x13 => decMajor12 f7 b a d maj sc
  | 0x14 | 0x15 => decMajor14 f7 b a d maj sc
  | 0x16 | 0x17 => decMajor16 f7 b a d maj sc
  | 0x18 => decMajor18 f7 b a d maj sc
  | 0x19 => decMajor19 f7 b a d maj sc
  | 0x1A => decMajor1A f7 b a d maj sc
  | 0x1B => decMajor1B f7 b a d maj sc
  | 0x1C => decMajor1C f7 b a d maj sc
  | 0x1D => decMajor1D f7 b a d maj sc
  | 0x1E => decMajor1E f7 b a d maj sc
  | 0x1F => decMajor1F f7 b a d maj sc
  | 0x20 | 0x21 | 0x22 => decMajor20 f7 b a d maj sc
  | 0x23 | 0x24 | 0x25 => decMajor23 f7 b a d maj sc
  | 0x26 => decMajor26 f7 b a d maj sc
  | 0x27 => decMajor27 f7 b a d maj sc
  | 0x28 => decMajor28 f7 b a d maj sc
  | 0x29 => decMajor29 f7 b a d maj sc
  | 0x2A | 0x2B => decMajor2A f7 b a d maj sc
  | 0x2C => decMajor2C f7 b a d maj sc
  | 0x2D => decMajor2D f7 b a d maj sc
  | 0x2E => decMajor2E f7 b a d maj sc
  | 0x2F => decMajor2F f7 b a d maj sc
  | 0x30 => decMajor30 f7 b a d maj sc
  | 0x31 => decMajor31 f7 b a d maj sc
  | 0x32 => decMajor32 f7 b a d maj sc
  | 0x33 => decMajor33 f7 b a d maj sc
  | 0x34 => decMajor34 f7 b a d maj sc
  | 0x35 => decMajor35 f7 b a d maj sc
  | 0x36 => decMajor36 f7 b a d maj sc
  | 0x37 => decMajor37 f7 b a d maj sc
  | 0x38 => decMajor38 f7 b a d maj sc
  | 0x39 => decMajor39 f7 b a d maj sc
  | 0x3A => decMajor3A f7 b a d maj sc
  | 0x3C => decMajor3C f7 b a d maj sc
  | 0x3D => decMajor3D f7 b a d maj sc
  | 0x3E => decMajor3E f7 b a d maj sc
  | _ => none

/-- A word under `ver` 00, by its fields (R243, R255). -/
noncomputable def decodeFields (w : IWord) : Option Instr :=
  decodeMajor (w.extractLsb' 25 7) (w.extractLsb' 20 5) (w.extractLsb' 15 5) (w.extractLsb' 10 5)
    (w.extractLsb' 4 6) (w.extractLsb' 2 2)

/-- The fate of a word (R246, steps 1 to 5). -/
noncomputable def decode (w : IWord) : Except DecodeError Instr :=
  if w.extractLsb' 0 2 ≠ 0 then .error .illegalVersion
  else if w = 0 then .error .zeroWord
  else match decodeFields w with
    | none => .error .illegalSelector
    | some i => if wellFormed i then .ok i else .error .illegalField

/-- The microword of code and operand fields (R262, R401); none where a field that must be 0 is not 0. -/
def decodeMicro (w : Micro) : Option Instr :=
  match (w.extractLsb' 12 4).toNat with
  | 0x0 => if w.extractLsb' 0 12 = 0 then some .uNop else none
  | 0x1 => some (.uAap (w.extractLsb' 6 6) (w.extractLsb' 0 6))
  | 0x2 => if w.extractLsb' 6 6 = 0 then some (.uAp3 (w.extractLsb' 4 2) (w.extractLsb' 2 2) (w.extractLsb' 0 2)) else none
  | 0x3 => some (.uNot (w.extractLsb' 6 6) (w.extractLsb' 0 6))
  | 0x4 => some (.uShl (w.extractLsb' 6 6) (w.extractLsb' 0 6))
  | 0x5 => some (.uShr (w.extractLsb' 6 6) (w.extractLsb' 0 6))
  | 0x6 => if w.extractLsb' 6 6 = 0 then some (.uZr (w.extractLsb' 0 6)) else none
  | 0x7 => if w.extractLsb' 6 6 = 0 then some (.uOn (w.extractLsb' 0 6)) else none
  | 0x8 => if w.extractLsb' 6 6 = 0 then some (.uEcr (w.extractLsb' 0 6)) else none
  | 0x9 => if w.extractLsb' 6 4 = 0 then some (.uCpyb (w.extractLsb' 10 2) (w.extractLsb' 0 6)) else none
  | 0xA => some (.uLoop (w.extractLsb' 10 2) (w.extractLsb' 0 10))
  | 0xB => if w.extractLsb' 4 8 = 0 then some (.uEnd (w.extractLsb' 0 4)) else none
  | 0xC => some (.uPar (w.extractLsb' 10 2) (w.extractLsb' 8 2) (w.extractLsb' 0 8))
  | 0xD => some (.uSig (w.extractLsb' 0 12))
  | 0xE => some (.uWait (w.extractLsb' 0 12))
  | 0xF => some (.uHalt (w.extractLsb' 0 12))
  | _ => none

/-- The microword of a micro-op (R262, R401). -/
def encodeMicro (i : Instr) : Micro :=
  match i with
  | .uNop => (0#4 ++ 0#12 : BitVec 16)
  | .uAap d s => (1#4 ++ d ++ s : BitVec 16)
  | .uAp3 z y x => (2#4 ++ 0#6 ++ z ++ y ++ x : BitVec 16)
  | .uNot d s => (3#4 ++ d ++ s : BitVec 16)
  | .uShl d s => (4#4 ++ d ++ s : BitVec 16)
  | .uShr d s => (5#4 ++ d ++ s : BitVec 16)
  | .uZr d => (6#4 ++ 0#6 ++ d : BitVec 16)
  | .uOn d => (7#4 ++ 0#6 ++ d : BitVec 16)
  | .uEcr d => (8#4 ++ 0#6 ++ d : BitVec 16)
  | .uCpyb n s => (9#4 ++ n ++ 0#4 ++ s : BitVec 16)
  | .uLoop e v => (10#4 ++ e ++ v : BitVec 16)
  | .uEnd k => (11#4 ++ 0#8 ++ k : BitVec 16)
  | .uPar r m v => (12#4 ++ r ++ m ++ v : BitVec 16)
  | .uSig v => (13#4 ++ v : BitVec 16)
  | .uWait k => (14#4 ++ k : BitVec 16)
  | .uHalt v => (15#4 ++ v : BitVec 16)
  | _ => 0

/-- The little-endian word of four bytes (R4, R243). -/
def wordOfBytes (b0 b1 b2 b3 : Byte) : IWord := b3 ++ b2 ++ b1 ++ b0

/-- The instruction that a list of bytes begins with, and the bytes after it. -/
noncomputable def decodeBytes (bs : List Byte) : Option (Except DecodeError Instr × List Byte) :=
  match bs with
  | b0 :: b1 :: b2 :: b3 :: rest => some (decode (wordOfBytes b0 b1 b2 b3), rest)
  | _ => none

/-- Byte k of a number, least significant first. -/
def byteOf (w k : Nat) : Byte := BitVec.ofNat 8 (w / 2 ^ (8 * k))

/-- What the decoder reads from the bits of an opcode-table row: a row of 32 bits is an instruction word, laid out as
four bytes, a row of 16 bits a microword; a row without bits is no encoding. -/
noncomputable def decodeTableWord (nbits w : Nat) : Option Instr :=
  if nbits = 32 then
    match decodeBytes [byteOf w 0, byteOf w 1, byteOf w 2, byteOf w 3] with
    | some (.ok i, _) => some i
    | _ => none
  else if nbits = 16 then decodeMicro (byteOf w 1 ++ byteOf w 0)
  else none

/-- The word of an instruction, field by field (R243, R247, R248); an event has no word and gives 0. -/
def encode (i : Instr) : IWord :=
  match i with
  | .add sc rd rs1 rs2 => wordFrame (0#7) rs2 rs1 rd (0#6) sc
  | .sub sc rd rs1 rs2 => wordFrame (1#7) rs2 rs1 rd (0#6) sc
  | .mul sc rd rs1 rs2 => wordFrame (2#7) rs2 rs1 rd (0#6) sc
  | .mulh sc rd rs1 rs2 => wordFrame (3#7) rs2 rs1 rd (0#6) sc
  | .mulhn sc rd rs1 rs2 => wordFrame (4#7) rs2 rs1 rd (0#6) sc
  | .div sc rd rs1 rs2 => wordFrame (5#7) rs2 rs1 rd (0#6) sc
  | .divn sc rd rs1 rs2 => wordFrame (6#7) rs2 rs1 rd (0#6) sc
  | .rem sc rd rs1 rs2 => wordFrame (7#7) rs2 rs1 rd (0#6) sc
  | .remn sc rd rs1 rs2 => wordFrame (8#7) rs2 rs1 rd (0#6) sc
  | .andR sc rd rs1 rs2 => wordFrame (9#7) rs2 rs1 rd (0#6) sc
  | .orR sc rd rs1 rs2 => wordFrame (10#7) rs2 rs1 rd (0#6) sc
  | .xorR sc rd rs1 rs2 => wordFrame (11#7) rs2 rs1 rd (0#6) sc
  | .sll sc rd rs1 rs2 => wordFrame (12#7) rs2 rs1 rd (0#6) sc
  | .srl sc rd rs1 rs2 => wordFrame (13#7) rs2 rs1 rd (0#6) sc
  | .sra sc rd rs1 rs2 => wordFrame (14#7) rs2 rs1 rd (0#6) sc
  | .slt sc rd rs1 rs2 => wordFrame (15#7) rs2 rs1 rd (0#6) sc
  | .sltn sc rd rs1 rs2 => wordFrame (16#7) rs2 rs1 rd (0#6) sc
  | .minR sc rd rs1 rs2 => wordFrame (17#7) rs2 rs1 rd (0#6) sc
  | .maxR sc rd rs1 rs2 => wordFrame (18#7) rs2 rs1 rd (0#6) sc
  | .minn sc rd rs1 rs2 => wordFrame (19#7) rs2 rs1 rd (0#6) sc
  | .maxn sc rd rs1 rs2 => wordFrame (20#7) rs2 rs1 rd (0#6) sc
  | .clz sc rd rs1 => wordFrame (24#7) (0#5) rs1 rd (0#6) sc
  | .ctz sc rd rs1 => wordFrame (25#7) (0#5) rs1 rd (0#6) sc
  | .popc sc rd rs1 => wordFrame (26#7) (0#5) rs1 rd (0#6) sc
  | .sext sc rd rs1 w => wordFrame (27#7) w rs1 rd (0#6) sc
  | .zext sc rd rs1 w => wordFrame (28#7) w rs1 rd (0#6) sc
  | .addi sc rd rs1 i => wordFrame (i.extractLsb' 5 7) (i.extractLsb' 0 5) rs1 rd (1#6) sc
  | .andi sc rd rs1 i => wordFrame (i.extractLsb' 5 7) (i.extractLsb' 0 5) rs1 rd (2#6) sc
  | .ori sc rd rs1 i => wordFrame (i.extractLsb' 5 7) (i.extractLsb' 0 5) rs1 rd (3#6) sc
  | .xori sc rd rs1 i => wordFrame (i.extractLsb' 5 7) (i.extractLsb' 0 5) rs1 rd (4#6) sc
  | .slti sc rd rs1 i => wordFrame (i.extractLsb' 5 7) (i.extractLsb' 0 5) rs1 rd (5#6) sc
  | .slli sc rd rs1 h => wordFrame (0#6 ++ h.extractLsb' 5 1 : BitVec 7) (h.extractLsb' 0 5) rs1 rd (6#6) sc
  | .srli sc rd rs1 h => wordFrame (1#6 ++ h.extractLsb' 5 1 : BitVec 7) (h.extractLsb' 0 5) rs1 rd (6#6) sc
  | .srai sc rd rs1 h => wordFrame (2#6 ++ h.extractLsb' 5 1 : BitVec 7) (h.extractLsb' 0 5) rs1 rd (6#6) sc
  | .bfx sc rd rs1 p l => wordFrame (p ++ l.extractLsb' 5 1 : BitVec 7) (l.extractLsb' 0 5) rs1 rd (7#6) sc
  | .bfi sc rd rs1 p l => wordFrame (p ++ l.extractLsb' 5 1 : BitVec 7) (l.extractLsb' 0 5) rs1 rd (8#6) sc
  | .lui sc rd i => wordFrame (i.extractLsb' 10 7) (i.extractLsb' 5 5) (i.extractLsb' 0 5) rd (9#6) sc
  | .auipc sc rd i => wordFrame (i.extractLsb' 10 7) (i.extractLsb' 5 5) (i.extractLsb' 0 5) rd (10#6) sc
  | .jal sc rd o => wordFrame (o.extractLsb' 10 7) (o.extractLsb' 5 5) (o.extractLsb' 0 5) rd (11#6) sc
  | .jalr sc rd rs1 i => wordFrame (i.extractLsb' 5 7) (i.extractLsb' 0 5) rs1 rd (12#6) sc
  | .beq sc rs1 rs2 o => wordFrame (o.extractLsb' 4 7) rs2 rs1 (o.extractLsb' 0 4 ++ 0#1 : BitVec 5) (13#6) sc
  | .bne sc rs1 rs2 o => wordFrame (o.extractLsb' 4 7) rs2 rs1 (o.extractLsb' 0 4 ++ 1#1 : BitVec 5) (13#6) sc
  | .blt sc rs1 rs2 o => wordFrame (o.extractLsb' 4 7) rs2 rs1 (o.extractLsb' 0 4 ++ 0#1 : BitVec 5) (14#6) sc
  | .bge sc rs1 rs2 o => wordFrame (o.extractLsb' 4 7) rs2 rs1 (o.extractLsb' 0 4 ++ 1#1 : BitVec 5) (14#6) sc
  | .bltn sc rs1 rs2 o => wordFrame (o.extractLsb' 4 7) rs2 rs1 (o.extractLsb' 0 4 ++ 0#1 : BitVec 5) (15#6) sc
  | .bgen sc rs1 rs2 o => wordFrame (o.extractLsb' 4 7) rs2 rs1 (o.extractLsb' 0 4 ++ 1#1 : BitVec 5) (15#6) sc
  | .ld sc rd rs1 o w => wordFrame (o.extractLsb' 1 7) (o.extractLsb' 0 1 ++ 0#1 ++ w : BitVec 5) rs1 rd (16#6) sc
  | .ldScoped sc rd rs1 o y q p w => wordFrame (o ++ y ++ q ++ p.extractLsb' 1 2 : BitVec 7) (p.extractLsb' 0 1 ++ 1#1 ++ w : BitVec 5) rs1 rd (16#6) sc
  | .st sc rs1 rs2 o w => wordFrame (o.extractLsb' 3 6 ++ 0#1 : BitVec 7) rs2 rs1 (o.extractLsb' 0 3 ++ w : BitVec 5) (17#6) sc
  | .stScoped sc rs1 rs2 o r p w => wordFrame (o ++ r ++ 1#1 : BitVec 7) rs2 rs1 (p ++ w : BitVec 5) (17#6) sc
  | .amoadd32 sc rd rs1 rs2 p r q => wordFrame (0#4 ++ p ++ r : BitVec 7) rs2 rs1 rd (9#5 ++ q : BitVec 6) sc
  | .amoadd64 sc rd rs1 rs2 p r q => wordFrame (0#4 ++ p ++ r : BitVec 7) rs2 rs1 rd (10#5 ++ q : BitVec 6) sc
  | .amoaddSy sc rd rs1 rs2 p r q => wordFrame (0#4 ++ p ++ r : BitVec 7) rs2 rs1 rd (11#5 ++ q : BitVec 6) sc
  | .amoand32 sc rd rs1 rs2 p r q => wordFrame (1#4 ++ p ++ r : BitVec 7) rs2 rs1 rd (9#5 ++ q : BitVec 6) sc
  | .amoand64 sc rd rs1 rs2 p r q => wordFrame (1#4 ++ p ++ r : BitVec 7) rs2 rs1 rd (10#5 ++ q : BitVec 6) sc
  | .amoandSy sc rd rs1 rs2 p r q => wordFrame (1#4 ++ p ++ r : BitVec 7) rs2 rs1 rd (11#5 ++ q : BitVec 6) sc
  | .amoor32 sc rd rs1 rs2 p r q => wordFrame (2#4 ++ p ++ r : BitVec 7) rs2 rs1 rd (9#5 ++ q : BitVec 6) sc
  | .amoor64 sc rd rs1 rs2 p r q => wordFrame (2#4 ++ p ++ r : BitVec 7) rs2 rs1 rd (10#5 ++ q : BitVec 6) sc
  | .amoorSy sc rd rs1 rs2 p r q => wordFrame (2#4 ++ p ++ r : BitVec 7) rs2 rs1 rd (11#5 ++ q : BitVec 6) sc
  | .amoxor32 sc rd rs1 rs2 p r q => wordFrame (3#4 ++ p ++ r : BitVec 7) rs2 rs1 rd (9#5 ++ q : BitVec 6) sc
  | .amoxor64 sc rd rs1 rs2 p r q => wordFrame (3#4 ++ p ++ r : BitVec 7) rs2 rs1 rd (10#5 ++ q : BitVec 6) sc
  | .amoxorSy sc rd rs1 rs2 p r q => wordFrame (3#4 ++ p ++ r : BitVec 7) rs2 rs1 rd (11#5 ++ q : BitVec 6) sc
  | .amomin32 sc rd rs1 rs2 p r q => wordFrame (4#4 ++ p ++ r : BitVec 7) rs2 rs1 rd (9#5 ++ q : BitVec 6) sc
  | .amomin64 sc rd rs1 rs2 p r q => wordFrame (4#4 ++ p ++ r : BitVec 7) rs2 rs1 rd (10#5 ++ q : BitVec 6) sc
  | .amominSy sc rd rs1 rs2 p r q => wordFrame (4#4 ++ p ++ r : BitVec 7) rs2 rs1 rd (11#5 ++ q : BitVec 6) sc
  | .amomax32 sc rd rs1 rs2 p r q => wordFrame (5#4 ++ p ++ r : BitVec 7) rs2 rs1 rd (9#5 ++ q : BitVec 6) sc
  | .amomax64 sc rd rs1 rs2 p r q => wordFrame (5#4 ++ p ++ r : BitVec 7) rs2 rs1 rd (10#5 ++ q : BitVec 6) sc
  | .amomaxSy sc rd rs1 rs2 p r q => wordFrame (5#4 ++ p ++ r : BitVec 7) rs2 rs1 rd (11#5 ++ q : BitVec 6) sc
  | .amominn32 sc rd rs1 rs2 p r q => wordFrame (6#4 ++ p ++ r : BitVec 7) rs2 rs1 rd (9#5 ++ q : BitVec 6) sc
  | .amominn64 sc rd rs1 rs2 p r q => wordFrame (6#4 ++ p ++ r : BitVec 7) rs2 rs1 rd (10#5 ++ q : BitVec 6) sc
  | .amominnSy sc rd rs1 rs2 p r q => wordFrame (6#4 ++ p ++ r : BitVec 7) rs2 rs1 rd (11#5 ++ q : BitVec 6) sc
  | .amomaxn32 sc rd rs1 rs2 p r q => wordFrame (7#4 ++ p ++ r : BitVec 7) rs2 rs1 rd (9#5 ++ q : BitVec 6) sc
  | .amomaxn64 sc rd rs1 rs2 p r q => wordFrame (7#4 ++ p ++ r : BitVec 7) rs2 rs1 rd (10#5 ++ q : BitVec 6) sc
  | .amomaxnSy sc rd rs1 rs2 p r q => wordFrame (7#4 ++ p ++ r : BitVec 7) rs2 rs1 rd (11#5 ++ q : BitVec 6) sc
  | .amoswap32 sc rd rs1 rs2 p r q => wordFrame (8#4 ++ p ++ r : BitVec 7) rs2 rs1 rd (9#5 ++ q : BitVec 6) sc
  | .amoswap64 sc rd rs1 rs2 p r q => wordFrame (8#4 ++ p ++ r : BitVec 7) rs2 rs1 rd (10#5 ++ q : BitVec 6) sc
  | .amoswapSy sc rd rs1 rs2 p r q => wordFrame (8#4 ++ p ++ r : BitVec 7) rs2 rs1 rd (11#5 ++ q : BitVec 6) sc
  | .amocas32 sc rd rs1 rs2 p r q => wordFrame (9#4 ++ p ++ r : BitVec 7) rs2 rs1 rd (9#5 ++ q : BitVec 6) sc
  | .amocas64 sc rd rs1 rs2 p r q => wordFrame (9#4 ++ p ++ r : BitVec 7) rs2 rs1 rd (10#5 ++ q : BitVec 6) sc
  | .amocasSy sc rd rs1 rs2 p r q => wordFrame (9#4 ++ p ++ r : BitVec 7) rs2 rs1 rd (11#5 ++ q : BitVec 6) sc
  | .amofadd sc rd rs1 rs2 p r q => wordFrame (10#4 ++ p ++ r : BitVec 7) rs2 rs1 rd (9#5 ++ q : BitVec 6) sc
  | .fadd sc rd rs1 rs2 f m => wordFrame (f ++ m ++ 0#2 : BitVec 7) rs2 rs1 rd (24#6) sc
  | .fsub sc rd rs1 rs2 f m => wordFrame (f ++ m ++ 1#2 : BitVec 7) rs2 rs1 rd (24#6) sc
  | .fmul sc rd rs1 rs2 f m => wordFrame (f ++ m ++ 2#2 : BitVec 7) rs2 rs1 rd (24#6) sc
  | .fdiv sc rd rs1 rs2 f m => wordFrame (f ++ m ++ 3#2 : BitVec 7) rs2 rs1 rd (24#6) sc
  | .fma sc rd rs1 rs2 f e => wordFrame (f ++ e : BitVec 7) rs2 rs1 rd (25#6) sc
  | .fsqrt sc rd rs1 f m => wordFrame (f ++ m ++ 0#2 : BitVec 7) (0#5) rs1 rd (26#6) sc
  | .fcvtTo sc rd rs1 f m k => wordFrame (f ++ m ++ 1#2 : BitVec 7) k rs1 rd (26#6) sc
  | .fcvtFrom sc rd rs1 f m k => wordFrame (f ++ m ++ 2#2 : BitVec 7) k rs1 rd (26#6) sc
  | .fmin sc rd rs1 rs2 f => wordFrame (f ++ 0#5 : BitVec 7) rs2 rs1 rd (27#6) sc
  | .fmax sc rd rs1 rs2 f => wordFrame (f ++ 1#5 : BitVec 7) rs2 rs1 rd (27#6) sc
  | .fcmpEq sc rd rs1 rs2 f => wordFrame (f ++ 2#5 : BitVec 7) rs2 rs1 rd (27#6) sc
  | .fcmpLt sc rd rs1 rs2 f => wordFrame (f ++ 3#5 : BitVec 7) rs2 rs1 rd (27#6) sc
  | .fcmpLe sc rd rs1 rs2 f => wordFrame (f ++ 4#5 : BitVec 7) rs2 rs1 rd (27#6) sc
  | .fsgn sc rd rs1 rs2 f => wordFrame (f ++ 5#5 : BitVec 7) rs2 rs1 rd (27#6) sc
  | .fsgnN sc rd rs1 rs2 f => wordFrame (f ++ 6#5 : BitVec 7) rs2 rs1 rd (27#6) sc
  | .fsgnX sc rd rs1 rs2 f => wordFrame (f ++ 7#5 : BitVec 7) rs2 rs1 rd (27#6) sc
  | .fclass sc rd rs1 f => wordFrame (f ++ 8#5 : BitVec 7) (0#5) rs1 rd (27#6) sc
  | .csrr sc rd i => wordFrame (i.extractLsb' 5 7) (i.extractLsb' 0 5) (0#5) rd (28#6) sc
  | .csrw sc rs1 i => wordFrame (i.extractLsb' 5 7) (i.extractLsb' 0 5) rs1 (0#5) (29#6) sc
  | .csrs sc rs1 i => wordFrame (i.extractLsb' 5 7) (i.extractLsb' 0 5) rs1 (1#5) (29#6) sc
  | .csrc sc rs1 i => wordFrame (i.extractLsb' 5 7) (i.extractLsb' 0 5) rs1 (2#5) (29#6) sc
  | .ecall sc => wordFrame (0#7) (0#5) (0#5) (0#5) (30#6) sc
  | .ebreak sc => wordFrame (1#7) (0#5) (0#5) (0#5) (30#6) sc
  | .eret sc => wordFrame (2#7) (0#5) (0#5) (0#5) (30#6) sc
  | .wfe sc rd rs1 => wordFrame (3#7) (0#5) rs1 rd (30#6) sc
  | .symq sc rd n => wordFrame (8#7) (0#5) n rd (30#6) sc
  | .symwait sc rs1 => wordFrame (9#7) (0#5) rs1 (0#5) (30#6) sc
  | .snap sc rd => wordFrame (16#7) (0#5) (0#5) rd (30#6) sc
  | .snapq sc rd rs1 => wordFrame (17#7) (0#5) rs1 rd (30#6) sc
  | .tsubmit sc rd rs1 rs2 => wordFrame (24#7) rs2 rs1 rd (30#6) sc
  | .tdone sc => wordFrame (25#7) (0#5) (0#5) (0#5) (30#6) sc
  | .lkline sc rd rs1 => wordFrame (32#7) (0#5) rs1 rd (30#6) sc
  | .ulkline sc rd rs1 => wordFrame (33#7) (0#5) rs1 rd (30#6) sc
  | .vsetvl sc rd rs1 rs2 => wordFrame (48#7) rs2 rs1 rd (30#6) sc
  | .vsetdim sc rd rs1 rs2 e => wordFrame (12#5 ++ e : BitVec 7) rs2 rs1 rd (30#6) sc
  | .vsetvli sc rd rs1 l s => wordFrame (1#1 ++ l ++ s : BitVec 7) (0#5) rs1 rd (30#6) sc
  | .qfetch sc rd rs1 => wordFrame (0#7) (0#5) rs1 rd (31#6) sc
  | .swait sc rd rs1 rs2 => wordFrame (1#7) rs2 rs1 rd (31#6) sc
  | .dispatch sc rd rs1 rs2 => wordFrame (2#7) rs2 rs1 rd (31#6) sc
  | .vadd sc rd rs1 rs2 m g => wordFrame (0#4 ++ m : BitVec 7) rs2 rs1 rd (8#4 ++ g : BitVec 6) sc
  | .vsub sc rd rs1 rs2 m g => wordFrame (1#4 ++ m : BitVec 7) rs2 rs1 rd (8#4 ++ g : BitVec 6) sc
  | .vrsub sc rd rs1 rs2 m g => wordFrame (2#4 ++ m : BitVec 7) rs2 rs1 rd (8#4 ++ g : BitVec 6) sc
  | .vmul sc rd rs1 rs2 m g => wordFrame (3#4 ++ m : BitVec 7) rs2 rs1 rd (8#4 ++ g : BitVec 6) sc
  | .vmacc sc rd rs1 rs2 m g => wordFrame (4#4 ++ m : BitVec 7) rs2 rs1 rd (8#4 ++ g : BitVec 6) sc
  | .vnmsac sc rd rs1 rs2 m g => wordFrame (5#4 ++ m : BitVec 7) rs2 rs1 rd (8#4 ++ g : BitVec 6) sc
  | .vand sc rd rs1 rs2 m g => wordFrame (6#4 ++ m : BitVec 7) rs2 rs1 rd (8#4 ++ g : BitVec 6) sc
  | .vor sc rd rs1 rs2 m g => wordFrame (7#4 ++ m : BitVec 7) rs2 rs1 rd (8#4 ++ g : BitVec 6) sc
  | .vxor sc rd rs1 rs2 m g => wordFrame (8#4 ++ m : BitVec 7) rs2 rs1 rd (8#4 ++ g : BitVec 6) sc
  | .vsll sc rd rs1 rs2 m g => wordFrame (9#4 ++ m : BitVec 7) rs2 rs1 rd (8#4 ++ g : BitVec 6) sc
  | .vsrl sc rd rs1 rs2 m g => wordFrame (10#4 ++ m : BitVec 7) rs2 rs1 rd (8#4 ++ g : BitVec 6) sc
  | .vsra sc rd rs1 rs2 m g => wordFrame (11#4 ++ m : BitVec 7) rs2 rs1 rd (8#4 ++ g : BitVec 6) sc
  | .vmerge sc rd rs1 rs2 m g => wordFrame (12#4 ++ m : BitVec 7) rs2 rs1 rd (8#4 ++ g : BitVec 6) sc
  | .vmv sc rd rs1 m g => wordFrame (13#4 ++ m : BitVec 7) (0#5) rs1 rd (8#4 ++ g : BitVec 6) sc
  | .vnsra sc rd rs1 rs2 m g => wordFrame (14#4 ++ m : BitVec 7) rs2 rs1 rd (8#4 ++ g : BitVec 6) sc
  | .vaddCh sc rd rs1 m g => wordFrame (15#4 ++ m : BitVec 7) (0#5) rs1 rd (8#4 ++ g : BitVec 6) sc
  | .vmulh sc rd rs1 rs2 u m g => wordFrame (u ++ 0#3 ++ m : BitVec 7) rs2 rs1 rd (4#3 ++ g : BitVec 6) sc
  | .vdiv sc rd rs1 rs2 u m g => wordFrame (u ++ 1#3 ++ m : BitVec 7) rs2 rs1 rd (4#3 ++ g : BitVec 6) sc
  | .vrem sc rd rs1 rs2 u m g => wordFrame (u ++ 2#3 ++ m : BitVec 7) rs2 rs1 rd (4#3 ++ g : BitVec 6) sc
  | .vmin sc rd rs1 rs2 u m g => wordFrame (u ++ 3#3 ++ m : BitVec 7) rs2 rs1 rd (4#3 ++ g : BitVec 6) sc
  | .vmax sc rd rs1 rs2 u m g => wordFrame (u ++ 4#3 ++ m : BitVec 7) rs2 rs1 rd (4#3 ++ g : BitVec 6) sc
  | .vsadd sc rd rs1 rs2 u m g => wordFrame (u ++ 5#3 ++ m : BitVec 7) rs2 rs1 rd (4#3 ++ g : BitVec 6) sc
  | .vssub sc rd rs1 rs2 u m g => wordFrame (u ++ 6#3 ++ m : BitVec 7) rs2 rs1 rd (4#3 ++ g : BitVec 6) sc
  | .vclamp sc rd rs1 rs2 u m g => wordFrame (u ++ 7#3 ++ m : BitVec 7) rs2 rs1 rd (4#3 ++ g : BitVec 6) sc
  | .vfadd sc rd rs1 rs2 m g => wordFrame (0#4 ++ m : BitVec 7) rs2 rs1 rd (19#5 ++ g : BitVec 6) sc
  | .vfsub sc rd rs1 rs2 m g => wordFrame (1#4 ++ m : BitVec 7) rs2 rs1 rd (19#5 ++ g : BitVec 6) sc
  | .vfmul sc rd rs1 rs2 m g => wordFrame (2#4 ++ m : BitVec 7) rs2 rs1 rd (19#5 ++ g : BitVec 6) sc
  | .vfdiv sc rd rs1 rs2 m g => wordFrame (3#4 ++ m : BitVec 7) rs2 rs1 rd (19#5 ++ g : BitVec 6) sc
  | .vfma sc rd rs1 rs2 m g => wordFrame (4#4 ++ m : BitVec 7) rs2 rs1 rd (19#5 ++ g : BitVec 6) sc
  | .vfnma sc rd rs1 rs2 m g => wordFrame (5#4 ++ m : BitVec 7) rs2 rs1 rd (19#5 ++ g : BitVec 6) sc
  | .vfmin sc rd rs1 rs2 m g => wordFrame (6#4 ++ m : BitVec 7) rs2 rs1 rd (19#5 ++ g : BitVec 6) sc
  | .vfmax sc rd rs1 rs2 m g => wordFrame (7#4 ++ m : BitVec 7) rs2 rs1 rd (19#5 ++ g : BitVec 6) sc
  | .vfcmpEq sc rd rs1 rs2 m g => wordFrame (8#4 ++ m : BitVec 7) rs2 rs1 rd (19#5 ++ g : BitVec 6) sc
  | .vfcmpLt sc rd rs1 rs2 m g => wordFrame (9#4 ++ m : BitVec 7) rs2 rs1 rd (19#5 ++ g : BitVec 6) sc
  | .vfcmpLe sc rd rs1 rs2 m g => wordFrame (10#4 ++ m : BitVec 7) rs2 rs1 rd (19#5 ++ g : BitVec 6) sc
  | .vfaddCh sc rd rs1 m g => wordFrame (12#4 ++ m : BitVec 7) (0#5) rs1 rd (19#5 ++ g : BitVec 6) sc
  | .vfsqrt sc rd rs2 m => wordFrame (11#4 ++ m : BitVec 7) rs2 (0#5) rd (38#6) sc
  | .vfrsqrt sc rd rs2 m => wordFrame (11#4 ++ m : BitVec 7) rs2 (1#5) rd (38#6) sc
  | .vfexp2 sc rd rs2 m => wordFrame (11#4 ++ m : BitVec 7) rs2 (2#5) rd (38#6) sc
  | .vflog2 sc rd rs2 m => wordFrame (11#4 ++ m : BitVec 7) rs2 (3#5) rd (38#6) sc
  | .vfclass sc rd rs2 m => wordFrame (11#4 ++ m : BitVec 7) rs2 (4#5) rd (38#6) sc
  | .vfaddBf16 sc rd rs1 rs2 m g => wordFrame (0#4 ++ m : BitVec 7) rs2 rs1 rd (20#5 ++ g : BitVec 6) sc
  | .vfsubBf16 sc rd rs1 rs2 m g => wordFrame (1#4 ++ m : BitVec 7) rs2 rs1 rd (20#5 ++ g : BitVec 6) sc
  | .vfmulBf16 sc rd rs1 rs2 m g => wordFrame (2#4 ++ m : BitVec 7) rs2 rs1 rd (20#5 ++ g : BitVec 6) sc
  | .vfdivBf16 sc rd rs1 rs2 m g => wordFrame (3#4 ++ m : BitVec 7) rs2 rs1 rd (20#5 ++ g : BitVec 6) sc
  | .vfmaBf16 sc rd rs1 rs2 m g => wordFrame (4#4 ++ m : BitVec 7) rs2 rs1 rd (20#5 ++ g : BitVec 6) sc
  | .vfnmaBf16 sc rd rs1 rs2 m g => wordFrame (5#4 ++ m : BitVec 7) rs2 rs1 rd (20#5 ++ g : BitVec 6) sc
  | .vfminBf16 sc rd rs1 rs2 m g => wordFrame (6#4 ++ m : BitVec 7) rs2 rs1 rd (20#5 ++ g : BitVec 6) sc
  | .vfmaxBf16 sc rd rs1 rs2 m g => wordFrame (7#4 ++ m : BitVec 7) rs2 rs1 rd (20#5 ++ g : BitVec 6) sc
  | .vfcmpEqBf16 sc rd rs1 rs2 m g => wordFrame (8#4 ++ m : BitVec 7) rs2 rs1 rd (20#5 ++ g : BitVec 6) sc
  | .vfcmpLtBf16 sc rd rs1 rs2 m g => wordFrame (9#4 ++ m : BitVec 7) rs2 rs1 rd (20#5 ++ g : BitVec 6) sc
  | .vfcmpLeBf16 sc rd rs1 rs2 m g => wordFrame (10#4 ++ m : BitVec 7) rs2 rs1 rd (20#5 ++ g : BitVec 6) sc
  | .vfaddChBf16 sc rd rs1 m g => wordFrame (12#4 ++ m : BitVec 7) (0#5) rs1 rd (20#5 ++ g : BitVec 6) sc
  | .vfsqrtBf16 sc rd rs2 m => wordFrame (11#4 ++ m : BitVec 7) rs2 (0#5) rd (40#6) sc
  | .vfrsqrtBf16 sc rd rs2 m => wordFrame (11#4 ++ m : BitVec 7) rs2 (1#5) rd (40#6) sc
  | .vfexp2Bf16 sc rd rs2 m => wordFrame (11#4 ++ m : BitVec 7) rs2 (2#5) rd (40#6) sc
  | .vflog2Bf16 sc rd rs2 m => wordFrame (11#4 ++ m : BitVec 7) rs2 (3#5) rd (40#6) sc
  | .vfclassBf16 sc rd rs2 m => wordFrame (11#4 ++ m : BitVec 7) rs2 (4#5) rd (40#6) sc
  | .vfcvt sc rd rs2 m s k => wordFrame (k.extractLsb' 0 4 ++ m : BitVec 7) rs2 s rd (21#5 ++ k.extractLsb' 4 1 : BitVec 6) sc
  | .vcmpEq sc rd rs1 rs2 u m => wordFrame (u ++ 0#3 ++ m : BitVec 7) rs2 rs1 rd (44#6) sc
  | .vcmpNe sc rd rs1 rs2 u m => wordFrame (u ++ 1#3 ++ m : BitVec 7) rs2 rs1 rd (44#6) sc
  | .vcmpLt sc rd rs1 rs2 u m => wordFrame (u ++ 2#3 ++ m : BitVec 7) rs2 rs1 rd (44#6) sc
  | .vcmpLe sc rd rs1 rs2 u m => wordFrame (u ++ 3#3 ++ m : BitVec 7) rs2 rs1 rd (44#6) sc
  | .vwadd sc rd rs1 rs2 u m => wordFrame (u ++ 4#3 ++ m : BitVec 7) rs2 rs1 rd (44#6) sc
  | .vwmul sc rd rs1 rs2 u m => wordFrame (u ++ 5#3 ++ m : BitVec 7) rs2 rs1 rd (44#6) sc
  | .vmaxCh sc rd rs1 u m => wordFrame (u ++ 6#3 ++ m : BitVec 7) (0#5) rs1 rd (44#6) sc
  | .vminCh sc rd rs1 u m => wordFrame (u ++ 7#3 ++ m : BitVec 7) (0#5) rs1 rd (44#6) sc
  | .vredsum sc rd rs1 rs2 m => wordFrame (0#4 ++ m : BitVec 7) rs2 rs1 rd (45#6) sc
  | .vredmax sc rd rs1 rs2 m => wordFrame (1#4 ++ m : BitVec 7) rs2 rs1 rd (45#6) sc
  | .vredmin sc rd rs1 rs2 m => wordFrame (2#4 ++ m : BitVec 7) rs2 rs1 rd (45#6) sc
  | .vredmaxN sc rd rs1 rs2 m => wordFrame (3#4 ++ m : BitVec 7) rs2 rs1 rd (45#6) sc
  | .vredminN sc rd rs1 rs2 m => wordFrame (4#4 ++ m : BitVec 7) rs2 rs1 rd (45#6) sc
  | .vfredsum sc rd rs1 rs2 m => wordFrame (5#4 ++ m : BitVec 7) rs2 rs1 rd (45#6) sc
  | .vfredmax sc rd rs1 rs2 m => wordFrame (6#4 ++ m : BitVec 7) rs2 rs1 rd (45#6) sc
  | .vfredsumBf16 sc rd rs1 rs2 m => wordFrame (7#4 ++ m : BitVec 7) rs2 rs1 rd (45#6) sc
  | .vfredmaxBf16 sc rd rs1 rs2 m => wordFrame (8#4 ++ m : BitVec 7) rs2 rs1 rd (45#6) sc
  | .vmxunp sc rd rs1 rs2 e m => wordFrame (0#1 ++ e ++ m : BitVec 7) rs2 rs1 rd (46#6) sc
  | .vmxpack sc rd rs1 rs2 e m => wordFrame (1#1 ++ e ++ m : BitVec 7) rs2 rs1 rd (46#6) sc
  | .vslideup sc rd rs1 rs2 m => wordFrame (0#4 ++ m : BitVec 7) rs2 rs1 rd (47#6) sc
  | .vslidedn sc rd rs1 rs2 m => wordFrame (1#4 ++ m : BitVec 7) rs2 rs1 rd (47#6) sc
  | .vrgather sc rd rs1 rs2 m => wordFrame (2#4 ++ m : BitVec 7) rs2 rs1 rd (47#6) sc
  | .vcompress sc rd rs1 rs2 => wordFrame (24#7) rs2 rs1 rd (47#6) sc
  | .viota sc rd rs1 m => wordFrame (4#4 ++ m : BitVec 7) (0#5) rs1 rd (47#6) sc
  | .vid sc rd m => wordFrame (5#4 ++ m : BitVec 7) (0#5) (0#5) rd (47#6) sc
  | .vbcast sc rd rs1 m => wordFrame (6#4 ++ m : BitVec 7) (0#5) rs1 rd (47#6) sc
  | .vext sc rd rs1 rs2 m => wordFrame (7#4 ++ m : BitVec 7) rs2 rs1 rd (47#6) sc
  | .vins sc rd rs1 rs2 m => wordFrame (8#4 ++ m : BitVec 7) rs2 rs1 rd (47#6) sc
  | .mand sc rd rs1 rs2 => wordFrame (72#7) rs2 rs1 rd (47#6) sc
  | .mor sc rd rs1 rs2 => wordFrame (80#7) rs2 rs1 rd (47#6) sc
  | .mxor sc rd rs1 rs2 => wordFrame (88#7) rs2 rs1 rd (47#6) sc
  | .mnot sc rd rs1 => wordFrame (96#7) (0#5) rs1 rd (47#6) sc
  | .mpopc sc rd rs1 => wordFrame (104#7) (0#5) rs1 rd (47#6) sc
  | .mfirst sc rd rs1 => wordFrame (112#7) (0#5) rs1 rd (47#6) sc
  | .vld sc rd rs1 p m => wordFrame (p ++ 0#1 ++ m : BitVec 7) (0#5) rs1 rd (48#6) sc
  | .vlds sc rd rs1 rs2 p m => wordFrame (p ++ 0#1 ++ m : BitVec 7) rs2 rs1 rd (49#6) sc
  | .vldx sc rd rs1 rs2 p m => wordFrame (p ++ 0#1 ++ m : BitVec 7) rs2 rs1 rd (50#6) sc
  | .vst sc rd rs1 p u m => wordFrame (p ++ u ++ m : BitVec 7) (0#5) rs1 rd (51#6) sc
  | .vsts sc rd rs1 rs2 p u m => wordFrame (p ++ u ++ m : BitVec 7) rs2 rs1 rd (52#6) sc
  | .vstx sc rd rs1 rs2 p u m => wordFrame (p ++ u ++ m : BitVec 7) rs2 rs1 rd (53#6) sc
  | .vldm sc rd rs1 p m => wordFrame (p ++ 0#1 ++ m : BitVec 7) (0#5) rs1 rd (54#6) sc
  | .vstm sc rd rs1 p u m => wordFrame (p ++ u ++ m : BitVec 7) (1#5) rs1 rd (54#6) sc
  | .vsld sc rd rs1 rs2 p => wordFrame (p ++ 0#4 : BitVec 7) rs2 rs1 rd (55#6) sc
  | .fence sc p => wordFrame (0#4 ++ p : BitVec 7) (0#5) (0#5) (0#5) (56#6) sc
  | .fenceAcq sc p => wordFrame (1#4 ++ p : BitVec 7) (0#5) (0#5) (0#5) (56#6) sc
  | .fenceRel sc p => wordFrame (2#4 ++ p : BitVec 7) (0#5) (0#5) (0#5) (56#6) sc
  | .fenceSv sc p => wordFrame (3#4 ++ p : BitVec 7) (0#5) (0#5) (0#5) (56#6) sc
  | .fenceVs sc p => wordFrame (4#4 ++ p : BitVec 7) (0#5) (0#5) (0#5) (56#6) sc
  | .fenceSe sc p => wordFrame (5#4 ++ p : BitVec 7) (0#5) (0#5) (0#5) (56#6) sc
  | .fenceVe sc p => wordFrame (6#4 ++ p : BitVec 7) (0#5) (0#5) (0#5) (56#6) sc
  | .binit sc rs1 rs2 p => wordFrame (0#4 ++ p : BitVec 7) rs2 rs1 (0#5) (57#6) sc
  | .barr sc rd rs1 rs2 p => wordFrame (1#4 ++ p : BitVec 7) rs2 rs1 rd (57#6) sc
  | .barb sc rd rs1 rs2 p => wordFrame (2#4 ++ p : BitVec 7) rs2 rs1 rd (57#6) sc
  | .bwait sc rd rs1 rs2 p => wordFrame (3#4 ++ p : BitVec 7) rs2 rs1 rd (57#6) sc
  | .btest sc rd rs1 rs2 p => wordFrame (4#4 ++ p : BitVec 7) rs2 rs1 rd (57#6) sc
  | .cbinit sc rs1 rs2 p => wordFrame (0#4 ++ p : BitVec 7) rs2 rs1 (0#5) (58#6) sc
  | .cbpush sc rd rs1 rs2 p => wordFrame (1#4 ++ p : BitVec 7) rs2 rs1 rd (58#6) sc
  | .cbpop sc rd rs1 rs2 p => wordFrame (2#4 ++ p : BitVec 7) rs2 rs1 rd (58#6) sc
  | .cbwait sc rd rs1 rs2 p => wordFrame (3#4 ++ p : BitVec 7) rs2 rs1 rd (58#6) sc
  | .srcfg sc rd rs1 rs2 => wordFrame (32#7) rs2 rs1 rd (58#6) sc
  | .tshape sc rd rs1 => wordFrame (0#7) (0#5) rs1 rd (60#6) sc
  | .mldw sc rs1 rs2 o k => wordFrame (1#4 ++ o : BitVec 7) rs2 rs1 k (60#6) sc
  | .mmaz sc n => wordFrame (16#7) (0#5) (0#5) n (60#6) sc
  | .msta sc rs1 rs2 o n => wordFrame (3#4 ++ o : BitVec 7) rs2 rs1 n (60#6) sc
  | .mchk sc rs2 n => wordFrame (32#7) rs2 (0#5) n (60#6) sc
  | .mver sc rs2 o n => wordFrame (5#4 ++ o : BitVec 7) rs2 (0#5) n (60#6) sc
  | .mstat sc rd n => wordFrame (48#7) (0#5) n rd (60#6) sc
  | .mrel sc rs1 => wordFrame (56#7) (0#5) rs1 (0#5) (60#6) sc
  | .mma sc rs1 rs2 o k => wordFrame (8#4 ++ o : BitVec 7) rs2 rs1 k (60#6) sc
  | .mmaMx sc rs1 rs2 o k => wordFrame (9#4 ++ o : BitVec 7) rs2 rs1 k (60#6) sc
  | .cpy sc rd rs1 rs2 q o => wordFrame (q ++ 0#3 ++ o : BitVec 7) rs2 rs1 rd (61#6) sc
  | .cpy2 sc rd rs1 rs2 q o => wordFrame (q ++ 1#3 ++ o : BitVec 7) rs2 rs1 rd (61#6) sc
  | .cpyg sc rd rs1 rs2 q o => wordFrame (q ++ 2#3 ++ o : BitVec 7) rs2 rs1 rd (61#6) sc
  | .cpyx sc rd rs1 => wordFrame (24#7) (0#5) rs1 rd (61#6) sc
  | .bkop sc rd rs1 rs2 o => wordFrame (0#4 ++ o : BitVec 7) rs2 rs1 rd (62#6) sc
  | .bklock sc rd rs1 rs2 => wordFrame (8#7) rs2 rs1 rd (62#6) sc
  | .bkunlock sc rd rs1 rs2 => wordFrame (16#7) rs2 rs1 rd (62#6) sc
  | .bkfence sc o => wordFrame (3#4 ++ o : BitVec 7) (0#5) (0#5) (0#5) (62#6) sc
  | .bkcopy sc rd rs1 rs2 o => wordFrame (4#4 ++ o : BitVec 7) rs2 rs1 rd (62#6) sc
  | .wickload sc rd rs1 rs2 => wordFrame (40#7) rs2 rs1 rd (62#6) sc
  | .bkcfg sc rd rs1 rs2 => wordFrame (48#7) rs2 rs1 rd (62#6) sc
  | _ => 0

end Sys2Proof
end

