-- ==== Sys2Proof/Config.lean ====
section
/-! DEFINITION. What the spec leaves open and no statement may rely on: each value is an opaque constant with no body, so a
statement that holds here holds whatever the value is. The log entry named with each says what the spec leaves open. -/
namespace Sys2Proof.Config

/-- Which of the agents that may act takes the next step, from the number of steps so far (log 3). -/
opaque turn : Nat → Nat
/-- The ticks that pass in a step (log 4). -/
opaque elapsed : Nat → Nat
/-- Core cycles that pass in a step (log 4). -/
opaque cycles : Nat → Nat
/-- What a byte of a bank that left cache mode holds, by its address and the transition (R58, log 8). -/
opaque sramJunk : Nat → Nat → Byte
/-- What a byte written under an old key reads as (R471, log 9). -/
opaque scrambled : Nat → Nat → Nat → Byte
/-- The way a full set gives up (R54, log 10). -/
opaque victim : Nat → Nat
/-- Whether a fetch uses a word the hart kept (R507, log 11). -/
opaque keepFetched : Nat → Bool
/-- The VA of a word that a hart fetches ahead (R507, log 11). -/
opaque prefetchVa : Nat → W64
/-- Which of the vector elements in no order is performed next (R156, R157, log 22). -/
opaque element : Nat → Nat
/-- What a T or DC row holds when an invocation starts (R88, log 12). -/
opaque computeRow : Nat → Nat → Row
/-- Whether a word with four or more bad symbols is detected as uncorrectable, by its error pattern (R102, log 13). -/
opaque eccDetected : Nat → Bool
/-- The bits by which a miscorrected word differs from what was written, by the offset of a byte in it and its error pattern (R102, log 13). -/
opaque badData : Nat → Nat → Byte
/-- The bits by which an erroneous word that is read without its code differs from what was written, likewise (R104, log 13). -/
opaque rawError : Nat → Nat → Byte
/-- The frame a retired page moves to, in 64 KiB units of stacked memory, if there is one (R46, log 14). -/
opaque freshFrame : Nat → Option Nat
/-- Whether the signatures of a firmware image verify (R475, log 15). -/
opaque imageGood : Nat → Bool
/-- The version of a firmware image (R475, log 15). -/
opaque imageVersion : Nat → Nat
/-- What an accumulator element holds after an aborted operation (R375, log 16). -/
opaque resetWord : Nat → BitVec 32
/-- The divider the firmware sets from a die's energy telemetry (R110, log 17). -/
opaque divider : Nat → Nat → BitVec 3
/-- The power figures of the last 10 µs (R478, log 17). -/
opaque power : Nat → BitVec 16
/-- What memory beyond the part answers: host, far tier and peers, by address and step (R19, R466, log 18). -/
opaque outside : Nat → Nat → Byte
/-- The contents of an SPDM response (R477, log 19). -/
opaque spdmReply : Nat → Nat → Nat
/-- A choice among outcomes the spec allows: which bay, core or save area the firmware picks, which block a drain takes next, what an
adopted poison or flag word holds, how a host line is held (logs 24, 25, 29, 32, 38, 39). -/
opaque freeWord : Nat → BitVec 64
/-- The bytes of bandwidth of a 10 µs interval that a metered share is a part of (R469, log 21). -/
opaque bandwidth : Nat → Nat
/-- Accumulator tiles of a bay that may be granted, beyond the eight that one hart may hold (R206, R305, log 23). -/
opaque bayTiles : Nat
/-- Mesh hops between two stacks (R78, log 20). -/
opaque meshHops : Nat → Nat → Nat

end Sys2Proof.Config
end

