-- ==== Sys2Proof/Machine/Sparse.lean ====
section
/-! DEFINITION. Finite maps in one canonical form, sorted sets of numbers, and the little-endian reading of bytes (R4). -/
namespace Sys2Proof.Machine

/-- The entry of key `a`, or the default. -/
def sget {α : Type} (d : α) : Sparse α → Nat → α
  | [], _ => d
  | (k, v) :: m, a => if a = k then v else sget d m a

/-- The map with an entry for key `a`, in its place. -/
def sins {α : Type} (a : Nat) (v : α) : Sparse α → Sparse α
  | [] => [(a, v)]
  | (k, w) :: m => if a < k then (a, v) :: (k, w) :: m else if a = k then (a, v) :: m else (k, w) :: sins a v m

/-- The map with key `a` at `v`; where `v` is the default no entry is kept. -/
def sset {α : Type} [DecidableEq α] (d : α) (m : Sparse α) (a : Nat) (v : α) : Sparse α :=
  if v = d then m.filter (fun e => decide (e.1 ≠ a)) else sins a v m

/-- Keys strictly rising above `lo`, and no entry equal to the default. -/
def swfFrom {α : Type} [DecidableEq α] (d : α) : Nat → Sparse α → Bool
  | _, [] => true
  | lo, (k, v) :: m => decide (lo ≤ k) && decide (v ≠ d) && swfFrom d (k + 1) m

/-- The canonical form of a finite map. -/
def swf {α : Type} [DecidableEq α] (d : α) (m : Sparse α) : Bool := swfFrom d 0 m

/-- Insertion into a sorted set. -/
def nins (a : Nat) : List Nat → List Nat
  | [] => [a]
  | k :: m => if a < k then a :: k :: m else if a = k then k :: m else k :: nins a m

/-- Removal from a sorted set. -/
def nrem (a : Nat) (m : List Nat) : List Nat := m.filter (fun k => decide (k ≠ a))

/-- Membership. -/
def nmem (a : Nat) (m : List Nat) : Bool := m.any (fun k => decide (k = a))

/-- What a byte of memory that nothing has written reads as. DESIGN CHOICE (log 2). -/
def unlistedByte : Byte := 0

/-- One byte of memory. -/
def memGet (m : Sparse Byte) (a : Nat) : Byte := sget unlistedByte m a

/-- Memory with one byte written. -/
def memSet (m : Sparse Byte) (a : Nat) (v : Byte) : Sparse Byte := sset unlistedByte m a v

/-- The canonical form of memory: addresses strictly rising, no entry equal to what an unlisted address reads as. -/
def Memory.wf (m : Sparse Byte) : Bool := swf unlistedByte m

/-- The number that `n` consecutive bytes from `a` hold, little-endian (R4). -/
def memRead (m : Sparse Byte) (a : Nat) : Nat → Nat
  | 0 => 0
  | n + 1 => (memGet m a).toNat + 256 * memRead m (a + 1) n

/-- `n` consecutive bytes from `a` written with the low bytes of `v`, little-endian (R4). -/
def memWrite (m : Sparse Byte) (a : Nat) : Nat → Nat → Sparse Byte
  | 0, _ => m
  | n + 1, v => memWrite (memSet m a (BitVec.ofNat 8 v)) (a + 1) n (v / 256)

/-- The bytes of a number, least significant first. -/
def bytesLE : Nat → Nat → List Byte
  | 0, _ => []
  | n + 1, v => BitVec.ofNat 8 v :: bytesLE n (v / 256)

/-- The number that a list of bytes holds, least significant first. -/
def ofBytesLE : List Byte → Nat
  | [] => 0
  | b :: bs => b.toNat + 256 * ofBytesLE bs

/-- The first `n` numbers from `a`. -/
def upFrom (a : Nat) : Nat → List Nat
  | 0 => []
  | n + 1 => a :: upFrom (a + 1) n

/-- The numbers below `n`, ascending. -/
def upto (n : Nat) : List Nat := upFrom 0 n

/-- Bits `hi:lo` of a number. -/
def bitsOf (v hi lo : Nat) : Nat := v / 2 ^ lo % 2 ^ (hi + 1 - lo)

/-- Bit `i` of a number. -/
def bitOf (v i : Nat) : Bool := decide (v / 2 ^ i % 2 = 1)

/-- 1 for true. -/
def b2n (b : Bool) : Nat := if b then 1 else 0

/-- Addition that stops at the largest value of the width (the saturating counters of R107, R431, R457, R473). -/
def satAdd {w : Nat} (x : BitVec w) (n : Nat) : BitVec w := BitVec.ofNat w (min (x.toNat + n) (2 ^ w - 1))

/-- The number of set bits (R21, R56, R268). -/
def popcount : Nat → Nat → Nat
  | 0, _ => 0
  | w + 1, v => v % 2 + popcount w (v / 2)

/-- The bytes of `w` with the bits of `m` taken from `v` (fields written one by one, R7). -/
def mergeMask {w : Nat} (old new mask : BitVec w) : BitVec w := (old &&& ~~~mask) ||| (new &&& mask)

/-- Round-up division. -/
def cdiv (a b : Nat) : Nat := (a + b - 1) / b

/-- A function applied to every entry of a register file. -/
def vmap {α β : Type} {n : Nat} (f : α → β) (v : Vector α n) : Vector β n := Vector.ofFn (fun i => f v[i])

/-- Replacement of the elements that satisfy `p`. -/
def modList {α : Type} (p : α → Bool) (f : α → α) (l : List α) : List α := l.map (fun a => if p a then f a else a)

end Sys2Proof.Machine
end

