-- ==== Sys2Proof/Machine/State.lean ====
section
/-! DEFINITION. The state of the part as plain data: every register, table, queue and record the spec names, its
value after reset, and the reasons a step may stop. A field's default is its value after reset. -/
namespace Sys2Proof.Machine

/-! ## Harts -/

/-- Privilege levels (R199); code 10 is reserved and no hart ever holds it. -/
inductive Level where
  | app | sup | mon
  deriving DecidableEq, Repr

/-- One step of an FP chain (R188, R215): operation 1 FADD, 2 FSUB, 3 FMUL, 4 FMA; the format code; the recorded
rounding mode; the position of the symbolic operand; the known operands. -/
structure ChainStep where
  op : Nat
  fmt : Nat
  rm : BitVec 3
  pos : Nat
  k1 : W64
  k2 : W64
  deriving DecidableEq, Repr

/-- What an `x` register holds (R187, R188, R192); `unknown` occurs in run-ahead only (R39); `late` waits for a queued vector instruction
(R184). -/
inductive XVal where
  | known (v : W64)
  | form (slot : Nat) (a b : W64)
  | chain (slot : Nat) (steps : List ChainStep)
  | poisoned (slot cause : Nat) (va : W64)
  | unknown
  | late (id : Nat)
  deriving DecidableEq, Repr

/-- Shape tags (R201). -/
inductive Tag where
  | U | A | G
  deriving DecidableEq, Repr

/-- A vector register (R201, R203, R445): `data` always holds the expanded elements; `base`, `stride` and `vsew` are the
compact state of tags U and A; `sy` is the symbolic flag with its slot and `a` term; `psn` the poisoned bits; `sypsn` the
fault of a poisoned symbol (R192); `unk` marks a value unknown in run-ahead (R39). -/
structure VReg where
  tag : Tag := .U
  vsew : BitVec 3 := 0
  base : W64 := 0
  stride : W64 := 0
  data : BitVec 4096 := 0
  sy : Option (Nat × W64) := none
  sypsn : Option (Nat × Nat × W64) := none
  psn : BitVec 4096 := 0
  unk : Bool := false
  deriving DecidableEq, Repr

/-- The descriptor of a symbol's producer (R215): `amo` is 0 for a load, else 1 + `op` (R256). -/
structure Producer where
  va : W64
  width : Nat
  sext : Bool
  acq : Bool
  rel : Bool
  scope : Nat
  amo : Nat
  opnd : W64
  cmp : W64
  deriving DecidableEq, Repr

/-- A symbol slot (R205). `req` is the request in flight. A held slot (R192) records the trap depth at which its fault
was delivered. -/
inductive Slot where
  | free
  | pending (p : Producer) (req : Nat)
  | poisoned (cause : Nat) (va : W64)
  | held (cause : Nat) (p : Producer) (delivered : Option Nat)
  | copyStatus (cnum : Nat)
  deriving DecidableEq, Repr

/-- The six CSRs of a trap level (R207, R211, R435). -/
structure TrapBank where
  ppl : BitVec 2 := 0
  ie : Bool := false
  pie : Bool := false
  vec : W64 := 0
  epc : W64 := 0
  cause : W64 := 0
  tval : W64 := 0
  scr : W64 := 0
  deriving DecidableEq, Repr

/-- An engine command held on symbols (R191, R215): its word, its command number and its operands, with the copies issued
before it (R164). -/
structure Held where
  id : Nat
  word : IWord
  cnum : Nat
  ops : List XVal
  older : List Nat
  tag : BitVec 32
  deriving DecidableEq, Repr

/-- One element of a queued vector access: its index, where it goes and, for a store, its value (R337). -/
structure VElem where
  idx : Nat
  va : W64
  ia : Nat
  attr : BitVec 2
  val : W64
  deriving DecidableEq, Repr

/-- An entry of the vector queue whose memory effects are still to be performed (R183, R185, R340): `tp` once its trap point
has passed, `free` where its elements have no order (R156, R157), `strict` where they keep the stream's order (R63, R159). `lines` are the
cache lines that an ordered store has written so far (R155); `late` names an instruction that has not executed yet, in `State.lates`;
`fence` marks a `fence.sv`, with the requests of the symbolic loads it waits for (R144, R172). -/
structure VQEntry where
  load : Bool
  vd : Nat
  sew : Nat
  bytes : Nat
  scope : Nat
  elems : List VElem
  free : Bool
  strict : Bool
  tp : Bool := false
  lines : List Nat := []
  late : Option Nat := none
  fence : Option (List Nat) := none
  deriving DecidableEq, Repr

/-- What a hart waits for (R298, R299, R302, R304, R351, R356, R357, R396); a deadline past the end of the time base is none. -/
inductive Wait where
  | bwait (rd : Reg) (va : W64) (p : BitVec 4) (scope : Nat) (deadline : Option W64)
  | cbwait (rd : Reg) (va : W64) (k : W64) (sel : Bool) (scope : Nat) (deadline : Option W64)
  | wfe (rd : Reg) (deadline : Option W64)
  | swait (rd : Reg) (mask : W64) (deadline : Option W64)
  | snap (rd : Reg)
  | srcfg (rd : Reg) (cluster bank : Nat)
  | wickload (rd : Reg) (code : W64) (slot : Nat) (dies : List Nat)
  | tdone
  deriving DecidableEq, Repr

/-- The pre-emption ladder on one hart (R424, R425): the rung, when it began, and the IA of the save area. -/
structure Preempt where
  rung : Nat
  since : W64
  save : Nat
  t1 : Nat
  t2 : Nat
  deriving DecidableEq, Repr

/-- A disagreement that the shadow execution of a vector element group will find (R332 to R335): the group, the lane, and
whether no two of the three results agree. -/
structure Upset where
  group : Nat
  lane : Nat
  hard : Bool
  deriving DecidableEq, Repr

/-- A hart: all that a program can observe or a context switch must carry (R199 to R213), with the queues of its two
streams. `hid` numbers an application hart, whichever core it is bound to (0 on a lamplighter hart, which uses no bay); `place` names the core: cluster × 256 + core for an application hart, 8192 + 4 × stack + i for
lamplighter hart i of a stack. `iw` is the word it executes (the trap value of R438). In run-ahead `mUnk`
marks unknown mask registers and `cUnk` unknown CSRs (bit 0 `vl` and `vtype`, bit 1 `dlen` and `dstr`, bit 2 `fflags`, `vresid` and
`vseed`); `upset` is what shadow execution will find next. `acqOn` holds the registers whose first blocking use is an acquire, with its scope (R166). `xdep` holds, for each general
register, the symbol slots whose producers its known value still depends on (bit i for slot i; R145, R187); `vdep` the same for the vector
registers together; `hdep` those of the branches and jumps taken so far. -/
structure Hart where
  hid : Nat := 0
  place : Nat := 8192
  lamp : Bool := true
  level : Level := .mon
  pc : W64 := 0
  iw : IWord := 0
  x : Vector XVal 32 := Vector.replicate 32 (.known 0)
  xBad : BitVec 32 := 0
  v : Vector VReg 32 := Vector.replicate 32 {}
  m : Vector (BitVec 16384) 8 := Vector.replicate 8 0
  mUnk : BitVec 8 := 0
  cUnk : BitVec 3 := 0
  upset : List Upset := []
  sym : Vector Slot 16 := Vector.replicate 16 .free
  held : List Held := []
  cmds : List Nat := []
  fflags : BitVec 7 := 0
  frm : BitVec 3 := 0
  fen : BitVec 7 := 0
  vstart : BitVec 14 := 0
  vresid : BitVec 32 := 0
  vseed : W64 := 0
  dlen : Vector (BitVec 16) 3 := Vector.replicate 3 0
  dstr : Vector W64 3 := Vector.replicate 3 0
  didx : Vector W64 3 := Vector.replicate 3 0
  tctl : BitVec 2 := 0
  vl : Nat := 0
  vsew : BitVec 3 := 0
  vlmul : BitVec 3 := 0
  vi : Bool := false
  vill : Bool := true
  vgrant : Nat := 1024
  tm : Nat := 0
  tn : Nat := 0
  tk : Nat := 0
  gen : BitVec 32 := 0
  ctxid : BitVec 16 := 0
  ctxKey : Nat := 65536
  vfid : BitVec 6 := 0
  nacc : BitVec 4 := 0
  bay : BitVec 6 := 0
  bv : Bool := false
  cycle : W64 := 0
  instret : W64 := 0
  sup : TrapBank := {}
  monb : TrapBank := {}
  fbbase : W64 := 0
  depth : Nat := 0
  hfirst : Bool := false
  latch : Bool := false
  irqs : List (Nat × W64) := []
  defer : List (Nat × BitVec 7 × Nat) := []
  wait : Option Wait := none
  vq : List VQEntry := []
  ibuf : List (Nat × IWord) := []
  acqOn : List (Nat × Nat) := []
  xdep : Vector (BitVec 16) 32 := Vector.replicate 32 0
  vdep : BitVec 16 := 0
  hdep : BitVec 16 := 0
  node : Option Nat := none
  cls : Nat := 0
  img : Nat := 0
  pre : Option Preempt := none
  prio : Nat := 0
  lastTick64 : W64 := 0
  deriving DecidableEq, Repr

/-- A record of a fault batch (R42). -/
structure BatchEntry where
  ia : Nat
  cause : Nat
  level : Nat
  kind : BitVec 5
  hits : Nat
  deriving DecidableEq, Repr

/-- A hart in run-ahead (R38, R39): its checkpoint, the units recorded, the trap value of the original fault, the values
that have arrived for symbols pending at the checkpoint, and the reason for which it has stopped while its record waits to be written. -/
structure RunAhead where
  place : Nat
  ck : Hart
  entries : List BatchEntry
  tval : W64
  arrived : List (Nat × W64)
  stop : Option Nat := none
  deriving DecidableEq, Repr

/-- A vector instruction that waits in the vector queue and has not executed (R183, R185, R189): its hart's place, its word, and the hart as
it was when the instruction entered the queue, with the operands it captured; the hart returns to it if the instruction traps. -/
structure Late where
  id : Nat
  place : Nat
  word : IWord
  ck : Hart
  deriving DecidableEq, Repr

/-- A context (R11, R61, R215): its VF, its 16 range registers, and the IA of its save area while it is saved. -/
structure Ctx where
  live : Bool := false
  vf : Nat := 0
  base : Vector (BitVec 32) 16 := Vector.replicate 16 0
  lim : Vector (BitVec 32) 16 := Vector.replicate 16 0
  off : Vector (BitVec 36) 16 := Vector.replicate 16 0
  ctl : Vector (BitVec 8) 16 := Vector.replicate 16 0
  deriving DecidableEq, Repr

/-- A context saved by pre-emption (R215, R216, R426): where, for which node, at which rung, the numbers of its held commands, and the
hart as it was saved, for what the save area has no place for. -/
structure Saved where
  ia : Nat
  ctxKey : Nat
  vf : Nat
  node : Option Nat
  rung : Nat
  ids : List (Nat × Nat) := []
  was : Hart := {}
  deriving DecidableEq, Repr

/-! ## Cluster SRAM and caches -/

/-- A line of a cluster cache (R49) or of the atomic engine's CAM (R70): 128 bytes, byte valid and dirty masks, the
generation of the dirty bytes, the bank that holds it, the context that locked it and the VF that last wrote it; `after` are the lines whose
dirty bytes reach their homes first, since an ordered vector store wrote them first (R155). -/
structure Line where
  line : Nat
  data : BitVec 1024
  valid : BitVec 128
  dirty : BitVec 128
  gen : BitVec 32
  bank : Nat
  lock : Option Nat
  vf : Nat := 0
  after : List Nat := []
  deriving DecidableEq, Repr

/-- A request queued at a cluster atomic engine: the port it came by and the request. -/
structure Ported where
  port : Nat
  req : Nat
  deriving DecidableEq, Repr

/-- A hot line of the atomic engine (R70): the line and its queue of at most four requests. -/
structure Cam where
  ln : Line
  queue : List Nat
  deriving DecidableEq, Repr

/-- A cluster SRAM bank (R55): 0 cache way, 1 scratchpad, 2 FIFO; the mode a running transition leads to. -/
structure Bank where
  mode : BitVec 2 := 0
  busy : Bool := false
  last : BitVec 3 := 0
  owned : Bool := false
  octx : BitVec 16 := 0
  target : BitVec 2 := 0
  epoch : Nat := 0
  deriving DecidableEq, Repr

/-- A VF's quota in a cluster (R56). -/
structure Quota where
  banks : BitVec 6 := 0
  lines : BitVec 16 := 0
  deriving DecidableEq, Repr

/-- A cluster: its banks, quotas, cache lines and atomic engine (R47 to R72). -/
structure Cluster where
  banks : Sparse Bank := []
  quota : Sparse Quota := []
  lines : List Line := []
  cam : List Cam := []
  ports : List Ported := []
  lastWin : Nat := 64
  deriving DecidableEq, Repr

/-! ## The home stack -/

/-- A cached translation (R29): the IA of its first unit, its size code (R32) and the leaf entry it was built from. -/
structure Trans where
  ia : Nat
  size : Nat
  pte : W64
  deriving DecidableEq, Repr

/-- An element of a walk batch (R30): the 64 KiB unit missed, and the request, or the unit `by_` of the part that waits with its access. -/
structure WalkElem where
  req : Nat
  unit : Nat
  by_ : Option Nat := none
  deriving DecidableEq, Repr

/-- A walk batch (R30): open while it gathers, then at level 2, 1 or 0. -/
structure Batch where
  openB : Bool
  level : Nat
  elems : List WalkElem
  deriving DecidableEq, Repr

/-- One `MIGCTL` register (R32, R44): the page, whether it is held or its hold waits, and drained. -/
structure Mig where
  held : Bool := false
  wanted : Bool := false
  drained : Bool := false
  size : BitVec 3 := 0
  ia : BitVec 36 := 0
  deriving DecidableEq, Repr

/-- A reliability log entry (R458). -/
structure LogEntry where
  tick : W64 := 0
  typ : BitVec 8 := 0
  unit : BitVec 8 := 0
  wher : BitVec 16 := 0
  detail : BitVec 32 := 0
  deriving DecidableEq, Repr

/-- A lamplighter mailbox (R432). -/
structure Mailbox where
  svc : BitVec 8 := 0
  rvf : BitVec 8 := 0
  done : Bool := false
  go : Bool := false
  arg0 : W64 := 0
  arg1 : W64 := 0
  arg2 : W64 := 0
  resp : W64 := 0
  deriving DecidableEq, Repr

/-- A Glowline port (R472, R473). `met` once it has exchanged part numbers since reset: its peer is then a part of the gang (R18, R24). -/
structure GlowPort where
  state : BitVec 2 := 0
  peer : BitVec 8 := 0
  pport : BitVec 6 := 0
  replay : BitVec 32 := 0
  fails : Nat := 0
  expect : Nat := 0
  met : Bool := false
  deriving DecidableEq, Repr

/-- A sender with unacknowledged entries (R423): its wait, and when it may resend. -/
structure Sender where
  naks : Nat := 0
  resendAt : W64 := 0
  waiting : Bool := false
  deriving DecidableEq, Repr

/-- A stack's base die: translation (R29 to R32), memory controller, vertical buses (the last winner of each, R76), generation unit, scheduling block,
lamplighter queues, mailboxes, reliability block, ports and firmware.
`heldBy` are the accesses held on held pages that have no request record (who makes each, and its 64 KiB unit; R45).
`hostLines` are the 64-byte IA lines that the host holds, with whether exclusively, oldest first; `biWait` those being taken back, with
whether for a write (R465). -/
structure Stack where
  trootV : Bool := false
  troot : BitVec 39 := 0
  tc : List Trans := []
  tec : List (Nat × W64) := []
  tcinvLast : W64 := 0
  tcinvQ : List W64 := []
  mig : Sparse Mig := []
  heldBy : List (Nat × Nat) := []
  retthr : BitVec 16 := 8
  batch : Option Batch := none
  missed : List WalkElem := []
  walked : List (Nat × Nat × Nat × Nat) := []
  corrFrames : Sparse Nat := []
  buses : Sparse Nat := []
  senders : Sparse Sender := []
  gsctlEn : Bool := false
  gsctlSeq : BitVec 4 := 0
  gsctlRsv : BitVec 8 := 16
  gsctlRtmo : BitVec 32 := 1000000
  gsres2 : BitVec 28 := 0
  gsda0 : BitVec 28 := 0
  gsda1 : BitVec 28 := 0
  t1 : BitVec 16 := 20
  t2 : BitVec 16 := 100
  glead : BitVec 12 := 50
  gmarg : BitVec 12 := 20
  bkoff : BitVec 8 := 64
  cewgt : BitVec 32 := 0x01020408
  cePtr : Sparse Nat := []
  nak : BitVec 32 := 0
  gabt : BitVec 16 := 0
  skip : BitVec 16 := 0
  resv : Option (Nat × Nat) := none
  drained : Nat := 0
  decs : List (Nat × Nat) := []
  inbox : List W64 := []
  compl : List W64 := []
  errq : List W64 := []
  boxes : Sparse Mailbox := []
  rasFdie : BitVec 16 := 0
  dthr : BitVec 8 := 1
  cthr : BitVec 32 := 1000000
  wdog : BitVec 16 := 1000
  logHead : BitVec 16 := 0
  logTail : BitVec 16 := 0
  logOvf : BitVec 16 := 0
  log : Sparse LogEntry := []
  rasdump : W64 := 0
  corr : BitVec 32 := 0
  mchk : BitVec 32 := 0
  hb : W64 := 0
  hbAt : Sparse W64 := []
  restarts : List W64 := []
  hostLines : List (Nat × Bool) := []
  biWait : List (Nat × Bool) := []
  uio : List Nat := []
  glPart : BitVec 8 := 0
  glTbm : Bool := false
  glow : Sparse GlowPort := []
  buckets : Sparse Nat := []
  retired : List Nat := []
  meshRetry : Nat := 0
  deriving DecidableEq, Repr

/-! ## The bank plane -/

/-- A row-lock (R98, R394): the bank, the page's subarray, the run, its holder; reserved until held; when it was taken;
the hart whose BKLOCK waits for it. -/
structure RowLock where
  id : Nat
  die : Nat
  bank : Nat
  sub : Nat
  row : Nat
  count : Nat
  ctx : Nat
  isHeld : Bool
  expired : Bool
  since : W64
  waiter : Option Nat
  deriving DecidableEq, Repr

/-- A normal access that waits at a bank of stacked DRAM (R97 to R99): who makes it, the key and length of its bytes, its context; `free` where
no lock holds it (preservation and drain, R98), `locked` where it met a lock, `served` the slots it has had, `here` while it asks. -/
structure SlotWait where
  unit : Nat
  cmd : Nat
  key : Nat
  len : Nat
  ctx : Nat
  free : Bool := false
  locked : Bool := false
  served : Nat := 0
  here : Bool := true
  deriving DecidableEq, Repr

/-- An engine's access longer than 128 bytes while banks compute (R97): its maker, its extent, whether it writes, the bytes that are done and
those read, each with its offset in its word where that is poisoned. -/
structure PartAcc where
  unit : Nat
  cmd : Nat
  ctx : Nat
  ia : Nat
  n : Nat
  wr : Bool
  done : Nat
  got : List (Byte × Option Nat)
  deriving DecidableEq, Repr

/-- A PIM DRAM die (R82, R91, R94, R107, R398); die d of stack s has key 16 s + d. `corrAt` holds the times of its corrections of the
last second (R453), `loading` the handler loads that wait (slot, hart, image), oldest first, `cpyAt` when each bank last received a CPYB
write (R105), `energy` the cycles of row operations since the last telemetry, and `lastEnergy` those of the interval before (R110). -/
structure Die where
  div : BitVec 3 := 0
  slotn : BitVec 6 := 4
  base : BitVec 9 := 128
  lkmax : BitVec 20 := 100000
  corr : BitVec 16 := 0
  uncorr : BitVec 16 := 0
  bhalt : BitVec 16 := 0
  lkexp : BitVec 16 := 0
  corrAt : List W64 := []
  slots : Sparse (List Micro) := []
  loading : List (Nat × Nat × List Micro) := []
  queue : List Nat := []
  counts : Sparse Nat := []
  cpyAt : Sparse W64 := []
  energy : Nat := 0
  lastEnergy : Nat := 0
  deriving DecidableEq, Repr

/-- The states of an invocation (R92, R94, R102, R105). -/
inductive InvState where
  | sent | queued | running | correcting | cpyWait | ended
  deriving DecidableEq, Repr

/-- An invocation of a bank handler on one subarray (R89 to R95, R389, R399 to R403); `waits` once its CPYB has had to wait for its
destination bank (R93, R105). -/
structure Inv where
  id : Nat
  cmd : Nat
  idx : Nat
  die : Nat
  bank : Nat
  sub : Nat
  ia : Nat
  ctx : Nat
  vf : Nat
  tag : BitVec 32
  h : Nat
  code : List Micro
  pc : Nat
  p : Vector (BitVec 10) 4
  b : Vector (BitVec 11) 4
  arg : BitVec 12
  loops : List (Nat × Nat)
  status : BitVec 12
  cycles : Nat
  corrections : Nat
  st : InvState
  ecode : BitVec 4
  errRow : BitVec 10
  t : Vector Row 6
  cpy : Option (Nat × Nat × Nat)
  waits : Bool := false
  deriving DecidableEq, Repr

/-- A bank command (R388 to R395): BKOP, or BKCOPY with the IAs of its pages and its rows. `word` is its status word once its
arrival is on its way. -/
structure BankCmd where
  id : Nat
  copy : Bool
  place : Option Nat
  cnum : Nat
  node : Option Nat
  ctx : Nat
  vf : Nat
  stack : Nat
  barrier : Option Nat
  rel : Bool
  total : Nat
  invs : List Nat
  dst : Nat
  src : Nat
  row : Nat
  drow : Nat
  count : Nat
  moved : Nat
  tag : BitVec 32
  code : BitVec 4
  cause : Nat
  ecode : BitVec 4
  errRow : BitVec 10
  pages : List Nat
  msg : W64
  probed : List (Nat × W64)
  word : W64 := 0
  sent : Bool := false
  deriving DecidableEq, Repr

/-! ## Matrix and copy engines -/

/-- A resident-slot descriptor of a Lantern bay (R366); `wby` is the hart whose layer-load last wrote it. -/
structure SlotDesc where
  valid : Bool := false
  fmt : Nat := 0
  k : Nat := 0
  n : Nat := 0
  mx : Bool := false
  units : Nat := 0
  wby : Nat := 0
  deriving DecidableEq, Repr

/-- An accumulator tile (R206, R236, R372, R376): its elements, the poisoned ones, the predictions while it is in checksum
mode, and the status word of its most recent operation. -/
structure Tile where
  elems : Sparse (BitVec 32) := []
  psn : List Nat := []
  chk : Bool := false
  pr : Sparse (BitVec 32) := []
  pcs : Sparse (BitVec 32) := []
  last : W64 := 0
  deriving DecidableEq, Repr

/-- The states of a matrix operation (R363, R374): waiting at the bay, moving its bytes, held in the quad's store hold,
deferred, ended. -/
inductive MOpState where
  | waiting | running | heldS | deferred | ended
  deriving DecidableEq, Repr

/-- A matrix operation (R359 to R376) with what it captured at issue: `hid` the hart that issued it, `sa` the scale bytes of A and `saBad` the poisoned ones
(R234, R236). `arr` its number in the order of arrival at its bay (0: not there yet), `rdy` an MMA's in the order of becoming ready (0: not
yet), `told` once its status word is written; with its position on the vertical bus, the beats still to cross (R370) and the
bytes or rows it has moved.
`bytes` and `bad` are what an MSTA has converted and its poisoned elements, or what an MMA has read; `held` marks an MSTA that was
held or deferred. -/
structure MOp where
  id : Nat
  hid : Nat := 0
  place : Nat
  stack : Nat
  bay : Nat
  cnum : Nat
  sub : Nat
  acc : Nat
  fmt : Nat
  slot : Nat
  units : Nat
  mx : Bool
  m : Nat
  n : Nat
  k : Nat
  tctl : BitVec 2
  ia : Nat
  pitch : Nat
  ofmt : Nat
  on : Bool
  tol : Nat
  sa : List Byte
  saBad : List Nat
  ctx : Nat
  vf : Nat
  lvl : Level
  barrier : Option Nat
  rel : Bool
  tag : BitVec 32
  st : MOpState
  arr : Nat := 0
  pos : Nat := 8
  beats : Nat := 0
  prog : Nat := 0
  bytes : List Byte := []
  bad : List Nat := []
  held : Bool := false
  word : W64 := 0
  rdy : Nat := 0
  told : Bool := false
  sent : Bool := false
  deriving DecidableEq, Repr

/-- The states of a copy (R347, R380, R381). -/
inductive CopyState where
  | sent | waiting | moving | finishing | ended
  deriving DecidableEq, Repr

/-- A copy (R377 to R383): its segments (destination, source, length); its chunks, each a list of such pieces; how many are
issued, which are done and how many failed; what it armed and reported to its barrier, and its outcome. `sent` once its arrival
is on its way. `kind` is 0 CPY, 1 CPY2, 2 CPYG; `arr` its number in the order of acceptance (0: not accepted yet); a buffer end
is a bank with its record size (R380). -/
structure Copy where
  id : Nat
  place : Option Nat
  cnum : Nat
  slot : Option Nat
  node : Option Nat
  ctx : Nat
  vf : Nat
  stack : Nat
  lvl : Level
  segs : List (Nat × Nat × Nat)
  total : Nat
  barrier : Option Nat
  cls : Nat
  rel : Bool
  ordered : Bool
  older : List Nat
  tag : BitVec 32
  st : CopyState
  chunks : List (List (Nat × Nat × Nat))
  issued : Nat
  done : List Nat
  failed : Nat := 0
  armed : Bool
  taken : Nat
  moved : Nat
  pushBank : Option (Nat × Nat)
  popBank : Option (Nat × Nat)
  code : BitVec 4
  cause : Nat
  psn : Bool
  saved : Option Nat
  sent : Bool := false
  kind : Nat := 0
  arr : Nat := 0
  deriving DecidableEq, Repr

/-- A completion signal on its way to a barrier cell (R347): the cell's IA, the bytes not moved, the error flag, who sends
it with which tag, and the command that waits for it (0: none). -/
structure Signal where
  id : Nat
  ia : Nat
  d : Nat
  f : Bool
  lvl : Level
  vf : Nat
  ctx : Nat
  stack : Nat
  unit : Nat
  tag : BitVec 32
  owner : Nat
  deriving DecidableEq, Repr

/-! ## Requests, replicas, generations -/

/-- What a request does. -/
inductive ReqOp where
  | read | write | amo (op : Nat) (opnd cmp : W64)
  deriving DecidableEq, Repr

/-- Who made a request: a symbol's producer, the host, the home of a far-tier line, or a peer part through a Glowline port (R18). -/
inductive ReqSrc where
  | sym (place slot : Nat)
  | host
  | far (line : Nat)
  | peer (port : Nat)
  deriving DecidableEq, Repr

/-- Where a request is; `unit` once it has arrived at the atomic unit of a home, a sequencer or a Lantern interface (R73). -/
inductive ReqStage where
  | sent | walking | heldMig | engine | unit | done | failed
  deriving DecidableEq, Repr

/-- A request that takes more than one step: sent, walked, performed, answered (R30, R34, R38, R116). -/
structure Req where
  id : Nat
  src : ReqSrc
  op : ReqOp
  va : W64
  ia : Nat
  n : Nat
  data : W64
  scope : Nat
  attr : BitVec 2
  lvl : Level
  vf : Nat
  tag : BitVec 32
  cluster : Nat
  stage : ReqStage
  result : W64
  cause : Nat
  deriving DecidableEq, Repr

/-- An update of a replicated page (R79): its position in the order (its place in the list, once `ordered`), its bytes and tag, the bytes that are
applied to live memory (R126), those that are poisoned, the replicas still to apply it, the engine command that made it (0: none),
whether a vector store did, and the generation unit that sent it (R119). -/
structure Update where
  id : Nat
  place : Option Nat
  ia : Nat
  n : Nat
  data : BitVec 256
  tag : BitVec 32
  live : BitVec 32
  bad : BitVec 32 := 0
  pending : List Nat
  ordered : Bool
  owner : Nat := 0
  vec : Bool := false
  unit : Nat := 0
  deriving DecidableEq, Repr

/-- A snapshot slot (R136); `recs` lists the blocks whose records are in its drain image, in order (R133), `stalls` the blocks with a write that
waits for a reserve frame and since when (R131), `visit` the block that is drained next, and `arr` the place of the drain in class 3 (R132). -/
structure GSlot where
  g : BitVec 32 := 0
  state : BitVec 2 := 0
  inc : Bool := false
  exh : Bool := false
  dfull : Bool := false
  fence : Bool := false
  recs : List Nat := []
  lost : Nat := 0
  tflip : W64 := 0
  stalls : List (Nat × W64) := []
  timedOut : Bool := false
  visit : Option Nat := none
  arr : Nat := 0
  deriving DecidableEq, Repr

/-- A gen-block's state in one slot (R122). -/
inductive BlockState where
  | SH | PR | DR | LO
  deriving DecidableEq, Repr

/-- A gen-block's record in one slot (R122, R129): its state and its reserve frame. -/
structure Block where
  st : BlockState := .SH
  frame : Option Nat := none
  deriving DecidableEq, Repr

/-- A reserve frame (R123, R129, R506): the live block, the die whose reserve it is in (256: second tier), the slots it
serves, the rows copied, the newer-byte mask (bytes written newer), the frame's own bytes, those of poisoned words, the keys its
lines are encrypted under, its words with bad symbols by their offset, and its stale rows (R127). -/
structure Frame where
  id : Nat
  block : Nat
  die : Nat
  slots : List Nat
  rows : BitVec 64
  mask : List Nat
  bytes : Sparse Byte
  psn : List Nat
  enc : Sparse Nat
  ecc : Sparse Nat := []
  stale : BitVec 64 := 0
  deriving DecidableEq, Repr

/-- The generation machinery of the part (R114, R119 to R136). `dev` is the device generation, `lag` the units that have
not adopted it, `unsettled` those whose settle acknowledgement is awaited, `last` the generation of each block's last
write. Block state of slot i for block b has key 2 b + i. -/
structure Gens where
  dev : BitVec 32 := 0
  lag : List Nat := []
  unsettled : List Nat := []
  slot0 : GSlot := {}
  slot1 : GSlot := {}
  settling : Option Nat := none
  snapq : List Nat := []
  answers : List (Nat × W64) := []
  blocks : Sparse Block := []
  lasts : Sparse Nat := []
  frames : List Frame := []
  deriving DecidableEq, Repr

/-! ## Scheduling -/

/-- The states of a pooled node (R413). -/
inductive NodeState where
  | waiting | blocked | ready | running | savedN
  deriving DecidableEq, Repr

/-- Gang states of a participant (R420). -/
inductive GangState where
  | none | readySent | acked | started
  deriving DecidableEq, Repr

/-- A pooled node (R406 to R413): its 16 descriptor words, its VF and home stack, its predecessor count. `bind` is the grant
reserved for it (R420), `skipAt` when it was first skipped at the highest priority (R418), `phase` how far its completion is (R416). -/
structure Node where
  id : Nat
  desc : List W64
  vf : Nat
  home : Nat
  st : NodeState
  count : Nat
  since : W64
  gst : GangState
  startT : W64
  sentAt : W64
  rung : Nat
  code : BitVec 4
  ecode : BitVec 4
  cause : Nat
  core : Nat
  attempt : Nat
  due : Option W64 := none
  bind : Option W64 := none
  skipAt : Option W64 := none
  phase : Nat := 0
  deriving DecidableEq, Repr

/-- A gang at its coordinator (R420, R421): the stack, the participants whose READY and ACK came, the start tick, whether START was sent, how many
attempts were aborted, which attempt this is, and what a coordinator on another part will answer: GO in bit 0, an ABORT afterwards in bit 1. -/
structure Gang where
  vf : Nat
  gang : Nat
  coord : Nat
  readys : List Nat
  acks : List Nat
  t : W64
  started : Bool
  aborts : Nat
  attempt : Nat
  away : BitVec 2 := 0
  deriving DecidableEq, Repr

/-- A VF's submission FIFO (R427 to R429) with the descriptors accepted of its oldest fetched entry, its MSI-X pending bits (R468) and its QoS register (R469). -/
structure Vf where
  entries : List (Nat × W64) := []
  fetched : Nat := 0
  accepted : Nat := 0
  ovf : Bool := false
  rung : BitVec 2 := 0
  rfail : Bool := false
  gab : Bool := false
  lost : BitVec 16 := 0
  cons : BitVec 16 := 0
  next : BitVec 16 := 1
  msix : BitVec 4 := 0
  msixTable : Sparse W64 := []
  qos : W64 := 0x1ffe0001ff7fffff
  key : Nat := 0
  flr : Bool := false
  deriving DecidableEq, Repr

/-- Platform state (R464, R475 to R478) and the package-wide reliability bits (R456, R457). `rollback` is the mailbox whose rollback is in
progress, as 16 × stack + its number (R137). -/
structure Platform where
  hdmEn : Bool := false
  hdmVf : BitVec 6 := 0
  hdmBase : BitVec 20 := 0
  hdmSize : BitVec 16 := 0
  capMod : BitVec 16 := 2800
  capBank : BitVec 16 := 320
  pmod : BitVec 16 := 0
  pbank : BitVec 16 := 0
  thr : Bool := false
  vfault : Bool := false
  fstk : BitVec 16 := 0
  rr : Bool := false
  pfMsix : BitVec 4 := 0
  boot : BitVec 2 := 0
  recovery : Bool := false
  recState : BitVec 2 := 0
  recResult : BitVec 4 := 0
  recSlot : Bool := false
  recDest : Bool := false
  recArg : W64 := 0
  bootLog : Sparse Byte := []
  staging : Sparse Byte := []
  image : Sparse Byte := []
  imageSize : Nat := 0
  slotVersion : Sparse Nat := []
  slotImage : Sparse Nat := []
  runningSlot : Option Nat := none
  fuse : Nat := 0
  spdm : List (Nat × Nat) := []
  spdmState : Nat := 0
  dump : Option Nat := none
  rollback : Option Nat := none
  deriving DecidableEq, Repr

/-- A host/CXL port (R462); a written role waits for the next training. -/
structure HostPort where
  role : BitVec 2 := 1
  inForce : BitVec 2 := 1
  up : Bool := false
  cxl : Bool := false
  width : BitVec 5 := 0
  gen : BitVec 4 := 0
  deriving DecidableEq, Repr

/-- Something that may happen next: an event of the opcode table, or the next micro-op of an invocation. -/
inductive Act where
  | event (i : Instr)
  | micro (inv : Nat)
  deriving DecidableEq, Repr

/-- The machine. `hart` is the hart that is stepping and `harts` the other bound harts; `agenda` lists what other agents
and the outside world may do next; `moves` counts steps, `free` the free values drawn; `cur` is the invocation whose micro-op runs; `waits`
are the normal accesses that wait at a bank, in their order of arrival (R97, R99), and `parts` what engines have moved of an access longer
than 128 bytes, `owners` the owner tags of subarrays (R386), each as 1 + VF + 128 × the number of
the 1 MiB page, `uioDone` the far lines whose completion has arrived and
`uioLost` those whose write timed out (R467), `reads` what the host's reads were answered with, each with the link's poison indication (R448,
R464), and `decOut` the decrements on
their way (sender, receiver, VF, tag; R414). Memory keys: a stacked-DRAM
byte is its physical address, a second-tier byte 2^44 + its offset, a Lantern byte 2^45 + 2^28 × stack + its offset, a
cluster SRAM byte 2^46 + 2^24 × cluster + its offset, a far or host byte 2^60 + 2^50 × port + its address. -/
structure State where
  hart : Hart := {}
  harts : List Hart := []
  ras : List RunAhead := []
  lates : List Late := []
  agenda : List Act := []
  moves : Nat := 0
  free : Nat := 0
  cur : Nat := 0
  nextId : Nat := 1
  tick : W64 := 0
  mem : List Host.Cell := []
  psn : List Nat := []
  ecc : Sparse Nat := []
  stale : List Nat := []
  owners : Sparse Nat := []
  encKey : Sparse Nat := []
  sramDef : List Nat := []
  clus : Sparse Cluster := []
  stk : Sparse Stack := []
  dies : Sparse Die := []
  regions : Sparse W64 := []
  ctxs : Sparse Ctx := []
  saved : List Saved := []
  locks : List RowLock := []
  invs : List Inv := []
  bcmds : List BankCmd := []
  slots : Sparse SlotDesc := []
  tiles : Sparse Tile := []
  mops : List MOp := []
  copies : List Copy := []
  reqs : List Req := []
  updates : List Update := []
  signals : List Signal := []
  gens : Gens := {}
  nodes : List Node := []
  decOut : List (Nat × Nat × Nat × Nat) := []
  gangs : List Gang := []
  vfs : Sparse Vf := []
  plat : Platform := {}
  port0 : HostPort := { role := 0, inForce := 0 }
  port1 : HostPort := {}
  port2 : HostPort := {}
  port3 : HostPort := {}
  reads : List (W64 × Bool) := []
  gaps : Nat := 0
  waits : List SlotWait := []
  parts : List PartAcc := []
  uioDone : List Nat := []
  uioLost : List Nat := []
  stopped : Option Nat := none
  deriving DecidableEq, Repr

/-- Why the machine stops with a fault. -/
inductive Fault where
  /-- Raised by the step once a fatal error has stopped every hart and engine and the host asks nothing of the recovery surface
  (R459). Safe: the part does nothing more. -/
  | partStopped
  deriving DecidableEq, Repr

/-- Why the model refuses a step. -/
inductive Refusal where
  /-- Raised by an arm of `exec` whose instruction has no meaning yet. Safe: nothing is claimed of it. -/
  | notModelled (mnemonic : String)
  deriving DecidableEq, Repr

/-- Lamplighter hart `i` of the part (R2: 64, four per base die) as reset leaves it, with range registers of its own. -/
def lampHart (i : Nat) : Hart := { place := 8192 + i, ctxKey := 65536 + i }

/-- The lamplighter harts beside the first, which runs the ROM (log 5). -/
def lampHarts : List Hart := (List.range 63).map (fun i => lampHart (i + 1))

/-- The machine right after reset: the ROM's hart at mon (R475), the other 63 lamplighter harts beside it, every core unbound, every register
at its reset value, memory with nothing listed. -/
def State.reset : State := { harts := lampHarts }

end Sys2Proof.Machine
end

