-- ==== Sys2Proof/Machine/Ops.lean ====
section
/-! DEFINITION. The named operations over the state that every meaning uses: the accessors of its tables, the registers of
the hart that steps, the log, interrupts, taking a trap (R434) and returning from one (R297). -/
namespace Sys2Proof.Machine

/-- The three outcomes of a step. -/
abbrev Out := Host.Outcome State Fault Refusal

/-! ## Tables -/

def State.getStk (s : State) (i : Nat) : Stack := sget {} s.stk i
def State.setStk (s : State) (i : Nat) (v : Stack) : State := { s with stk := sset {} s.stk i v }
def State.getClu (s : State) (i : Nat) : Cluster := sget {} s.clus i
def State.setClu (s : State) (i : Nat) (v : Cluster) : State := { s with clus := sset {} s.clus i v }
def State.getDie (s : State) (i : Nat) : Die := sget {} s.dies i
def State.setDie (s : State) (i : Nat) (v : Die) : State := { s with dies := sset {} s.dies i v }
def State.getCtx (s : State) (i : Nat) : Ctx := sget {} s.ctxs i
def State.setCtx (s : State) (i : Nat) (v : Ctx) : State := { s with ctxs := sset {} s.ctxs i v }
def State.getVf (s : State) (i : Nat) : Vf := sget {} s.vfs i
def State.setVf (s : State) (i : Nat) (v : Vf) : State := { s with vfs := sset {} s.vfs i v }
def State.getTile (s : State) (i : Nat) : Tile := sget {} s.tiles i
def State.setTile (s : State) (i : Nat) (v : Tile) : State := { s with tiles := sset {} s.tiles i v }
def State.getSlot (s : State) (i : Nat) : SlotDesc := sget {} s.slots i
def State.setSlot (s : State) (i : Nat) (v : SlotDesc) : State := { s with slots := sset {} s.slots i v }
def Cluster.getBank (c : Cluster) (b : Nat) : Bank := sget {} c.banks b
def Cluster.setBank (c : Cluster) (b : Nat) (v : Bank) : Cluster := { c with banks := sset {} c.banks b v }
def State.getBank (s : State) (c b : Nat) : Bank := (s.getClu c).getBank b
def State.setBank (s : State) (c b : Nat) (v : Bank) : State := s.setClu c ((s.getClu c).setBank b v)
def State.getBox (s : State) (k i : Nat) : Mailbox := sget {} (s.getStk k).boxes i
def State.setBox (s : State) (k i : Nat) (v : Mailbox) : State :=
  s.setStk k { s.getStk k with boxes := sset {} (s.getStk k).boxes i v }
def State.getGlow (s : State) (p : Nat) : GlowPort := sget {} (s.getStk (p / 4)).glow (p % 4)
def State.setGlow (s : State) (p : Nat) (v : GlowPort) : State :=
  s.setStk (p / 4) { s.getStk (p / 4) with glow := sset {} (s.getStk (p / 4)).glow (p % 4) v }
def State.getMig (s : State) (k i : Nat) : Mig := sget {} (s.getStk k).mig i
def State.setMig (s : State) (k i : Nat) (v : Mig) : State :=
  s.setStk k { s.getStk k with mig := sset {} (s.getStk k).mig i v }

/-- A host/CXL port; port q is on stack 5 q (R1). -/
def State.getPort (s : State) (q : Nat) : HostPort :=
  match q with
  | 0 => s.port0
  | 1 => s.port1
  | 2 => s.port2
  | _ => s.port3

def State.setPort (s : State) (q : Nat) (v : HostPort) : State :=
  match q with
  | 0 => { s with port0 := v }
  | 1 => { s with port1 := v }
  | 2 => { s with port2 := v }
  | _ => { s with port3 := v }

/-- The snapshot slots (R136). -/
def Gens.slot (g : Gens) (i : Nat) : GSlot := if i = 0 then g.slot0 else g.slot1
def Gens.setSlot (g : Gens) (i : Nat) (v : GSlot) : Gens := if i = 0 then { g with slot0 := v } else { g with slot1 := v }

/-- The generation sequencer (R119). -/
def State.sequencer (s : State) : Nat := (s.getStk 0).gsctlSeq.toNat

/-- A number not used before. -/
def State.fresh (s : State) : Nat × State := (s.nextId, { s with nextId := s.nextId + 1 })

/-- Something that may happen from now on is put on the agenda. -/
def State.post (s : State) (i : Instr) : State := { s with agenda := s.agenda ++ [.event i] }
/-- Something is put on the agenda unless it is there already. -/
def State.postOnce (s : State) (i : Instr) : State := if s.agenda.any (fun a => a = .event i) then s else s.post i
def State.postAct (s : State) (a : Act) : State := { s with agenda := s.agenda ++ [a] }

/-! ## Places -/

/-- The stack of a place: 512 cores a stack, four lamplighter harts a stack (R1); a saved context of stack k stands at a place of its
own, `savedPlace`. -/
def stackOf (place : Nat) : Nat := if place < 8192 then place / 512 else if place < 8256 then (place - 8192) / 4 else (place - 8256) % 16

/-- Where the commands of a context are counted while it is saved at an IA. -/
def savedPlace (stack ia : Nat) : Nat := 8256 + 16 * ia + stack

/-- The cluster of an application core (R1). -/
def clusterOf (place : Nat) : Nat := if place < 8192 then place / 256 else 2 * stackOf place

/-- The hart at a place, if one is bound there. -/
def State.hartAt (s : State) (place : Nat) : Option Hart :=
  if s.hart.place = place then some s.hart else s.harts.find? (fun h => h.place = place)

/-- The hart at its place replaced. -/
def State.putHart (s : State) (h : Hart) : State :=
  if s.hart.place = h.place then { s with hart := h }
  else { s with harts := modList (fun k => k.place = h.place) (fun _ => h) s.harts }

/-- A change made from outside to the hart at a place, if there is one, and to the checkpoints it may return to (R41, R185). -/
def State.onHart (s : State) (place : Nat) (f : Hart → Hart) : State :=
  match s.hartAt place with
  | some h =>
    let s := s.putHart (f h)
    { s with ras := modList (fun r => r.place = place) (fun r => { r with ck := f r.ck }) s.ras
             lates := modList (fun r => r.place = place) (fun r => { r with ck := f r.ck }) s.lates }
  | none => s

/-- Makes the hart at a place the one that steps. -/
def State.focus (s : State) (place : Nat) : State :=
  if s.hart.place = place then s
  else match s.harts.find? (fun h => h.place = place) with
    | some h => { s with hart := h, harts := s.hart :: s.harts.filter (fun k => decide (k.place ≠ place)) }
    | none => s

/-- The run-ahead record of the hart that steps, if it runs ahead (R38). -/
def State.ahead (s : State) : Option RunAhead := s.ras.find? (fun r => r.place = s.hart.place)

def State.inAhead (s : State) : Bool := s.ahead.isSome

/-- A change to the run-ahead record of the hart that steps. -/
def State.onAhead (s : State) (f : RunAhead → RunAhead) : State :=
  { s with ras := modList (fun r => r.place = s.hart.place) f s.ras }

/-- A change to the hart that steps and to the states that its queued vector instructions captured (R183, R185). -/
def State.updAll (s : State) (f : Hart → Hart) : State :=
  { s with hart := f s.hart, lates := modList (fun r => r.place = s.hart.place) (fun r => { r with ck := f r.ck }) s.lates }

/-- Whether a place holds a hart. -/
def State.bound (s : State) (place : Nat) : Bool := (s.hartAt place).isSome

/-! ## Levels -/

/-- The two-bit code of a level (R199). -/
def Level.code : Level → BitVec 2
  | .app => 0
  | .sup => 1
  | .mon => 3

/-- The level of a code; 10 is reserved (R199). -/
def levelOf (c : BitVec 2) : Option Level :=
  if c = 0 then some .app else if c = 1 then some .sup else if c = 3 then some .mon else none

/-- Each level may do everything a lower level may do (R199). -/
def Level.ge (a b : Level) : Bool := decide (b.code.toNat ≤ a.code.toNat)

/-! ## Registers of the hart that steps -/

/-- Reading an `x` register; `x0` reads as 0 (R200). -/
def Hart.rx (h : Hart) (r : Reg) : XVal := if r = 0 then .known 0 else h.x[r.toNat]

/-- Writing an `x` register; a write to `x0` is discarded (R200). A write restores the register's parity (R451). `dep` are the symbol
slots that the value depends on (R145). -/
def Hart.wx (h : Hart) (r : Reg) (v : XVal) (dep : BitVec 16 := 0) : Hart :=
  if r = 0 then h
  else { h with x := h.x.set r.toNat v, xBad := h.xBad &&& ~~~(1#32 <<< r.toNat),
                acqOn := h.acqOn.filter (fun q => decide (q.1 ≠ r.toNat)), xdep := h.xdep.set r.toNat dep }

/-- The symbol slots that the values of registers depend on (R145). -/
def Hart.depOf (h : Hart) (rs : List Reg) : BitVec 16 := rs.foldl (fun (m : BitVec 16) (r : Reg) => m ||| (if r = 0 then 0 else h.xdep[r.toNat])) 0

/-- A symbol has been bound or has failed for good: nothing depends on its producer any more. -/
def Hart.undep (h : Hart) (slot : Nat) : Hart :=
  let m : BitVec 16 := ~~~(1#16 <<< slot)
  { h with xdep := vmap (fun d => d &&& m) h.xdep, vdep := h.vdep &&& m, hdep := h.hdep &&& m }

/-- A value of the hart's `x` register known to the hart (0 where it holds a form: never read then). -/
def XVal.val : XVal → W64
  | .known v => v
  | .form _ _ b => b
  | _ => 0

def XVal.isKnown : XVal → Bool
  | .known _ => true
  | _ => false

/-- The value of an `x` register that the gate has found known. -/
def Hart.kx (h : Hart) (r : Reg) : W64 := (h.rx r).val

/-- A change to the hart that steps. -/
def State.upd (s : State) (f : Hart → Hart) : State := { s with hart := f s.hart }

/-- `x[rd] := v`. -/
def State.wx (s : State) (rd : Reg) (v : W64) (dep : BitVec 16 := 0) : State := { s with hart := s.hart.wx rd (.known v) dep }

/-- The instruction completes: the next one is the next word (R249), and one more has retired (R207). -/
def State.retire (s : State) : State :=
  { s with hart := { s.hart with pc := s.hart.pc + 4, instret := s.hart.instret + 1 } }

/-- The instruction completes and continues at `t`. -/
def State.jump (s : State) (t : W64) : State :=
  { s with hart := { s.hart with pc := t, instret := s.hart.instret + 1 } }

/-- `x[rd] := v` and the instruction completes. -/
def State.done (s : State) (rd : Reg) (v : W64) (dep : BitVec 16 := 0) : Out := .next ((s.wx rd v dep).retire)

/-- A branch or jump depends on registers (R145): later writes wait for the producers behind them. -/
def State.control (s : State) (rs : List Reg) : State := { s with hart := { s.hart with hdep := s.hart.hdep ||| s.hart.depOf rs } }

/-- The instruction stays where it is and is tried again at the hart's next step: the hart waits. -/
def State.stall (s : State) : Out := .next s

/-! ## The log, the reliability counters and interrupts -/

/-- An interrupt pends at a place: the edge is remembered and the event latch sets (R298, R440). -/
def State.pend (s : State) (place code : Nat) (tval : W64) : State :=
  s.onHart place (fun h => { h with
    irqs := if h.irqs.any (fun q => q.1 = code) then h.irqs else h.irqs ++ [(code, tval)], latch := true })

/-- Whether a stack is fenced (R454). -/
def State.fenced (s : State) (k : Nat) : Bool := s.plat.fstk.getLsbD k

/-- Whether a DRAM die is fenced: its stack, or the die alone (R454). -/
def State.dieFenced (s : State) (d : Nat) : Bool := s.fenced (d / 16) || (s.getStk (d / 16)).rasFdie.getLsbD (d % 16)

/-- An interrupt to lamplighter hart 0 of every stack that is not fenced (R440). -/
def State.pendAll (s : State) (code : Nat) (tval : W64) : State :=
  (upto 16).foldl (fun t k => if t.fenced k then t else t.pend (8192 + 4 * k) code tval) s

/-- A host-side interrupt: an MSI-X vector of a VF, or of physical function 0 (R468). -/
def State.msixVf (s : State) (f v : Nat) : State :=
  if (s.getVf f).flr then s
  else s.setVf f { s.getVf f with msix := (s.getVf f).msix ||| (1#4 <<< v) }

def State.msixPf (s : State) (v : Nat) : State :=
  { s with plat := { s.plat with pfMsix := s.plat.pfMsix ||| (1#4 <<< v) } }

/-- Vector 3 of every VF and of physical function 0 (R456, R468). -/
def State.msixAll3 (s : State) : State := (upto 64).foldl (fun t f => t.msixVf f 3) (s.msixPf 3)

/-- `rr` becomes 1, once (R456). -/
def State.requestReplace (s : State) : State :=
  if s.plat.rr then s
  else (({ s with plat := { s.plat with rr := true } }).pendAll 5 0).msixAll3

/-- The corrected events of the part (R456). -/
def State.corrected (s : State) : Nat := (s.stk.map (fun e => e.2.corr.toNat)).foldl (· + ·) 0

/-- A log entry of a stack (R458). Every type but 5 and 6 is a corrected event: it counts, may set `rr` (R456) and, where
the log had been empty, raises interrupt 3 (R440). -/
def State.logEvent (s : State) (k typ unit wher detail : Nat) : State :=
  let t := s.getStk k
  let e : LogEntry := { tick := s.tick, typ := BitVec.ofNat 8 typ, unit := BitVec.ofNat 8 unit,
                        wher := BitVec.ofNat 16 wher, detail := BitVec.ofNat 32 detail }
  let full := decide (256 ≤ (t.logHead - t.logTail).toNat)
  let wasEmpty := decide (t.logHead = t.logTail)
  let isCorr := decide (typ ≠ 5) && decide (typ ≠ 6)
  let t := { t with log := sset {} t.log (t.logHead.toNat % 256) e, logHead := t.logHead + 1,
                    logOvf := if full then satAdd t.logOvf 1 else t.logOvf,
                    corr := if isCorr then satAdd t.corr 1 else t.corr }
  let s := s.setStk k t
  let s := if isCorr && wasEmpty then s.pend (8192 + 4 * k) 3 0 else s
  if isCorr && decide (t.cthr.toNat ≤ s.corrected) then s.requestReplace else s

/-! ## Traps (R433 to R437) -/

/-- The level a trap is taken at (R433): mon for causes 0x04 and 0x05 and from mon, else sup; a breakpoint goes where an environment call of
the same level goes (R296, log 86). -/
def trapLevel (l : Level) (code : Nat) : Level :=
  if l = .mon then .mon else if code = 4 ∨ code = 5 ∨ (code = 2 ∧ l = .sup) then .mon else .sup

/-- The CSRs of a trap level. -/
def Hart.bank (h : Hart) (l : Level) : TrapBank := if l = .mon then h.monb else h.sup
def Hart.setBank (h : Hart) (l : Level) (b : TrapBank) : Hart := if l = .mon then { h with monb := b } else { h with sup := b }

/-- Trap entry (R434): `causeWord` in the layout of R435, the trap value, and the PC that is saved. Words the hart has
fetched are fetched anew (R507). -/
def Hart.trap (h : Hart) (causeWord : W64) (tval epc : W64) : Hart :=
  let l := trapLevel h.level (if causeWord.getLsbD 63 then 0 else (causeWord.extractLsb' 0 8).toNat)
  let b := h.bank l
  { (h.setBank l { b with ppl := h.level.code, pie := b.ie, ie := false, epc := epc, cause := causeWord, tval := tval }) with
    level := l, pc := b.vec, depth := h.depth + 1, hfirst := true, ibuf := [], wait := none }

/-- Taking a trap (R434): the entry, and the count of machine checks (R457). -/
def State.trap (s : State) (causeWord : W64) (tval epc : W64) : State :=
  let c := (causeWord.extractLsb' 0 8).toNat
  let s := { s with hart := s.hart.trap causeWord tval epc }
  if (c = 0x40 ∨ c = 0x41 ∨ c = 0x43) ∧ causeWord.getLsbD 63 = false then
    s.setStk (stackOf s.hart.place) { s.getStk (stackOf s.hart.place) with
      mchk := satAdd (s.getStk (stackOf s.hart.place)).mchk 1 }
  else s

/-- A held slot whose fault the trap at this depth delivered is re-issued: its producer is pending again, not yet sent
(R192). -/
def Slot.reissue (depth : Nat) : Slot → Slot
  | .held c p (some d) => if d = depth then .pending p 0 else .held c p (some d)
  | q => q

/-- The return from a trap at level `l` (R297). -/
def Hart.eret (h : Hart) (l : Level) (dst : Level) : Hart :=
  let b := h.bank l
  { (h.setBank l { b with ie := b.pie, pie := true, ppl := 0 }) with
    pc := b.epc, level := dst, depth := h.depth - 1, ibuf := [], sym := vmap (Slot.reissue h.depth) h.sym }

/-! ## Engine commands -/

/-- The lowest command number free, if fewer than 32 are outstanding (R196). -/
def Hart.cmdNumber (h : Hart) : Option Nat := (upto 32).find? (fun n => !nmem n h.cmds)

/-- A command's final completion signal: its number is freed and the event latch sets (R196, R298). -/
def State.freeCmd (s : State) (place cnum : Nat) : State :=
  s.onHart place (fun h => { h with cmds := nrem cnum h.cmds, latch := true })

end Sys2Proof.Machine
end

