-- ==== Sys2Proof/Machine/Memory.lean ====
section
/-! DEFINITION. Memory below translation: bytes by their physical key (see `State`), the protected words and their poison
(R448, R449), stale rows and symbol errors (R101 to R104), encrypted lines (R471). -/
namespace Sys2Proof.Machine

/-! ## Keys -/

def keySecond : Nat := 2 ^ 44
def keyLantern : Nat := 2 ^ 45
def keySram : Nat := 2 ^ 46
def keyPeer : Nat := 2 ^ 56
def keyFar : Nat := 2 ^ 60

/-- The stack whose memory a key lies in, for the windows and stacked DRAM. -/
def keyStack (k : Nat) : Option Nat :=
  if k < keySecond then some (k / 2 ^ 36 % 16)
  else if k < keyLantern then none
  else if k < keySram then some ((k - keyLantern) / 2 ^ 28 % 16)
  else if k < keyPeer then some ((k - keySram) / 2 ^ 25 % 16)
  else none

/-- The DRAM die of a stacked-DRAM key, as 16 × stack + die (R83). -/
def keyDie (k : Nat) : Nat := k / 2 ^ 32 % 256

/-- The size of the protected word that holds a key (R449). -/
def wordSize (k : Nat) : Nat := if k < keyLantern then 32 else if k < keyPeer then 8 else 64

/-- The first key of the protected word that holds a key. -/
def wordBase (k : Nat) : Nat := k / wordSize k * wordSize k

/-! ## Bytes -/

/-- The bank of a cluster SRAM key. -/
def keyBank (k : Nat) : Nat × Nat := ((k - keySram) / 2 ^ 24, (k - keySram) % 2 ^ 24 / 2 ^ 19)

/-- One byte at a key. In a bank that has left cache mode, a byte nothing has written since is undefined (R58); beyond the
part, a byte the part has not written is the outside's (R19, R466, R467). -/
def State.byteAt (s : State) (k : Nat) : Byte :=
  if keySram ≤ k ∧ k < keyPeer then
    let b := s.getBank (keyBank k).1 (keyBank k).2
    if b.epoch ≠ 0 ∧ nmem k s.sramDef = false then Config.sramJunk k b.epoch else memGet s.mem k
  else if keyPeer ≤ k then
    (if nmem k s.sramDef then memGet s.mem k else Config.outside k s.moves)
  else memGet s.mem k

/-- One byte stored at a key, with what makes it defined. -/
def State.setByte (s : State) (k : Nat) (v : Byte) : State :=
  { s with mem := memSet s.mem k v, sramDef := if keySram ≤ k then nins k s.sramDef else s.sramDef }

/-- The protected words that a list of keys touches. -/
def wordsOf (ks : List Nat) : List Nat := ks.foldl (fun l k => if nmem (wordBase k) l then l else l ++ [wordBase k]) []

/-- The keys of a protected word are all among `ks`. -/
def covers (ks : List Nat) (w : Nat) : Bool := (upFrom w (wordSize w)).all (fun k => nmem k ks)

/-- Bytes stored at keys: a poisoned word covered whole is cleared, one covered in part keeps its bytes and its poison, and
the refusal is logged (R449) with `ia`, the IA of the first byte. -/
def State.storeWords (s : State) (kvs : List (Nat × Byte)) (home ia : Nat) : State :=
  if s.psn = [] then kvs.foldl (fun t e => t.setByte e.1 e.2) s
  else
    let ks := kvs.map (·.1)
    let ws := (wordsOf ks).filter (fun w => nmem w s.psn)
    let kept := ws.filter (fun w => !covers ks w)
    let t := kvs.foldl (fun t e => if nmem (wordBase e.1) kept then t else t.setByte e.1 e.2) s
    let t := { t with psn := t.psn.filter (fun w => !(nmem w ws && !nmem w kept)) }
    if kept = [] then t else t.logEvent home 6 0 0 ia

/-- Bytes stored at keys; what falls on a far-tier line whose write has timed out is discarded (R467). -/
def State.storeKeys (s : State) (kvs : List (Nat × Byte)) (home ia : Nat) : State :=
  if s.uioLost = [] then s.storeWords kvs home ia
  else
    let lost := s.uioLost.filter (fun l => kvs.any (fun e => decide (e.1 / 64 = l)))
    { s with uioLost := s.uioLost.filter (fun l => !nmem l lost) }.storeWords (kvs.filter (fun e => !nmem (e.1 / 64) lost)) home ia

/-- Whether a list of keys touches a poisoned word (R448). -/
def State.poisonedAt (s : State) (ks : List Nat) : Bool :=
  if s.psn = [] then false else ks.any (fun k => nmem (wordBase k) s.psn)

/-- The index, in a list of keys, of the first byte that lies in a poisoned word. -/
def State.poisonIdx (s : State) (ks : List Nat) : Nat := (ks.findIdx (fun k => nmem (wordBase k) s.psn))

/-- A word becomes poisoned (R102, R448). -/
def State.poison (s : State) (w : Nat) : State := { s with psn := nins w s.psn }

/-! ## Symbol errors and stale rows -/

/-- A corrected event on a 64 KiB frame of a stack (R46, R102): the frame's count, and its retirement at the threshold; the die's
fence at 64 times as many within a second (R453). `micro` where a micro-op met it, which `BPCNT` counts (R107). -/
def State.countCorrection (s : State) (key : Nat) (micro : Bool) : State :=
  let k := key / 2 ^ 36 % 16
  let t := s.getStk k
  let f := key / 2 ^ 16
  let n := sget 0 t.corrFrames f + 1
  let s := s.setStk k { t with corrFrames := sset 0 t.corrFrames f n }
  let d := s.getDie (keyDie key)
  let recent := s.tick :: d.corrAt.filter (fun a => decide ((s.tick - a).toNat < 1000000000))
  let s := s.setDie (keyDie key) { d with corr := if micro then satAdd d.corr 1 else d.corr, corrAt := recent }
  let s := s.logEvent k 1 (keyDie key % 16) (key / 2 ^ 20 % 4096) (key / 1024 % 1024)
  let s := if 64 * max 1 t.retthr.toNat ≤ recent.length then s.post (.dieFence (keyDie key)) else s
  if max 1 t.retthr.toNat ≤ n ∧ !s.agenda.any (fun a => a = .event (.retirementThreshold k f)) then s.post (.retirementThreshold k f) else s

/-- The bad symbols of an error pattern: a pattern is held as their number and 64 times what tells it from the other patterns of as many. -/
def badSymbols (e : Nat) : Nat := e % 64

/-- The bytes of a word changed by the bits that an error leaves, with consistent check bits (R102, R104). -/
def State.corruptWord (s : State) (w : Nat) (bits : Nat → Nat → Byte) : State :=
  let e := sget 0 s.ecc w
  { s with mem := (upFrom w (wordSize w)).foldl (fun m k => memSet m k (memGet m k ^^^ bits (k - w) e)) s.mem,
           ecc := sset 0 s.ecc w 0 }

/-- One word of stacked DRAM is decoded (R101, R102): one bad symbol is corrected; two or three, or a detected pattern of
more, poison it; an undetected one leaves other bytes with consistent check bits. What becomes of a pattern is the same each time. -/
def State.decodeWord (s : State) (w : Nat) (micro : Bool := false) : State :=
  let e := sget 0 s.ecc w
  if e = 0 then s
  else
    let s0 := { s with ecc := sset 0 s.ecc w 0 }
    if badSymbols e = 1 then s0.countCorrection w micro
    else if badSymbols e = 2 ∨ badSymbols e = 3 ∨ Config.eccDetected e then
      let d := s0.getDie (keyDie w)
      (s0.setDie (keyDie w) { d with uncorr := satAdd d.uncorr 1 }).poison w
    else (s.corruptWord w Config.badData).countCorrection w micro

/-- One word of the second tier, of a cluster SRAM or of a Lantern SRAM is read through its code (R449): one error is corrected,
with a log entry of type 2 for a cluster SRAM (R458); two, or a detected pattern of more, poison it. -/
def State.decodeOther (s : State) (w : Nat) : State :=
  let e := sget 0 s.ecc w
  if e = 0 then s
  else
    let s0 := { s with ecc := sset 0 s.ecc w 0 }
    let seen (s : State) : State :=
      if keySram ≤ w ∧ w < keyPeer then
        let c := (keyBank w).1
        s.logEvent (c / 2) 2 (c % 2) (keyBank w).2 0
      else s
    if badSymbols e = 1 then seen s0
    else if badSymbols e = 2 ∨ Config.eccDetected e then s0.poison w
    else seen (s.corruptWord w Config.badData)

/-- ECR on a row (R103): its check bits are recomputed over what it holds (an error in a stale row is not found, R104), and
its stale flag clears. A row is named by its key divided by 1,024. -/
def State.ecr (s : State) (row : Nat) : State :=
  if nmem row s.stale then
    let ws := (upto 32).map (fun i => row * 1024 + 32 * i)
    let s := ws.foldl (fun t w => if sget 0 t.ecc w = 0 then t else t.corruptWord w Config.rawError) s
    { s with stale := nrem row s.stale }
  else s

/-- What a normal access does to the words and rows it touches before it is served (R101, R103, R449). -/
def State.touch (s : State) (ks : List Nat) : State :=
  let s := if s.stale = [] then s else (ks.filter (fun k => decide (k < keySecond))).foldl (fun t k => t.ecr (k / 1024)) s
  if s.ecc = [] then s
  else (wordsOf ks).foldl (fun t w => if w < keySecond then t.decodeWord w else t.decodeOther w) s

/-! ## Encrypted lines (R471) -/

/-- The epoch of a VF's key, counted from 1; 0 marks a line never written under a key. -/
def State.keyEpoch (s : State) (slot : Nat) : Nat := (s.getVf slot).key + 1

/-- The key epoch under which a page with key slot `enc` reads its lines; 0 for a page that is not encrypted. -/
def State.wantKey (s : State) (enc : Option Nat) : Nat :=
  match enc with
  | none => 0
  | some slot => s.keyEpoch slot

/-- A byte read under a key: where its line was written under another one, unrelated bytes (R471). -/
def State.encByte (s : State) (want k : Nat) : Byte :=
  let e := sget 0 s.encKey (k / 64)
  if e = want then s.byteAt k else Config.scrambled k e want

/-- Before bytes of a line are written under a key, the rest of the line is read and rewritten under it. -/
def State.rekey (s : State) (want : Nat) (ks : List Nat) : State :=
  ks.foldl (fun t k =>
    let l := k / 64
    if sget 0 t.encKey l = want then t
    else
      let t' := (upFrom (64 * l) 64).foldl (fun u j => u.setByte j (t.encByte want j)) t
      { t' with encKey := sset 0 t'.encKey l want }) s

/-- Bytes at keys, read as data of a page with key slot `enc` (none: not encrypted). -/
def State.loadKeys (s : State) (ks : List Nat) (enc : Option Nat) : List Byte :=
  if enc = none ∧ s.encKey = [] then ks.map s.byteAt else ks.map (s.encByte (s.wantKey enc))

/-- Bytes stored at keys of a page with key slot `enc`. A normal write leaves a row's stale flag clear (R103). -/
def State.storePage (s : State) (kvs : List (Nat × Byte)) (enc : Option Nat) (home ia : Nat) : State :=
  if enc = none ∧ s.encKey = [] then s.storeKeys kvs home ia
  else (s.rekey (s.wantKey enc) (kvs.map (·.1))).storeKeys kvs home ia

end Sys2Proof.Machine
end

