-- ==== Sys2Proof/Machine/Slots.lean ====
section
/-! DEFINITION. Normal accesses and the bank plane (R96 to R99): row-locks, banks in compute mode, and the order in which the accesses that wait
at a bank go on. -/
namespace Sys2Proof.Machine

/-- A row-lock of another context covers a row of the bytes (R98). -/
def State.rowLocked (s : State) (key n ctx : Nat) : Bool :=
  decide (key < keySecond) && s.locks.any (fun l => l.isHeld && decide (l.ctx ≠ ctx) && decide (l.die = keyDie key) &&
    decide (l.bank = key / 2 ^ 26 % 64) && decide (l.sub = key / 2 ^ 20 % 64) &&
    decide (l.row ≤ (key + (n - 1)) / 1024 % 1024) && decide (key / 1024 % 1024 < l.row + l.count))

/-- An invocation is between its first micro-op and its end (R92, R96). -/
def InvState.active (i : InvState) : Bool :=
  match i with
  | .running | .correcting | .cpyWait => true
  | _ => false

/-- A bank, as 64 × die + bank, is in compute mode (R96). -/
def State.computing (s : State) (b : Nat) : Bool := s.invs.any (fun v => decide (64 * v.die + v.bank = b) && v.st.active)

/-- The slots that an access takes: one for up to 128 bytes, else one for each piece within a 128-byte boundary (R97). -/
def slotsFor (key len : Nat) : Nat := if len ≤ 128 then 1 else (key % 128 + len + 127) / 128

/-- Two records are of one access. -/
def SlotWait.same (w q : SlotWait) : Bool := decide (q.unit = w.unit) && decide (q.cmd = w.cmd) && decide (q.key = w.key) && decide (q.len = w.len)

/-- The bank of a waiting access, as 64 × die + bank. -/
def SlotWait.bank (w : SlotWait) : Nat := w.key / 2 ^ 26

/-- A waiting access has had all its slots, and the last one is open for it. -/
def SlotWait.ready (w : SlotWait) : Bool := decide (slotsFor w.key w.len ≤ w.served)

/-- An access waits from now on, or goes on waiting at its place (R97, R99). -/
def State.waitAt (s : State) (w : SlotWait) : State :=
  if s.waits.any w.same then
    { s with waits := modList (fun q => w.same q) (fun q => { q with here := true, locked := q.locked || w.locked }) s.waits }
  else { s with waits := s.waits ++ [w] }

/-- An access waits no longer. -/
def State.leave (s : State) (w : SlotWait) : State := if s.waits = [] then s else { s with waits := s.waits.filter (fun q => !w.same q) }

/-- The accesses to a subarray that met a lock before this one: they go on first (R99). -/
def State.lockedAhead (s : State) (w : SlotWait) : List SlotWait :=
  (s.waits.takeWhile (fun q => !w.same q)).filter (fun q => q.locked && decide (q.key / 2 ^ 20 = w.key / 2 ^ 20) && !s.rowLocked q.key q.len q.ctx)

/-- Whether a normal access to stacked DRAM may be performed now (R96 to R99); one that may not waits. One that does not ask again between two
tries of a later one has gone (log 90). -/
def State.turnAt (s : State) (w : SlotWait) : State × Bool :=
  if keySecond ≤ w.key ∨ (s.locks = [] ∧ s.invs = [] ∧ s.waits = []) then (s, true)
  else if !w.free && s.rowLocked w.key w.len w.ctx then (s.waitAt { w with locked := true }, false)
  else
    let ahead := if w.free then [] else s.lockedAhead w
    let left := s.waits.filter (fun q => q.here || !ahead.any q.same)
    let s : State := { s with waits := left.map (fun q => if ahead.any q.same then { q with here := false } else q) }
    if ahead.any (·.here) then (s.waitAt w, false)
    else if !s.computing w.bank || s.waits.any (fun q => w.same q && q.ready) then (s, true)
    else ((s.waitAt w).postOnce (.accessSlot w.bank), false)

/-- An access that may go on, performed now. -/
def State.turnTaken (s : State) (w : SlotWait) : State × Bool :=
  match s.turnAt w with
  | (s, true) => (s.leave w, true)
  | r => r

/-- The parts of a range of stacked DRAM in single banks. -/
def bankParts : Nat → Nat → Nat → List (Nat × Nat)
  | 0, _, _ => []
  | f + 1, key, n =>
    if n = 0 then []
    else
      let m := min n (2 ^ 26 - key % 2 ^ 26)
      (key, m) :: bankParts f (key + m) (n - m)

/-- Every bank of a range lets the access go on. -/
def State.turnRange (s : State) (w : SlotWait) : List (Nat × Nat) → State × Bool
  | [] => (s, true)
  | (key, n) :: l => match s.turnAt { w with key := key, len := n } with
    | (s, true) => State.turnRange s w l
    | r => r

/-- The access slot of a bank is open for an access (R97). -/
def State.slotOpen (s : State) (b : Nat) : Bool := s.waits.any (fun q => decide (q.bank = b) && q.ready)

/-- The oldest access that waits at a bank and that no lock of another context holds (R97, R98). -/
def State.oldestWait (s : State) (bank : Nat) : Option SlotWait :=
  s.waits.find? (fun q => decide (q.bank = bank) && !q.ready && (q.free || !s.rowLocked q.key q.len q.ctx))

/-- A bank has computed for `slotn` periods, at least 4, since its last slot (R97). -/
def State.slotCounted (s : State) (bank : Nat) : Bool :=
  decide (10 * max 4 (s.getDie (bank / 64)).slotn.toNat ≤ sget 0 (s.getDie (bank / 64)).counts (bank % 64))

/-- A bank issues no new micro-op (R97): a slot is open, or one is due for an access that waits. -/
def State.holdsOps (s : State) (b : Nat) : Bool := s.slotOpen b || (s.slotCounted b && (s.oldestWait b).isSome)

end Sys2Proof.Machine
end

