-- ==== Sys2Proof/Machine/Translate.lean ====
section
/-! DEFINITION. From a virtual address to bytes: range registers (R10 to R13), the IA map (R15 to R19), home stacks (R20,
R21), the table walk and its checks (R22 to R29), and the order of the faults (R33, R34). -/
namespace Sys2Proof.Machine

/-- A fault: its cause, its trap value, the IA of the first byte and the level where a walk ended (R33, R42). -/
structure Flt where
  code : Nat
  tval : W64
  ia : Nat := 0
  level : Nat := 0
  deriving DecidableEq, Repr

/-- What an access needs of its range and page (R13). -/
structure Acc where
  rd : Bool := false
  wr : Bool := false
  ex : Bool := false
  eng : Bool := false
  deriving DecidableEq, Repr

def Acc.read : Acc := { rd := true }
def Acc.write : Acc := { wr := true }
def Acc.both : Acc := { rd := true, wr := true }
def Acc.fetch : Acc := { ex := true }

/-! ## Range registers -/

/-- Range `j` is valid and covers 64 KiB block `blk` of the VA space (R12). -/
def Ctx.hits (c : Ctx) (blk j : Nat) : Bool :=
  match c.base[j]?, c.lim[j]?, c.ctl[j]? with
  | some b, some l, some t => t.getLsbD 0 && decide (b.toNat ≤ blk) && decide (blk ≤ l.toNat)
  | _, _, _ => false

/-- The permission of `acc` at a level under a range's control word (R11, R13). -/
def rangeAllows (t : BitVec 8) (lvl : Level) (acc : Acc) : Bool :=
  (!acc.rd || t.getLsbD 1) && (!acc.wr || t.getLsbD 2) && (!acc.ex || t.getLsbD 3) &&
  (decide (lvl ≠ .app) || t.getLsbD 4) && (!acc.eng || t.getLsbD 5)

/-- The issuing unit's translation of `n` bytes at `va` (R12): the IA and the range's `cattr`. -/
def issue (c : Ctx) (lvl : Level) (va : W64) (n : Nat) (acc : Acc) : Except Flt (Nat × BitVec 2) :=
  let v := va.toNat
  if 2 ^ 48 ≤ v then .error { code := 0x20, tval := va }
  else match (upto 16).find? (c.hits (v / 2 ^ 16)) with
    | none => .error { code := 0x21, tval := va }
    | some j =>
      let base := ((c.base[j]?).getD 0).toNat
      let lim := ((c.lim[j]?).getD 0).toNat
      let t := (c.ctl[j]?).getD 0
      let last := v + (n - 1)
      if 2 ^ 48 ≤ last ∨ lim < last / 2 ^ 16 then .error { code := 0x2C, tval := va }
      else if !rangeAllows t lvl acc then .error { code := 0x22, tval := va }
      else
        let ia := v - base * 2 ^ 16 + ((c.off[j]?).getD 0).toNat * 2 ^ 16
        if 2 ^ 52 ≤ ia + (n - 1) then .error { code := 0x23, tval := va }
        else .ok (ia, t.extractLsb' 6 2)

/-! ## The IA map -/

/-- The windows of the IA space (R15), each with the offset of the byte. -/
inductive Win where
  | trans
  | lantern (stack off : Nat)
  | sram (cluster off : Nat)
  | dev (stack off : Nat)
  | peer (part off : Nat)
  | host (port off : Nat)
  deriving DecidableEq, Repr

/-- The window an IA lies in; `own` is the part's own number, whose peer window is a hole (R15, R18). -/
def winOf (own ia : Nat) : Option Win :=
  let top := ia / 2 ^ 48
  let o := ia % 2 ^ 48
  if top = 0 then some .trans
  else if top = 8 then
    (if o < 2 ^ 36 ∧ o % 2 ^ 32 < 2 ^ 28 then some (.lantern (o / 2 ^ 32) (o % 2 ^ 32)) else none)
  else if top = 9 then (if o < 2 ^ 29 then some (.sram (o / 2 ^ 24) (o % 2 ^ 24)) else none)
  else if top = 10 then (if o < 2 ^ 28 then some (.dev (o / 2 ^ 24) (o % 2 ^ 24)) else none)
  else if top = 12 then (if o / 2 ^ 40 = own then none else some (.peer (o / 2 ^ 40) (o % 2 ^ 40)))
  else if top = 14 then some (.host (o / 2 ^ 46) (o % 2 ^ 46))
  else none

/-- Two bytes lie in one window: the same extent of R15. -/
def Win.same : Win → Win → Bool
  | .trans, .trans => true
  | .lantern a _, .lantern b _ => decide (a = b)
  | .sram a _, .sram b _ => decide (a = b)
  | .dev a _, .dev b _ => decide (a = b)
  | .peer a _, .peer b _ => decide (a = b)
  | .host a _, .host b _ => decide (a = b)
  | _, _ => false

/-- The part's own number (R473). -/
def State.ownPart (s : State) : Nat := (s.getStk 0).glPart.toNat

/-- A part number is in the current gang: some Glowline port has exchanged part numbers with that part since reset, whether or not its
link is up now. DEDUCED (log 84): the spec names no other register that lists the gang (R18, R24, R472, R473). -/
def State.inGang (s : State) (p : Nat) : Bool :=
  (upto 64).any (fun q => (s.getGlow q).met && decide ((s.getGlow q).peer.toNat = p))

/-- A peer part can be reached: some ACTIVE port joins it (R18, R472). -/
def State.peerUp (s : State) (p : Nat) : Bool :=
  (upto 64).any (fun q => decide ((s.getGlow q).state = 2) && decide ((s.getGlow q).peer.toNat = p) &&
    !s.fenced (q / 4))

/-- A port of the 0xE window can be used (R19, R462). -/
def State.portUp (s : State) (q : Nat) : Bool :=
  (s.getPort q).up && decide ((s.getPort q).inForce ≠ 2) && decide ((s.getPort q).inForce ≠ 3)

/-- The checks of R16 to R19 and R454 on the window of an access: a hole, the attribute of the 0xA window (R17), a
straddle, a link that is down, a fenced target. -/
def State.window (s : State) (va : W64) (ia n : Nat) (attr : BitVec 2) : Except Flt Win :=
  match winOf s.ownPart ia with
  | none => .error { code := 0x24, tval := va, ia := ia }
  | some w =>
    let isDev := match w with | .dev _ _ => true | _ => false
    if isDev && decide (attr ≠ 3) then .error { code := 0x22, tval := va, ia := ia }
    else if !(match winOf s.ownPart (ia + (n - 1)) with | some u => w.same u | none => false) then
      .error { code := 0x2C, tval := va, ia := ia }
    else
      let down := match w with | .peer p _ => !s.peerUp p | .host q _ => !s.portUp q | _ => false
      let fen := match w with
        | .lantern k _ => s.fenced k
        | .sram c _ => s.fenced (c / 2)
        | .dev k _ => s.fenced k
        | .host q _ => s.fenced (5 * q)
        | _ => false
      if down then .error { code := 0x2D, tval := va, ia := ia }
      else if fen then .error { code := 0x34, tval := va, ia := ia }
      else .ok w

/-- The same for an access that the 0xA, 0xC and 0xE windows do not take: an atomic step (R69) or a vector element (R339). Their
cause 0x22 comes before those of R16 (R34). -/
def State.plainWindow (s : State) (va : W64) (ia n : Nat) (attr : BitVec 2) : Except Flt Win :=
  match winOf s.ownPart ia with
  | some (.dev _ _) | some (.peer _ _) | some (.host _ _) => .error { code := 0x22, tval := va, ia := ia }
  | _ => s.window va ia n attr

/-! ## Home stacks (R20, R21) -/

/-- The granule shift of a region's `gran`. -/
def granShift (g : Nat) : Nat := if g = 0 then 16 else if g = 1 then 21 else 29

/-- The k-th set bit of a mask, counting from bit 0 with k = 0 first. -/
def nthSet (mask : Nat) : Nat → Nat → Nat → Nat
  | 0, i, _ => i
  | f + 1, i, k => if mask / 2 ^ i % 2 = 1 then (if k = 0 then i else nthSet mask f (i + 1) (k - 1)) else nthSet mask f (i + 1) k

/-- The descriptor of the region of an IA. -/
def State.region (s : State) (ia : Nat) : Nat := (sget 0 s.regions (ia / 2 ^ 36 % 4096)).toNat

/-- The stack mask of a region descriptor. -/
def regionMask (d : Nat) : Nat := bitsOf d 23 8

/-- The home stack of a translated IA (R21), or none where the region is invalid (R20). -/
def homeIn (d ia : Nat) : Option Nat :=
  if bitOf d 0 = false ∨ bitsOf d 2 1 = 3 ∨ regionMask d = 0 then none
  else
    let g := ia % 2 ^ 48 / 2 ^ granShift (bitsOf d 2 1)
    let h := (g % 2 ^ 16) ^^^ (g / 2 ^ 16 % 2 ^ 16) ^^^ (g / 2 ^ 32 % 2 ^ 16)
    some (nthSet (regionMask d) 16 0 (h % popcount 16 (regionMask d)))

def State.home (s : State) (ia : Nat) : Option Nat := homeIn (s.region ia) ia

/-! ## Table entries (R23 to R27) -/

/-- Page size in bytes of a size code (R32). -/
def pageSize (c : Nat) : Nat :=
  if c = 0 then 2 ^ 16 else if c = 1 then 2 ^ 20 else if c = 2 then 2 ^ 21 else if c = 3 then 2 ^ 26 else 2 ^ 29

/-- Bits 51:16 of the frame of an entry (R23). -/
def pteFrame (e : Nat) : Nat := bitsOf e 59 24
def pteTier (e : Nat) : Nat := bitsOf e 5 4
def pteContig (e : Nat) : Nat := bitsOf e 14 13
def ptePlanar (e : Nat) : Bool := bitOf e 7
def pteRepl (e : Nat) : Bool := bitOf e 8
def pteEnc (e : Nat) : Bool := bitOf e 9
def pteGen (e : Nat) : Bool := bitOf e 10
def ptePoison (e : Nat) : Bool := bitOf e 11
def pteRetired (e : Nat) : Bool := bitOf e 12
def pteMod (e : Nat) : Bool := bitOf e 16
def pteKslot (e : Nat) : Nat := bitsOf e 22 17

/-- The size code of a leaf at a level (R25): L1 512 MiB; L0 by `contig`. -/
def leafSize (level e : Nat) : Nat := if level = 1 then 4 else pteContig e

/-- The number of low frame bits below the page size. -/
def frameLow (c : Nat) : Nat := if c = 0 then 0 else if c = 1 then 4 else if c = 2 then 5 else if c = 3 then 10 else 13

/-- The placement and format rules a leaf keeps, else cause 0x28 (R24, R25, R26 and the 0x28 rows of R27). -/
def State.leafFormat (s : State) (level ia e : Nat) : Bool :=
  let c := leafSize level e
  let tier := pteTier e
  let place :=
    if level = 1 then decide (pteContig e = 0) && decide (pteFrame e % 2 ^ 13 = 0)
    else if level = 0 then decide (pteFrame e % 2 ^ frameLow c = ia / 2 ^ 16 % 2 ^ frameLow c) || decide (c = 0)
    else false
  let form :=
    if tier = 0 then decide (pteFrame e / 2 ^ 24 = 0)
    else if tier = 1 then decide (pteFrame e * 2 ^ 16 < 0x30000000000)
    else if tier = 2 then
      (decide ((s.getPort (pteFrame e / 2 ^ 34)).inForce = 0) || decide ((s.getPort (pteFrame e / 2 ^ 34)).inForce = 1))
    else s.inGang (bitsOf e 63 56) && decide (bitsOf e 63 56 ≠ s.ownPart)
  place && form && !bitOf e 23 &&
    !(ptePlanar e && decide (tier ≠ 0)) && !(ptePlanar e && decide (pteContig e ≠ 1)) &&
    !(decide (pteContig e = 1) && decide (level = 0) && !ptePlanar e) && !(ptePlanar e && pteRepl e) &&
    !(pteRepl e && decide (tier ≠ 0)) && !(pteEnc e && decide (tier = 3))

/-- The key of a byte under a leaf entry (R24). -/
def keyUnder (e size ia : Nat) : Nat :=
  let fr := pteFrame e / 2 ^ frameLow size * 2 ^ frameLow size
  let o := ia % pageSize size
  if pteTier e = 0 then fr * 2 ^ 16 + o
  else if pteTier e = 1 then keySecond + fr * 2 ^ 16 + o
  else if pteTier e = 2 then keyFar + fr * 2 ^ 16 + o
  else keyPeer + bitsOf e 63 56 * 2 ^ 48 + (bitsOf e 55 24 / 2 ^ frameLow size * 2 ^ frameLow size) * 2 ^ 16 + o

/-- The outcome of a walk: a fault with its level, or the leaf with its level and its own key. -/
inductive Walk where
  | fault (code level : Nat)
  | leaf (e level key : Nat)
  deriving DecidableEq, Repr

/-- The address of an entry in the HBM form of R24, or none (R22). -/
def hbmForm (pa : Nat) : Bool := decide (pa < 2 ^ 40)

/-- A table entry, from the table-entry cache of a stack or from memory (R30). -/
def State.entryAt (s : State) (k key : Nat) (cached : Bool) : Nat :=
  match (if cached then (s.getStk k).tec.find? (fun q => q.1 = key) else none) with
  | some q => q.2.toNat
  | none => memRead s.mem key 8

/-- The walk of an IA on a stack's tree (R22 to R26): L2, L1, then L0, ending at the level where it maps or faults. -/
def State.walk (s : State) (k ia : Nat) : Walk :=
  let t := s.getStk k
  if !t.trootV then .fault 0x26 2
  else
    let root := t.troot.toNat * 2 ^ 13
    if !hbmForm root then .fault 0x28 2
    else
      let k2 := root + 8 * (ia / 2 ^ 42 % 1024)
      let e2 := s.entryAt k k2 true
      if !bitOf e2 0 then .fault 0x26 2
      else if bitOf e2 6 ∨ bitOf e2 23 ∨ !hbmForm (pteFrame e2 * 2 ^ 16) then .fault 0x28 2
      else
        let k1 := pteFrame e2 * 2 ^ 16 + 8 * (ia / 2 ^ 29 % 8192)
        let e1 := s.entryAt k k1 true
        if !bitOf e1 0 then .fault 0x26 1
        else if bitOf e1 6 then (if s.leafFormat 1 ia e1 then .leaf e1 1 k1 else .fault 0x28 1)
        else if bitOf e1 23 ∨ !hbmForm (pteFrame e1 * 2 ^ 16) then .fault 0x28 1
        else
          let k0 := pteFrame e1 * 2 ^ 16 + 8 * (ia / 2 ^ 16 % 8192)
          let e0 := s.entryAt k k0 false
          if !bitOf e0 0 then .fault 0x26 0
          else if !bitOf e0 6 then .fault 0x28 0
          else if s.leafFormat 0 ia e0 then .leaf e0 0 k0
          else .fault 0x28 0

/-- The entries of L2 and L1 that a walk reads enter the table-entry cache (R30), the oldest of 4,096 leaving it. -/
def State.cacheEntries (s : State) (k ia : Nat) : State :=
  let t := s.getStk k
  let root := t.troot.toNat * 2 ^ 13
  let k2 := root + 8 * (ia / 2 ^ 42 % 1024)
  let e2 := s.entryAt k k2 true
  let k1 := pteFrame e2 * 2 ^ 16 + 8 * (ia / 2 ^ 29 % 8192)
  let e1 := s.entryAt k k1 true
  let add (l : List (Nat × W64)) (key e : Nat) : List (Nat × W64) :=
    if bitOf e 0 && !l.any (fun q => q.1 = key) then (key, BitVec.ofNat 64 e) :: l.take 4095 else l
  let l := add t.tec k2 e2
  let l := if bitOf e2 0 && !bitOf e2 6 then add l k1 e1 else l
  s.setStk k { t with tec := l }

/-- The cached translation that covers an IA (R29). -/
def Stack.cached (t : Stack) (ia : Nat) : Option Trans :=
  t.tc.find? (fun q => decide (q.ia ≤ ia) && decide (ia < q.ia + pageSize q.size))

/-- A page of the stack that a `MIGCTL` register holds covers the IA (R44). -/
def State.migHeld (s : State) (k ia : Nat) : Bool :=
  (upto 4).any (fun i =>
    let m := s.getMig k i
    m.held && decide (m.ia.toNat * 2 ^ 16 ≤ ia) && decide (ia < m.ia.toNat * 2 ^ 16 + pageSize m.size.toNat))

/-- The translation of a 64 KiB unit at a home: the leaf and its size, a fault, or a wait on a held page (R44). -/
inductive Tr where
  | ok (pte size : Nat)
  | fault (code level : Nat)
  | hold
  deriving DecidableEq, Repr

/-- The request checks against a leaf in the order of R34: retirement, then the planar-encryption conflict, page
permission, key, and poison (R27). -/
def pteChecks (e : Nat) (lvl : Level) (vf : Nat) (acc : Acc) : Option Nat :=
  if pteRetired e then some 0x2B
  else if ptePlanar e && pteEnc e then some 0x29
  else if (acc.rd && !bitOf e 1) || (acc.wr && !bitOf e 2) || (acc.ex && !bitOf e 3) then some 0x27
  else if pteEnc e && decide (vf ≠ pteKslot e) then some 0x2E
  else if ptePoison e && !(decide (lvl = .mon) && acc.wr && !acc.rd && !acc.ex) then some 0x2A
  else none

/-- The link a leaf's frame is reached by cannot be used (R18, R19, R472): a peer whose every path is down, or a port of the far tier. -/
def State.linkDown (s : State) (e : Nat) : Bool :=
  (decide (pteTier e = 3) && !s.peerUp (bitsOf e 63 56)) || (decide (pteTier e = 2) && !s.portUp (pteFrame e / 2 ^ 34))

/-- The checks of an access against a leaf in the order of R34: the link of its frame, then those of the entry. -/
def State.leafChecks (s : State) (e : Nat) (lvl : Level) (vf : Nat) (acc : Acc) : Option Nat :=
  if s.linkDown e then some 0x2D else pteChecks e lvl vf acc

/-- The level at which the walk of a cached translation ended (R42): L1 for a 512 MiB page, else L0. -/
def Trans.level (q : Trans) : Nat := if q.size = 4 then 1 else 0

/-- The leaf that maps an IA at a stack, with its page size and its level, from the translation cache or by a walk (R27 to R29); or the cause and
the level of a walk that faults. A first walk sets `ref` in the leaf and the entry enters the translation cache, the oldest of 65,536 leaving
it, but for a leaf with `planar` and `enc`. -/
def State.leafAt (s : State) (k ia : Nat) : State × Except (Nat × Nat) (Nat × Nat × Nat) :=
  match (s.getStk k).cached ia with
  | some q => (s, .ok (q.pte.toNat, q.size, q.level))
  | none => match s.walk k ia with
    | .fault c l => (s.cacheEntries k ia, .error (c, l))
    | .leaf e level key =>
      let s := s.cacheEntries k ia
      let size := leafSize level e
      if ptePlanar e && pteEnc e then (s, .ok (e, size, level))
      else
        let e' := if bitOf e 15 then e else e + 2 ^ 15
        let s := { s with mem := memWrite s.mem key 8 e' }
        let q : Trans := { ia := ia / pageSize size * pageSize size, size := size, pte := BitVec.ofNat 64 e' }
        (s.setStk k { s.getStk k with tc := q :: (s.getStk k).tc.take 65535 }, .ok (e', size, level))

/-- Translation at stack `k` of the unit that holds `ia`, with its checks (R27 to R29). -/
def State.translateAt (s : State) (k ia : Nat) (lvl : Level) (vf : Nat) (acc : Acc) : State × Tr :=
  if s.migHeld k ia then (s, .hold)
  else match s.leafAt k ia with
    | (s, .error (c, l)) => (s, .fault c l)
    | (s, .ok (e, size, level)) => match s.leafChecks e lvl vf acc with
      | some c => (s, .fault c level)
      | none => (s, .ok e size)

/-- The first write against an entry whose `mod` is 0 sets it, in the table and in the cache (R28). -/
def State.setMod (s : State) (k ia pte : Nat) : State :=
  if pteMod pte then s
  else match s.walk k ia with
    | .leaf e _ key =>
      let e2 := if pteMod e then e else e + 2 ^ 16
      let s := { s with mem := memWrite s.mem key 8 e2 }
      let hit (q : Trans) : Bool := decide (q.ia ≤ ia) && decide (ia < q.ia + pageSize q.size)
      let tc := modList hit (fun q => { q with pte := q.pte ||| (1#64 <<< 16) }) (s.getStk k).tc
      s.setStk k { s.getStk k with tc := tc }
    | .fault _ _ => s

/-- The replica that serves a read of an IA from a stack (R78): the stack itself if it is in the mask and not fenced, else
the one fewest mesh hops away, the lowest number among equals. The mesh's distances are open (log 20). -/
def State.replicaOf (s : State) (src mask : Nat) : Nat :=
  let cand := (upto 16).filter (fun k => bitOf mask k && !s.fenced k)
  if nmem src cand then src
  else cand.foldl (fun best k => if Config.meshHops src k < Config.meshHops src best then k else best) (cand.headD 0)

end Sys2Proof.Machine
end

