-- ==== Sys2Proof/Machine/Gens.lean ====
section
/-! DEFINITION. Memory generations (R112 to R131, R506): the units and what they have adopted, tags, and a write to a tracked
block with the preservation it may need. -/
namespace Sys2Proof.Machine

/-! ## Units (R114) -/

def unitCache (c : Nat) : Nat := 10000 + c
def unitSram (c : Nat) : Nat := 10100 + c
def unitLantern (k : Nat) : Nat := 10200 + k
def unitCopy (e : Nat) : Nat := 10300 + e
def unitAtomic (k : Nat) : Nat := 10400 + k
def unitHbm (k : Nat) : Nat := 10500 + k
def unitSecond (k : Nat) : Nat := 10600 + k
def unitFar (k : Nat) : Nat := 10700 + k
def unitGlow (p : Nat) : Nat := 10800 + p
def unitHost (q : Nat) : Nat := 10900 + q

/-- The stack a unit stands on. -/
def unitStack (u : Nat) : Nat :=
  if u < 10000 then stackOf u
  else if u < 10100 then (u - 10000) / 2
  else if u < 10200 then (u - 10100) / 2
  else if u < 10300 then u - 10200
  else if u < 10400 then (u - 10300) / 4
  else if u < 10500 then u - 10400
  else if u < 10600 then u - 10500
  else if u < 10700 then u - 10600
  else if u < 10800 then u - 10700
  else if u < 10900 then (u - 10800) / 4
  else 5 * (u - 10900)

/-- Every generation unit of the part: the bound harts and the fixed units (R114). -/
def State.units (s : State) : List Nat :=
  (s.hart :: s.harts).map (·.place) ++ upFrom 10000 32 ++ upFrom 10100 32 ++ upFrom 10200 16 ++ upFrom 10300 64 ++
    upFrom 10400 16 ++ upFrom 10500 16 ++ upFrom 10600 16 ++ upFrom 10700 16 ++ upFrom 10800 64 ++ upFrom 10900 4

/-- The current generation of a unit: the device's, or the one before for a unit that has not adopted it (R114, R116). -/
def State.unitGen (s : State) (u : Nat) : BitVec 32 := if nmem u s.gens.lag then s.gens.dev - 1 else s.gens.dev

/-- `a` is `b` or older, modulo 2^32 (R115). -/
def genLe (a b : BitVec 32) : Bool := decide ((b - a).toNat < 2 ^ 31)
/-- The newer of two generations. -/
def genMax (a b : BitVec 32) : BitVec 32 := if genLe a b then b else a

/-- A unit adopts the device generation (R116): a hart's `gen` changes; a unit with nothing to write back acknowledges at
once, a cluster cache after its sweep (R125). -/
def State.adopt (s : State) (u : Nat) : State :=
  if nmem u s.gens.lag then
    let s := { s with gens := { s.gens with lag := nrem u s.gens.lag } }
    let s := if u < 10000 then s.onHart u (fun h => { h with gen := s.gens.dev }) else s
    if unitCache 0 ≤ u ∧ u < unitCache 32 then s.post (.writebackAck (u - 10000)) else s.post (.settleAck u)
  else s

/-- A tagged message passes from one unit to another: a receiver with an older generation adopts the newer (R116). -/
def State.message (s : State) (src dst : Nat) : State := if nmem src s.gens.lag then s else s.adopt dst

/-- The controller that owns the memory of a key (R113): an HBM die's stack, else the home's. -/
def controllerOf (key home : Nat) : Nat :=
  if key < keySecond then unitHbm (key / 2 ^ 36 % 16) else if key < keyLantern then unitSecond home else unitFar home

/-! ## Blocks and reserve frames (R112, R122, R129) -/

def State.getBlock (s : State) (i b : Nat) : Block := sget {} s.gens.blocks (2 * b + i)
def State.setBlock (s : State) (i b : Nat) (v : Block) : State :=
  { s with gens := { s.gens with blocks := sset {} s.gens.blocks (2 * b + i) v } }
def State.setGSlot (s : State) (i : Nat) (v : GSlot) : State := { s with gens := s.gens.setSlot i v }
def State.getFrame (s : State) (f : Nat) : Option Frame := s.gens.frames.find? (fun r => r.id = f)
def State.onFrame (s : State) (f : Nat) (g : Frame → Frame) : State :=
  { s with gens := { s.gens with frames := modList (fun r => r.id = f) g s.gens.frames } }

/-- The snapshot slots that still have blocks to keep: SETTLING or DRAINING (R122). -/
def State.slotsInUse (s : State) : List Nat :=
  [0, 1].filter (fun i => decide ((s.gens.slot i).state = 1) || decide ((s.gens.slot i).state = 2))

/-- A leaf maps a tracked block (R112). -/
def pteTracked (e : Nat) : Bool := pteGen e && decide (pteTier e ≠ 3)

/-- The leaf and size that map an IA at its home, or at the sequencer of a replicated page, with no effect (R126). -/
def State.peekLeaf (s : State) (ia : Nat) : Option (Nat × Nat × Nat) :=
  match s.home ia with
  | none => none
  | some k =>
    let at_ (k : Nat) : Option (Nat × Nat × Nat) :=
      match (s.getStk k).cached ia with
      | some q => some (k, q.pte.toNat, q.size)
      | none => match s.walk k ia with
        | .leaf e l _ => some (k, e, leafSize l e)
        | .fault _ _ => none
    match at_ k with
    | some (k', e, sz) => if pteRepl e then at_ (bitsOf (s.region ia) 6 3) else some (k', e, sz)
    | none => none

/-- The key of an IA of the translated window, with no effect. -/
def State.peekKey (s : State) (ia : Nat) : Option Nat := (s.peekLeaf ia).map (fun q => keyUnder q.2.1 q.2.2 ia)

/-- The preserved copies of the blocks of a page move with it to the reserve of its present frame (R113). -/
def State.moveFrames (s : State) (ia n : Nat) : State :=
  let there (fr : Frame) : Bool := decide (ia / 65536 ≤ fr.block) && decide (fr.block < (ia + n) / 65536)
  let newDie (fr : Frame) : Nat := match s.peekKey (fr.block * 65536) with
    | some key => if key < keySecond then keyDie key else 256
    | none => fr.die
  { s with gens := { s.gens with frames := modList there (fun fr => { fr with die := newDie fr }) s.gens.frames } }

/-- Reserve frames a die has (R129): `rsv` × 16 MiB in frames of 72 KiB. -/
def State.hbmFrames (s : State) (d : Nat) : Nat := min 128 (s.getStk (d / 16)).gsctlRsv.toNat * 2 ^ 24 / 73728

/-- The second-tier region of a `GSRES2`-shaped register as (base, size) in GiB (R136). -/
def tierRegion (r : BitVec 28) : Nat × Nat :=
  let b := (r.extractLsb' 0 12).toNat
  let n := (r.extractLsb' 16 12).toNat
  if 3072 < b + n then (b, 0) else (b, n)

def State.secondFrames (s : State) : Nat := (tierRegion (s.getStk 0).gsres2).2 * 2 ^ 30 / 73728

/-- Free frames of a reserve: 256 is the second tier (R129). -/
def State.freeFrames (s : State) (d : Nat) : Nat :=
  (if d = 256 then s.secondFrames else s.hbmFrames d) - (s.gens.frames.filter (fun f => f.die = d)).length

/-- The reserve that a block's preservation uses: its own die or another of the stack, or the second tier (R123). -/
def State.reserveFor (s : State) (key : Nat) : Option Nat :=
  if key < keySecond then
    let d := keyDie key
    ((d :: upFrom (d / 16 * 16) 16).find? (fun e => decide (0 < s.freeFrames e)))
  else if 0 < s.freeFrames 256 then some 256 else none

/-- A block's record and the frames that serve its slots, once slot `i` needs its frame no longer (R130). -/
def State.leaveFrame (s : State) (f i : Nat) : State :=
  let s := s.onFrame f (fun q => { q with slots := nrem i q.slots })
  match s.getFrame f with
  | some q => if q.slots = [] then s.postOnce (.reserveFrameFreed f) else s
  | none => s

/-- The reading of a row for a preservation: a normal access that no lock holds (R96, R98). -/
def rowWait (f key : Nat) : SlotWait := { unit := unitHbm (key / 2 ^ 36 % 16), cmd := f, key := key, len := 1024, ctx := 2 ^ 40, free := true }

/-- One 1 KiB row of a preservation is copied as it is stored: its bytes, poisoned words, bad symbols, keys and stale flag (R123, R127). False:
it waits for its slots (R97). -/
def State.copyRow (s : State) (f r : Nat) : State × Bool :=
  match s.getFrame f with
  | none => (s, true)
  | some fr =>
    if fr.rows.getLsbD r then (s, true)
    else
      match s.peekKey (fr.block * 2 ^ 16) with
      | none => (s.onFrame f (fun q => { q with rows := q.rows ||| (1#64 <<< r) }), true)
      | some key => match s.turnTaken (rowWait f (key + 1024 * r)) with
        | (s, false) => (s, false)
        | (s, true) =>
          let offs := upFrom (r * 1024) 1024
          let bytes := offs.foldl (fun m o => memSet m o (s.byteAt (key + o))) fr.bytes
          let psn := if s.psn = [] then fr.psn else offs.foldl (fun l o => if nmem (wordBase (key + o)) s.psn then nins o l else l) fr.psn
          let ecc := if s.ecc = [] then fr.ecc else offs.foldl (fun m o => sset 0 m o (sget 0 s.ecc (key + o))) fr.ecc
          let enc := (upto 16).foldl (fun m i => sset 0 m (16 * r + i) (sget 0 s.encKey (key / 64 + 16 * r + i))) fr.enc
          let stale := if decide (key < keySecond) && nmem (key / 1024 + r) s.stale then fr.stale ||| (1#64 <<< r) else fr.stale
          (s.onFrame f (fun q => { q with rows := q.rows ||| (1#64 <<< r), bytes := bytes, psn := psn, enc := enc, ecc := ecc, stale := stale }), true)

/-- Rows of a preservation are copied, as far as they can be. -/
def State.copyRows (s : State) (f : Nat) : List Nat → State × Bool
  | [] => (s, true)
  | r :: l => match s.copyRow f r with
    | (s, true) => State.copyRows s f l
    | q => q

/-! ## The words of a reserve frame, as a controller reads and writes them (R101 to R104, R127, R449) -/

/-- A word of a frame is read through its code; `w` is its offset and `key` that of the block. -/
def Frame.decode (key : Nat) (fr : Frame) (w : Nat) : Frame :=
  let e := sget 0 fr.ecc w
  if e = 0 then fr
  else
    let f0 : Frame := { fr with ecc := sset 0 fr.ecc w 0 }
    let ks := upFrom w (wordSize (key + w))
    if badSymbols e = 1 then f0
    else if badSymbols e = 2 ∨ (badSymbols e = 3 ∧ key < keySecond) ∨ Config.eccDetected e then { f0 with psn := ks.foldl (fun l o => nins o l) f0.psn }
    else { f0 with bytes := ks.foldl (fun m o => memSet m o (memGet m o ^^^ Config.badData (o - w) e)) f0.bytes }

/-- ECR on a stale row of a frame. -/
def Frame.ecr (fr : Frame) (r : Nat) : Frame :=
  if fr.stale.getLsbD r then
    let ws := (upto 32).map (fun i => 1024 * r + 32 * i)
    let fr := ws.foldl (fun (q : Frame) w =>
      let e := sget 0 q.ecc w
      if e = 0 then q
      else { q with ecc := sset 0 q.ecc w 0
                    bytes := (upFrom w 32).foldl (fun m o => memSet m o (memGet m o ^^^ Config.rawError (o - w) e)) q.bytes }) fr
    { fr with stale := fr.stale &&& ~~~(1#64 <<< r) }
  else fr

/-- The rows of a block that bytes at offsets touch. -/
def rowsTouched (offs : List Nat) : List Nat := offs.foldl (fun l o => nins (o / 1024) l) []

/-- What a normal access does to the words and rows of a frame that it touches. -/
def Frame.touch (key : Nat) (fr : Frame) (offs : List Nat) : Frame :=
  let fr := if fr.stale = 0 then fr else (rowsTouched offs).foldl Frame.ecr fr
  if fr.ecc = [] then fr
  else (offs.foldl (fun l o => nins (wordBase (key + o) - key) l) []).foldl (Frame.decode key) fr

/-- Lines of a frame written under another key are read and rewritten under `want` before a part of them is written (R471). -/
def Frame.rekey (key want : Nat) (fr : Frame) (offs : List Nat) : Frame :=
  (offs.foldl (fun l o => nins (o / 64) l) []).foldl (fun (q : Frame) l =>
    let e := sget 0 q.enc l
    if e = want then q
    else { q with enc := sset 0 q.enc l want
                  bytes := (upFrom (64 * l) 64).foldl (fun m o => memSet m o (Config.scrambled (key + o) e want)) q.bytes }) fr

/-- Bytes written in a frame (R124): a poisoned word covered whole is cleared, one covered in part keeps its bytes (R449); the words of the
offsets `bad` become poisoned. -/
def Frame.write (key want : Nat) (fr : Frame) (kvs : List (Nat × Byte)) (bad : List Nat) : Frame :=
  let offs := kvs.map (·.1)
  let fr := (fr.touch key offs).rekey key want offs
  let word (o : Nat) : List Nat := upFrom (wordBase (key + o) - key) (wordSize (key + o))
  let whole (o : Nat) : Bool := (word o).all (fun k => nmem k offs)
  let go := kvs.filter (fun e => !nmem e.1 fr.psn || whole e.1)
  let psn := if fr.psn = [] then [] else fr.psn.filter (fun o => !(nmem o offs && whole o))
  { fr with bytes := go.foldl (fun m e => memSet m e.1 e.2) fr.bytes
            psn := (bad.flatMap word).foldl (fun l o => nins o l) psn }

/-! ## Preservation (R122, R123, R131, R506) -/

/-- A preservation for the given slots starts: a frame, and its rows as the copy goes on (R123). -/
def State.preserve (s : State) (b : Nat) (slots : List Nat) (die : Nat) : State :=
  let (f, s) := s.fresh
  let fr : Frame := { id := f, block := b, die := die, slots := slots, rows := 0, mask := [], bytes := [], psn := [], enc := [] }
  let s := { s with gens := { s.gens with frames := s.gens.frames ++ [fr] } }
  (slots.foldl (fun t i =>
    let t := t.setBlock i b { st := .PR, frame := some f }
    t.setGSlot i { t.gens.slot i with stalls := (t.gens.slot i).stalls.filter (fun q => decide (q.1 ≠ b)) }) s).post (.preserveRowCopied f)

/-- A write to block `b` waits for a reserve frame: the slots set `exh`, and its wait begins (R131). -/
def State.exhaust (s : State) (b : Nat) (slots : List Nat) : State :=
  slots.foldl (fun t i =>
    let g := t.gens.slot i
    if g.stalls.any (fun q => decide (q.1 = b)) then t
    else (t.setGSlot i { g with exh := true, stalls := g.stalls ++ [(b, t.tick)] }).postOnce (.reserveTimeout i)) s

/-- A block is lost to a slot (R131). -/
def State.loseBlock (s : State) (b i : Nat) : State :=
  let s := match (s.getBlock i b).frame with
    | some f => s.leaveFrame f i
    | none => s
  let g := s.gens.slot i
  (s.setBlock i b { st := .LO, frame := none }).setGSlot i
    { g with lost := g.lost + 1, stalls := g.stalls.filter (fun q => decide (q.1 ≠ b)) }

/-- The frame of a block that serves slot `i`, for which a write is late, and another slot, for which it is newer, is copied with its mask into
a frame that serves slot `i` alone (R506). False: no frame is free. -/
def State.splitFrame (s : State) (b i : Nat) (newer : Nat → Bool) : State × Bool :=
  match (s.getBlock i b).frame.bind s.getFrame with
  | none => (s, true)
  | some fr =>
    if !fr.slots.any newer then (s, true)
    else if (s.gens.slot i).timedOut then (s.loseBlock b i, true)
    else match (s.peekKey (b * 2 ^ 16)).bind s.reserveFor with
      | none => (s.exhaust b [i], false)
      | some d =>
        let (n, s) := s.fresh
        let s := { s with gens := { s.gens with frames := s.gens.frames ++ [{ fr with id := n, die := d, slots := [i] }] } }
        let s := (s.onFrame fr.id (fun q => { q with slots := nrem i q.slots, mask := [] })).setBlock i b { st := .PR, frame := some n }
        ((s.setGSlot i { s.gens.slot i with stalls := (s.gens.slot i).stalls.filter (fun q => decide (q.1 ≠ b)) }).post (.preserveRowCopied n), true)

/-- A step for each of some slots, as far as they can be taken. -/
def State.eachSlot (s : State) (f : State → Nat → State × Bool) : List Nat → State × Bool
  | [] => (s, true)
  | i :: l => match f s i with
    | (s, true) => State.eachSlot s f l
    | r => r

/-- What a write tagged `tag` to block `b` at the given offsets needs first (R122, R123, R131, R506): its preservation, a frame of its own where it
is late for one of the slots that share one, and the copies of the rows it touches. False: it still waits. -/
def State.prepareBlock (s : State) (b : Nat) (offs : List Nat) (tag : BitVec 32) : State × Bool :=
  let use_ := s.slotsInUse
  let newer (i : Nat) : Bool := !genLe tag (s.gens.slot i).g
  let need := use_.filter (fun i => decide ((s.getBlock i b).st = .SH) && newer i)
  let lost := need.filter (fun i => (s.gens.slot i).timedOut)
  let s := lost.foldl (fun t i => t.loseBlock b i) s
  let need := need.filter (fun i => !nmem i lost)
  let r : State × Bool :=
    if need = [] then (s, true)
    else match s.peekKey (b * 2 ^ 16) with
      | none => (s, true)
      | some key => match s.reserveFor key with
        | some d => (s.preserve b need d, true)
        | none => (s.exhaust b need, false)
  if r.2 = false then r
  else
    let s := r.1
    match s.eachSlot (fun t i => t.splitFrame b i newer) (use_.filter (fun i => decide ((s.getBlock i b).st = .PR) && !newer i)) with
    | (s, false) => (s, false)
    | (s, true) => s.eachSlot (fun t i => match (t.getBlock i b).st, (t.getBlock i b).frame with
        | .PR, some f => t.copyRows f (rowsTouched offs)
        | _, _ => (t, true)) use_

/-- The byte offsets of a block that a late write leaves alone in live memory: those written newer (R124). -/
def State.maskedOffs (s : State) (b : Nat) (tag : BitVec 32) : List Nat :=
  (s.slotsInUse.filter (fun i => decide ((s.getBlock i b).st = .PR) && genLe tag (s.gens.slot i).g)).foldl
    (fun l i => match (s.getBlock i b).frame with
      | some f => (match s.getFrame f with | some fr => l ++ fr.mask | none => l)
      | none => l) []

/-- The frames and live bytes of a prepared write tagged `tag` (R122, R124): a late write goes whole to the frames of the
slots it is late for, and to live memory where no newer byte lies; a newer write marks its bytes until settle. `bad` are the
offsets of poisoned bytes. -/
def State.applyTracked (s : State) (b : Nat) (kvs : List (Nat × Nat × Byte)) (bad : List Nat) (tag : BitVec 32) (enc : Option Nat)
    (home : Nat) : State :=
  let use_ := s.slotsInUse
  let newer (i : Nat) : Bool := !genLe tag (s.gens.slot i).g
  let late := use_.filter (fun i => decide ((s.getBlock i b).st = .PR) && !newer i)
  let mark := use_.filter (fun i => decide ((s.getBlock i b).st = .PR) && newer i && decide ((s.gens.slot i).state = 1))
  let masked := s.maskedOffs b tag
  let key := match kvs with | e :: _ => e.2.1 - e.1 | [] => 0
  let want := s.wantKey enc
  let s := late.foldl (fun t i => match (t.getBlock i b).frame with
    | some f => t.onFrame f (fun q => q.write key want (kvs.map (fun e => (e.1, e.2.2))) bad)
    | none => t) s
  let s := mark.foldl (fun t i => match (t.getBlock i b).frame with
    | some f => t.onFrame f (fun q => { q with mask := kvs.foldl (fun l e => nins e.1 l) q.mask })
    | none => t) s
  let live := (kvs.filter (fun e => !nmem e.1 masked)).map (fun e => e.2)
  let s := s.storePage live enc home (b * 65536 + (kvs.headD (0, 0, 0)).1)
  let last := BitVec.ofNat 32 (sget 0 s.gens.lasts b)
  { s with gens := { s.gens with lasts := sset 0 s.gens.lasts b (genMax last tag).toNat } }

end Sys2Proof.Machine
end

