-- ==== Sys2Proof/Machine/Access.lean ====
section
/-! DEFINITION. Accesses performed at the home (R34, R35, R142): an access is cut into pieces of 64 KiB units, each piece is
translated and checked, waits where a rule makes it wait, and is then performed. -/
namespace Sys2Proof.Machine

/-- Who makes an access: its generation unit, the cluster whose cache serves it (application harts only, R138), its stack,
its level (R505), VF (R27), context (R98) and, for a hart, its place (R80). `queued` marks an access that has a request record of its own
(R45), `quiet` one of a run-ahead, which changes no generation (R39, R43), `cmd` the engine command that makes it (R162), `vec` one of the
vector stream (R143), `after` the lines that an ordered vector store wrote before it (R155). -/
structure Who where
  unit : Nat
  cluster : Option Nat
  stack : Nat
  lvl : Level
  vf : Nat
  ctx : Nat
  place : Option Nat := none
  queued : Bool := false
  quiet : Bool := false
  cmd : Nat := 0
  vec : Bool := false
  after : List Nat := []
  deriving DecidableEq, Repr

/-- The hart that steps, as the maker of an access. -/
def State.me (s : State) : Who :=
  let h := s.hart
  { unit := h.place, cluster := if h.lamp then none else some (clusterOf h.place), stack := stackOf h.place,
    lvl := h.level, vf := h.vfid.toNat, ctx := h.ctxKey, place := some h.place, quiet := s.inAhead }

/-- What became of an access: its answer, a fault, or a wait, after which it is tried again. -/
inductive Got (α : Type) where
  | ok (a : α)
  | fault (f : Flt)
  | hold

/-- The part of an access that lies in one 64 KiB unit: its IA and length, the key of its first byte, the leaf and its
page size, and the stack that performs it. -/
structure Piece where
  ia : Nat
  len : Nat
  key : Nat
  pte : Nat
  size : Nat
  home : Nat
  deriving DecidableEq, Repr

/-- `n` bytes from `ia`, cut at 64 KiB boundaries. -/
def segments : Nat → Nat → Nat → List (Nat × Nat)
  | 0, _, _ => []
  | f + 1, ia, n =>
    if n = 0 then []
    else
      let m := min n (65536 - ia % 65536)
      (ia, m) :: segments f (ia + m) (n - m)

/-- The frame of a key lies on a fenced stack or die (R454). -/
def State.frameFenced (s : State) (key : Nat) : Bool := decide (key < keySecond) && s.dieFenced (keyDie key)

/-- The stack that serves an access to a replicated page of a region: a read's replica (R78), or the sequencer (R79, R81). -/
def State.serverOf (s : State) (w : Who) (d : Nat) (acc : Acc) : Nat :=
  if acc.wr then bitsOf d 6 3 else s.replicaOf w.stack (regionMask d)

/-- A request that finds its page held at stack `k` is held there, 256 of them at most; one more is refused and sent again (R45, R423). -/
def State.holdAt (s : State) (k : Nat) (w : Who) (ia : Nat) : State :=
  let t := s.getStk k
  let e := (w.unit, ia / 65536)
  if t.heldBy.any (fun q => decide (q = e)) ∨ w.queued then s
  else if t.heldBy.length + (s.reqs.filter (fun r => decide (r.stage = .heldMig) && decide (s.home r.ia = some k))).length < 256 then
    s.setStk k { t with heldBy := t.heldBy ++ [e] }
  else if s.agenda.any (fun a => a = .event (.nakReceived (2 ^ 96 + 16 * w.unit + k))) ||
      (sget ({} : Sender) t.senders (2 ^ 96 + 16 * w.unit + k)).waiting then s
  else s.post (.nakReceived (2 ^ 96 + 16 * w.unit + k))

/-! ## Misses (R30) -/

/-- The 64 KiB units of a batch, each once. -/
def Batch.units (b : Batch) : List Nat := b.elems.foldl (fun l e => nins e.unit l) []

/-- An element enters a batch that gathers: one that is open and has room for its unit (R30). -/
def Batch.add (b : Batch) (e : WalkElem) : Option Batch :=
  if b.openB && decide ((nins e.unit b.units).length ≤ 64) then some { b with elems := b.elems ++ [e] } else none

/-- A miss at stack `k` enters the open batch, opens one, or waits for the next (R30). -/
def State.enterWalk (s : State) (k : Nat) (e : WalkElem) : State :=
  let t := s.getStk k
  match t.batch with
  | none => (s.setStk k { t with batch := some { openB := true, level := 2, elems := [e] } }).postOnce (.walkBatchClose k)
  | some b => match b.add e with
    | some b => s.setStk k { t with batch := some b }
    | none => s.setStk k { t with missed := t.missed ++ [e] }

/-- The misses at a stack that wait for their walks. -/
def Stack.misses (t : Stack) : List WalkElem :=
  (match t.batch with
   | some b => b.elems
   | none => []) ++ t.missed

/-- An access waits for the walk of a unit; it is entered once. -/
def State.missBy (s : State) (k : Nat) (e : WalkElem) : State := if (s.getStk k).misses.any (fun q => decide (q = e)) then s else s.enterWalk k e

/-- The state before a step that is taken back, with the accesses and misses that the step made wait. -/
def State.keepWaits (s t : State) : State :=
  let s := (t.waits.filter (fun w => !s.waits.any w.same)).foldl (fun u w => (u.waitAt w).postOnce (.accessSlot w.bank)) s
  (upto 16).foldl (fun u k => ((t.getStk k).misses.filter (·.by_.isSome)).foldl (fun u e => u.missBy k e) u) s

/-- The walk of an access that has no request record: what it answered, or a wait while it goes on; none where the translation is cached, where a held
page makes the access wait, and in run-ahead, whose misses are walked at once (log 50). -/
def State.walkFor (s : State) (w : Who) (k ia : Nat) : Option (State × Option (Nat × Nat)) :=
  let t := s.getStk k
  if w.queued ∨ w.quiet ∨ s.migHeld k ia ∨ (t.cached ia).isSome then none
  else match t.walked.find? (fun q => decide (q.1 = w.unit) && decide (q.2.1 = ia / 65536)) with
    | some q => some (s.setStk k { t with walked := t.walked.erase q }, some q.2.2)
    | none => some (s.missBy k { req := 0, unit := ia / 65536, by_ := some w.unit }, none)

/-- An access that comes next asks for the walks of its units (R30). -/
def State.foresee (s : State) (w : Who) (ia n : Nat) : State :=
  (segments (n / 65536 + 2) ia n).foldl (fun t g => match t.home g.1 with
    | none => t
    | some k => if t.fenced k then t else match t.walkFor w k g.1 with
      | some (u, none) => u
      | _ => t) s

/-- The answer of a translation at a stack, as that of a piece. -/
def State.trAt (s : State) (w : Who) (va : W64) (ia0 ia k : Nat) (acc : Acc) : State × Got (Nat × Nat) :=
  let bad (c l : Nat) : Got (Nat × Nat) := .fault { code := c, tval := if c = 0x2D then va else BitVec.ofNat 64 ia0, ia := ia, level := l }
  match s.walkFor w k ia with
  | some (s, some (c, l)) => (s, bad c l)
  | some (s, none) => (s, .hold)
  | none => match s.translateAt k ia w.lvl w.vf acc with
    | (s, .hold) => (s.holdAt k w ia, .hold)
    | (s, .fault c l) => (s, bad c l)
    | (s, .ok e size) => (s, .ok (e, size))

/-- One piece at its home, or at the replica that serves it (R78), or at the sequencer for an access that writes a
replicated page (R79, R81); a replicated page, entered in the tree of every stack of its mask, outlives the fence of its home (R78,
R454). `ia0` is the IA of the access's first byte. -/
def State.pieceAt (s : State) (w : Who) (va : W64) (ia0 ia n : Nat) (acc : Acc) : State × Got Piece :=
  let gone : Got Piece := .fault { code := 0x34, tval := va, ia := ia }
  let at_ (s : State) (k : Nat) (must : Bool) : State × Got Piece :=
    if s.fenced k then (s, gone)
    else match s.trAt w va ia0 ia k acc with
      | (s, .hold) => (s, .hold)
      | (s, .fault f) => (s, if must then gone else .fault f)
      | (s, .ok (e, size)) =>
        if must && !pteRepl e then (s, gone) else (s, .ok { ia := ia, len := n, key := keyUnder e size ia, pte := e, size := size, home := k })
  let fin (r : State × Got Piece) : State × Got Piece :=
    match r with
    | (s, .ok p) => if s.frameFenced p.key then (s, gone) else (s, .ok p)
    | r => r
  match s.home ia with
  | none => (s, .fault { code := 0x25, tval := BitVec.ofNat 64 ia0, ia := ia })
  | some h =>
    let d := s.region ia
    if s.fenced h then fin (at_ s (s.serverOf w d acc) true)
    else match at_ s h false with
      | (s, .ok p) => fin (if pteRepl p.pte && decide (s.serverOf w d acc ≠ h) then at_ s (s.serverOf w d acc) false else (s, .ok p))
      | r => r

/-- Every piece of an access, all checked before any is performed (R35); the lowest faulting piece decides. -/
def State.piecesFrom (s : State) (w : Who) (va : W64) (ia0 : Nat) (acc : Acc) :
    List (Nat × Nat) → State × Got (List Piece)
  | [] => (s, .ok [])
  | (ia, n) :: rest =>
    match s.pieceAt w va ia0 ia n acc with
    | (s, .hold) => (s, .hold)
    | (s, .fault f) => (s, .fault f)
    | (s, .ok p) => match State.piecesFrom s w va ia0 acc rest with
      | (s, .ok ps) => (s, .ok (p :: ps))
      | r => r

def State.pieces (s : State) (w : Who) (va : W64) (ia n : Nat) (acc : Acc) : State × Got (List Piece) :=
  s.piecesFrom w va ia acc (segments (n / 65536 + 2) ia n)

/-! ## Waiting -/

/-- A VF's share of a stack's bandwidth is metered and used up (R469); `kind` 0 stacked DRAM, 1 Glowline. -/
def State.meterEmpty (s : State) (k vf kind : Nat) : Bool :=
  let share := if kind = 0 then bitsOf (s.getVf vf).qos.toNat 40 33 else bitsOf (s.getVf vf).qos.toNat 48 41
  decide (share ≠ 0) && decide (sget 0 (s.getStk k).buckets (2 * vf + kind) = 0)

/-- An access takes its bytes from the bucket. -/
def State.meterTake (s : State) (k vf kind n : Nat) : State :=
  let t := s.getStk k
  s.setStk k { t with buckets := sset 0 t.buckets (2 * vf + kind) (sget 0 t.buckets (2 * vf + kind) - n) }

/-- The first host-held line an access must take back (R465): any for a write, an exclusive one for a read. -/
def State.hostHeld (s : State) (home ia n : Nat) (wr : Bool) : Option Nat :=
  ((s.getStk home).hostLines.find? (fun l => decide (ia / 64 ≤ l.1) && decide (l.1 ≤ (ia + (n - 1)) / 64) && (wr || l.2))).map (·.1)

/-- 64 bytes that the outside sends, as a number. -/
def outsideLine (line moves : Nat) : BitVec 512 :=
  BitVec.ofNat 512 (ofBytesLE ((upto 64).map (fun i => Config.outside (keyFar + 64 * line + i) moves)))

/-- A back-invalidation snoop of a line is sent, once: BISnpInv for a write, else BISnpData (R465). -/
def State.snoop (s : State) (home line : Nat) (inv : Bool) : State :=
  let t := s.getStk home
  if t.biWait.any (fun q => decide (q.1 = line)) then s
  else (s.setStk home { t with biWait := t.biWait ++ [(line, inv)] }).post
    (.bisnpResponse line (bitOf (Config.freeWord s.moves).toNat 0) (outsideLine line s.moves))

/-- The far-tier lines of a piece whose UIO completion has not arrived (R467). -/
def State.uioMissing (s : State) (key n : Nat) : List Nat :=
  if key < keyFar then []
  else if (s.getPort ((key - keyFar) / 2 ^ 50)).inForce ≠ 1 then []
  else (upFrom (key / 64) ((key + (n - 1)) / 64 - key / 64 + 1)).filter (fun l => !nmem l s.uioDone)

/-- A UIO request for a far-tier line is sent, once (R467); its `va` is the tick at which it leaves. -/
def State.uioSend (s : State) (home line : Nat) (wr : Bool) : State :=
  if s.reqs.any (fun r => decide (r.src = .far line)) then s
  else
    let (id, s) := s.fresh
    let r : Req := { id := id, src := .far line, op := if wr then .write else .read, va := s.tick, ia := 64 * line, n := 64, data := 0, scope := 4,
                     attr := 0, lvl := .mon, vf := 0, tag := 0, cluster := home, stage := .sent, result := 0, cause := 0 }
    let t := s.getStk home
    ({ s with reqs := s.reqs ++ [r] }.setStk home { t with uio := t.uio ++ [id] }).post
      (.uioCompletion id (bitOf (Config.freeWord s.moves).toNat 1))

/-- A piece of an access, as it waits at its bank. -/
def Piece.wait (p : Piece) (w : Who) : SlotWait := { unit := w.unit, cmd := w.cmd, key := p.key, len := p.len, ctx := w.ctx }

/-- Whether a normal access may go on now (R96 to R99, R465, R467, R469). The host takes no line back from itself. -/
def State.mayGo (s : State) (w : Who) (p : Piece) (wr : Bool) : State × Bool :=
  if decide (p.key < keySecond) && s.meterEmpty (p.key / 2 ^ 36) w.vf 0 then
    (s.postOnce (.tokenBucketRefill (p.key / 2 ^ 36) w.vf), false)
  else match (if w.unit = unitHost 0 then none else s.hostHeld p.home p.ia p.len wr) with
    | some l => (s.snoop p.home l wr, false)
    | none =>
      match s.uioMissing p.key p.len with
      | l :: ls => ((l :: ls).foldl (fun t l => t.uioSend p.home l wr) s, false)
      | [] => s.turnAt (p.wait w)

/-- What a normal access that goes on uses up. -/
def State.goes (s : State) (w : Who) (p : Piece) : State :=
  let s := if p.key < keySecond then s.meterTake (p.key / 2 ^ 36) w.vf 0 p.len else s
  let s := if p.key < keyFar then s
    else { s with uioDone := s.uioDone.filter (fun l => decide (l < p.key / 64) || decide ((p.key + (p.len - 1)) / 64 < l)) }
  s.leave (p.wait w)

/-- A normal access goes on, or waits. -/
def State.gate (s : State) (w : Who) (p : Piece) (wr : Bool) : State × Bool :=
  match s.mayGo w p wr with
  | (s, true) => (s.goes w p, true)
  | r => r

/-! ## Reads at the home -/

/-- The key slot a piece is encrypted under (R471). -/
def Piece.enc (p : Piece) : Option Nat := if pteEnc p.pte then some (pteKslot p.pte) else none

def Piece.keys (p : Piece) : List Nat := upFrom p.key p.len

/-- A byte read, and, where its protected word is poisoned, its offset in that word. -/
abbrev Taken := Byte × Option Nat

/-- What is read at keys, with the poison of each byte. -/
def State.taken (s : State) (ks : List Nat) (enc : Option Nat) : List Taken :=
  (s.loadKeys ks enc).zip (ks.map (fun k => if nmem (wordBase k) s.psn then some (k - wordBase k) else none))

/-- A response reaches the maker of an access with its sender's generation (R116); a run-ahead changes none (R39, R43). -/
def State.answer (s : State) (w : Who) (src : Nat) : State := if w.quiet then s else s.message src w.unit

/-- A piece is read at its home; the response carries the controller's generation (R116). -/
def State.fetch (s : State) (w : Who) (p : Piece) : State × List Taken :=
  let s := s.touch p.keys
  (s.answer w (controllerOf p.key p.home), s.taken p.keys p.enc)

/-- The fault of the first poisoned byte of a list that begins at `va` (R448). -/
def poisonFault (va : W64) : Nat → List Taken → Option Flt
  | _, [] => none
  | i, (_, some o) :: _ => some { code := 0x40, tval := va + BitVec.ofNat 64 i - BitVec.ofNat 64 o }
  | i, (_, none) :: l => poisonFault va (i + 1) l

/-- The value of bytes read whole, or the fault of their poison. -/
def valueOf (va : W64) (l : List Taken) : Got Nat :=
  match poisonFault va 0 l with
  | some f => .fault f
  | none => .ok (ofBytesLE (l.map (·.1)))

/-! ## Writes at the home -/

/-- A unit receives a write with a tag and adopts a newer generation (R116). -/
def State.adoptTag (s : State) (tag : BitVec 32) (unit : Nat) : State := if tag = s.gens.dev then s.adopt unit else s

/-- The byte offsets of a piece in its gen-block (R112). -/
def Piece.offs (p : Piece) : List Nat := upFrom (p.ia % 65536) p.len

/-- Whether a write may be performed now: its preservation (R122, R131), then what any access needs. -/
def State.mayWrite (s : State) (w : Who) (p : Piece) (tag : BitVec 32) : State × Bool :=
  if !pteRepl p.pte && pteTracked p.pte then
    (match s.prepareBlock (p.ia / 65536) p.offs tag with
     | (s, true) => s.mayGo w p true
     | (s, false) => (s, false))
  else s.mayGo w p true

/-- A write goes on, or waits. -/
def State.readyWrite (s : State) (w : Who) (p : Piece) (tag : BitVec 32) : State × Bool :=
  match s.mayWrite w p tag with
  | (s, true) => (s.goes w p, true)
  | r => r

/-- Some bytes of a piece, each by its offset in the piece, written in its frame with their tag (R122, R124), the `mod`
bit (R28) and what the controller adopts (R116). The words of the bytes at the IAs `bad` are written poisoned (R381, R371). -/
def State.putSome (s : State) (p : Piece) (sel : List (Nat × Byte)) (tag : BitVec 32) (bad : List Nat := []) : State :=
  let s := s.touch p.keys
  let mine := bad.filter (fun a => decide (p.ia ≤ a) && decide (a < p.ia + p.len))
  let masked := if mine = [] then [] else s.maskedOffs (p.ia / 65536) tag
  let s := if pteTracked p.pte then
      s.applyTracked (p.ia / 65536) (sel.map (fun e => (p.ia % 65536 + e.1, p.key + e.1, e.2))) (mine.map (· % 65536)) tag p.enc p.home
    else s.storePage (sel.map (fun e => (p.key + e.1, e.2))) p.enc p.home (p.ia + (sel.headD (0, 0)).1)
  let s := (mine.filter (fun a => !(pteTracked p.pte && nmem (a % 65536) masked))).foldl
    (fun t a => t.poison (wordBase (p.key + (a - p.ia)))) s
  (s.adoptTag tag (controllerOf p.key p.home)).setMod p.home p.ia p.pte

/-- A piece written whole. -/
def State.putFrame (s : State) (p : Piece) (bytes : List Byte) (tag : BitVec 32) (bad : List Nat := []) : State :=
  s.putSome p ((upto p.len).zip bytes) tag bad

/-- Stores to a replicated page go to the sequencer as updates (R79), each a part of a naturally aligned unit of `size` bytes (R141). -/
def State.sendUpdates (s : State) (w : Who) (tag : BitVec 32) (bad : List Nat) (size : Nat) : Nat → Nat → List Byte → State
  | 0, _, _ => s
  | f + 1, ia, bytes =>
    match bytes with
    | [] => s
    | _ =>
      let (id, s) := s.fresh
      let part := bytes.take (size - ia % size)
      let u : Update := { id := id, place := w.place, ia := ia, n := part.length, data := BitVec.ofNat 256 (ofBytesLE part),
                          tag := tag, live := BitVec.allOnes 32,
                          bad := BitVec.ofNat 32 (((upto part.length).filter (fun i => nmem (ia + i) bad)).map (2 ^ ·)).sum,
                          pending := [], ordered := false, owner := w.cmd, vec := w.vec, unit := w.unit }
      State.sendUpdates (({ s with updates := s.updates ++ [u] }).post (.replicaUpdateOrder id)) w tag bad size f (ia + part.length)
        (bytes.drop part.length)

/-- The unit in which a write is single-copy atomic (R141): the 32 bytes of BINIT (R349), else an aligned 8-byte unit. -/
def atomicUnit (w : Who) (n : Nat) : Nat := if w.place.isSome ∧ n = 32 then 32 else 8

/-- A write of a piece is performed at its home, or sent to the sequencer. -/
def State.putPiece (s : State) (w : Who) (p : Piece) (bytes : List Byte) (tag : BitVec 32) (bad : List Nat := []) : State :=
  if pteRepl p.pte then s.sendUpdates w tag bad (atomicUnit w bytes.length) (bytes.length + 1) p.ia bytes else s.putFrame p bytes tag bad

/-- Every piece of a write may go on; they do together. -/
def State.readyAll (s : State) (w : Who) (tag : BitVec 32) : List Piece → State × Bool
  | [] => (s, true)
  | p :: ps => match s.mayWrite w p tag with
    | (s, true) => match State.readyAll s w tag ps with
      | (s, true) => (s.goes w p, true)
      | r => r
    | r => r

/-- Every piece of a read may go on; they do together. -/
def State.gateAll (s : State) (w : Who) : List Piece → State × Bool
  | [] => (s, true)
  | p :: ps => match s.mayGo w p false with
    | (s, true) => match State.gateAll s w ps with
      | (s, true) => (s.goes w p, true)
      | r => r
    | r => r

/-- The pieces written with the bytes of a list, in order. -/
def State.putAll (s : State) (w : Who) (tag : BitVec 32) (bad : List Nat) : List Piece → List Byte → State
  | [], _ => s
  | p :: ps, bytes => State.putAll (s.putPiece w p (bytes.take p.len) tag bad) w tag bad ps (bytes.drop p.len)

def State.fetchAll (s : State) (w : Who) : List Piece → State × List Taken
  | [] => (s, [])
  | p :: ps =>
    let (s, l) := s.fetch w p
    let (s, r) := State.fetchAll s w ps
    (s, l ++ r)

/-! ## Replicated pages (R78 to R81) -/

/-- An update that this hart made to the same page is not yet applied at the serving replica (R80); or, once a stack of the region's
mask is fenced and its readers have moved (R78), one ordered before is still to be applied there (R171). -/
def State.ownPending (s : State) (w : Who) (p : Piece) : Bool :=
  let moved := (upto 16).any (fun k => bitOf (regionMask (s.region p.ia)) k && s.fenced k)
  pteRepl p.pte && s.updates.any (fun u => decide (u.ia / pageSize p.size = p.ia / pageSize p.size) &&
    ((w.place.isSome && decide (u.place = w.place) && (!u.ordered || nmem p.home u.pending)) ||
      (moved && u.ordered && nmem p.home u.pending)))

/-- An update that the same maker sent to the same 64 KiB unit earlier waits for its position (R148). -/
def State.behindOwn (s : State) (w : Who) (p : Piece) : Bool :=
  pteRepl p.pte && s.updates.any (fun u => decide (u.place = w.place) && decide (u.owner = w.cmd) && decide (u.ia / 65536 = p.ia / 65536) && !u.ordered)

/-- Ordered updates of the unit are still to be applied at the stack that performs the piece. -/
def State.orderPending (s : State) (p : Piece) : Bool :=
  pteRepl p.pte && s.updates.any (fun u => decide (u.ia / 65536 = p.ia / 65536) && u.ordered && nmem p.home u.pending)

/-- An update is applied at a replica: the bytes in that stack's own frame; at the sequencer, as a tracked write (R126). -/
def State.applyReplica (s : State) (k : Nat) (u : Update) : State × Bool :=
  let bytes := bytesLE u.n u.data.toNat
  match (s.getStk k).cached u.ia, s.walk k u.ia with
  | some q, _ =>
    let p : Piece := { ia := u.ia, len := u.n, key := keyUnder q.pte.toNat q.size u.ia, pte := q.pte.toNat, size := q.size, home := k }
    go s p bytes
  | none, .leaf e l _ =>
    let p : Piece := { ia := u.ia, len := u.n, key := keyUnder e (leafSize l e) u.ia, pte := e, size := leafSize l e, home := k }
    go s p bytes
  | none, .fault _ _ => (s.logEvent k 6 0 0 u.ia, true)
where
  /-- The update in the frame of its replica. -/
  go (s : State) (p : Piece) (bytes : List Byte) : State × Bool :=
    let turn := s.turnTaken { unit := u.unit, cmd := u.id, key := p.key, len := u.n, ctx := 2 ^ 40 }
    let s := turn.1
    if !turn.2 then (s, false)
    else if bitsOf (s.region u.ia) 6 3 = k ∧ pteTracked p.pte then
      (match s.prepareBlock (p.ia / 65536) p.offs u.tag with
       | (s, true) => (s.putFrame p bytes u.tag (((upto u.n).filter u.bad.getLsbD).map (u.ia + ·)), true)
       | (s, false) => (s, false))
    else
      let kvs := ((p.keys.zip bytes).zip (upto 32)).filter (fun e => u.live.getLsbD e.2)
      let s := (s.storePage (kvs.map (·.1)) p.enc k p.ia).setMod k u.ia p.pte
      let s := ((upto u.n).filter (fun i => u.bad.getLsbD i && u.live.getLsbD i)).foldl (fun t i => t.poison (wordBase (p.key + i))) s
      (s.adoptTag u.tag (controllerOf p.key k), true)

end Sys2Proof.Machine
end

