-- ==== Sys2Proof/Machine/Cache.lean ====
section
/-! DEFINITION. The cluster cache (R47 to R54), its lines and locks, the hot lines of the atomic engine (R70, R72), write-back,
release (R51) and acquire (R52). -/
namespace Sys2Proof.Machine

/-- The banks that serve as ways, in ascending order (R47). -/
def Cluster.ways (c : Cluster) : List Nat :=
  (upto 32).filter (fun b => decide ((c.getBank b).mode = 0) && !(c.getBank b).busy)

def Cluster.lineOf (c : Cluster) (l : Nat) : Option Line := c.lines.find? (fun q => q.line = l)
def Cluster.camOf (c : Cluster) (l : Nat) : Option Cam := c.cam.find? (fun q => q.ln.line = l)

/-- A line stands in a bank that is leaving cache mode: it is looked up no more, and an access that would hit it waits (R58). -/
def Cluster.leaving (c : Cluster) (l : Nat) : Bool :=
  match c.lineOf l with
  | some q => (c.getBank q.bank).busy && (c.camOf l).isNone
  | none => false

/-- Some line's dirty bytes are to reach their homes after those of line `l` (R155). -/
def Cluster.orders (c : Cluster) (l : Nat) : Bool := c.lines.any (fun q => nmem l q.after) || c.cam.any (fun q => nmem l q.ln.after)

/-- The dirty bytes of line `l` have reached their home: nothing waits for them. -/
def Cluster.unorder (c : Cluster) (l : Nat) : Cluster :=
  if c.orders l then
    { c with lines := c.lines.map (fun q => { q with after := nrem l q.after })
             cam := c.cam.map (fun q => { q with ln := { q.ln with after := nrem l q.ln.after } }) }
  else c

/-- The copy of a line that serves the cluster: the hot line of the atomic engine, else the cached line (R72). -/
def Cluster.copyOf (c : Cluster) (l : Nat) : Option Line :=
  match c.camOf l with
  | some q => some q.ln
  | none => c.lineOf l

/-- The serving copy of a line replaced. -/
def Cluster.putCopy (c : Cluster) (ln : Line) : Cluster :=
  if (c.camOf ln.line).isSome then { c with cam := modList (fun q => q.ln.line = ln.line) (fun q => { q with ln := ln }) c.cam }
  else { c with lines := modList (fun q => q.line = ln.line) (fun _ => ln) c.lines }

/-- A line of a cluster changed where it is. -/
def State.onClu (s : State) (c : Nat) (f : Cluster → Cluster) : State := s.setClu c (f (s.getClu c))

/-- The cluster as the maker of a request no instruction owns (R49). -/
def cacheWho (c vf : Nat) : Who :=
  { unit := unitCache c, cluster := none, stack := c / 2, lvl := .app, vf := vf, ctx := 2 ^ 40 }

/-! ## Bytes of a line -/

/-- The bits of `n` bytes from byte `o`. -/
def byteMask (o n : Nat) : BitVec 128 := BitVec.ofNat 128 ((2 ^ n - 1) * 2 ^ o)

def Line.byte (l : Line) (i : Nat) : Byte := l.data.extractLsb' (8 * i) 8

/-- A line with one byte of its data replaced. -/
def Line.setByte (l : Line) (i : Nat) (v : Byte) : Line :=
  { l with data := mergeMask l.data (v.setWidth 1024 <<< (8 * i)) (0xff#1024 <<< (8 * i)) }

/-- Bytes written: they become valid and dirty (R49). -/
def Line.write (l : Line) (o : Nat) (bytes : List Byte) (tag : BitVec 32) (vf : Nat) : Line :=
  let l' := (bytes.zip (upFrom o bytes.length)).foldl (fun q e => q.setByte e.2 e.1) l
  { l' with valid := l.valid ||| byteMask o bytes.length, dirty := l.dirty ||| byteMask o bytes.length, gen := tag, vf := vf }

/-- A fetched line fills the bytes that are not dirty; bytes of a poisoned word stay invalid, so that each read of them
meets the poison (R49, R448). -/
def Line.fill (l : Line) (got : List Taken) : Line :=
  (got.zip (upto 128)).foldl (fun q e =>
    if q.dirty.getLsbD e.2 then q
    else match e.1.2 with
      | none => { (q.setByte e.2 e.1.1) with valid := q.valid ||| byteMask e.2 1 }
      | some _ => { q with valid := q.valid &&& ~~~(byteMask e.2 1) }) l

/-- The piece of the whole line that a piece lies in. -/
def Piece.line (p : Piece) : Piece := { p with ia := p.ia / 128 * 128, len := 128, key := p.key - p.ia % 128 }

/-- A piece cut at line boundaries. -/
def Piece.chunks : Nat → Piece → List Piece
  | 0, _ => []
  | f + 1, p =>
    if p.len = 0 then []
    else
      let m := min p.len (128 - p.ia % 128)
      { p with len := m } :: Piece.chunks f { p with ia := p.ia + m, key := p.key + m, len := p.len - m }

def Piece.byLine (p : Piece) : List Piece := Piece.chunks (p.len / 128 + 2) p

/-! ## Write-back (R49) -/

/-- The dirty bytes of a line go to its home with their mask and tag. One that faults is discarded and logged; one that
must wait leaves the line dirty, and the answer is false. -/
def State.sendBytes (s : State) (c : Nat) (l : Line) : State × Bool :=
  if l.dirty = 0 then (s, true)
  else
    let ia := 128 * l.line
    let w := cacheWho c l.vf
    let lost (s : State) : State × Bool := (s.logEvent ((s.home ia).getD (c / 2)) 6 0 0 ia, true)
    match s.pieceAt w 0 ia ia 128 .write with
    | (s, .hold) => (s, false)
    | (s, .fault _) => lost s
    | (s, .ok p) =>
      match s.readyWrite w p l.gen with
      | (s, false) => (s, false)
      | (s, true) =>
        let sel := ((upto 128).filter (fun i => l.dirty.getLsbD i)).map (fun i => (i, l.byte i))
        if pteRepl p.pte then (sel.foldl (fun t e => t.sendUpdates w l.gen [] 8 1 (ia + e.1) [e.2]) s, true)
        else (s.putSome p sel l.gen, true)

/-- Lines written back one after another, each behind the lines whose dirty bytes go before its own (R155). -/
def State.cleanSeq : Nat → State → Nat → List Nat → State × Bool
  | 0, s, _, _ => (s, true)
  | _ + 1, s, _, [] => (s, true)
  | f + 1, s, c, l :: ls =>
    match (s.getClu c).copyOf l with
    | none => State.cleanSeq f s c ls
    | some ln => match State.cleanSeq f s c ln.after with
      | (s, false) => (s, false)
      | (s, true) => match s.sendBytes c ln with
        | (s, false) => (s, false)
        | (s, true) => State.cleanSeq f (s.onClu c (fun k => (k.putCopy { ln with dirty := 0, after := [] }).unorder l)) c ls

/-- A bound on the lines that a chain of write-backs visits. -/
def Cluster.chain (c : Cluster) : Nat := (c.lines.length + c.cam.length + 1) * (c.lines.length + c.cam.length + 1)

/-- The dirty bytes of a line go home, behind those that go before them (R49, R155). False: they must wait. -/
def State.sendDirty (s : State) (c : Nat) (l : Line) : State × Bool :=
  let r := if l.after = [] then (s, true) else State.cleanSeq (s.getClu c).chain s c l.after
  if r.2 = false then r
  else match r.1.sendBytes c l with
    | (s, true) => (s.onClu c (fun k => k.unorder l.line), true)
    | r => r

/-- The serving copy of a line written back: valid, and clean if it could be. -/
def State.cleanLine (s : State) (c l : Nat) : State × Bool :=
  match (s.getClu c).copyOf l with
  | none => (s, true)
  | some ln => match s.sendDirty c ln with
    | (s, true) => (s.onClu c (fun k => k.putCopy { ln with dirty := 0, after := [] }), true)
    | (s, false) => (s, false)

/-- What an ordered vector store has left dirty in the cluster reaches its homes before an element that is performed elsewhere (R155). -/
def State.afterReady (s : State) (w : Who) : State × Bool :=
  match w.cluster with
  | some c => if w.after = [] then (s, true) else State.cleanSeq (s.getClu c).chain s c w.after
  | none => (s, true)

/-- A list of lines written back, as far as they can be. -/
def State.cleanAll (s : State) (c : Nat) : List Nat → State × Bool
  | [] => (s, true)
  | l :: ls => match s.cleanLine c l with
    | (s, true) => State.cleanAll s c ls
    | (s, false) => (s, false)

/-- The lines of a cluster with dirty bytes, in its cache and in the atomic engine (R51). -/
def Cluster.dirtyLines (c : Cluster) : List Nat :=
  (c.lines.filter (fun l => l.dirty ≠ 0)).map (·.line) ++ (c.cam.filter (fun q => q.ln.dirty ≠ 0)).map (·.ln.line)

/-- A line leaves the cache after its dirty bytes are written back; a locked one loses its lock (R58). -/
def State.dropLine (s : State) (c l : Nat) : State × Bool :=
  match (s.getClu c).lineOf l with
  | none => (s, true)
  | some ln => match s.sendDirty c ln with
    | (s, true) => (s.onClu c (fun k => { k with lines := k.lines.filter (fun q => q.line ≠ l) }), true)
    | (s, false) => (s, false)

/-! ## Allocation (R48, R53, R54) -/

/-- What an allocation finds: a way, no unlocked way, or a wait for a victim's write-back. -/
inductive Way where
  | bank (b : Nat)
  | none
  | hold

/-- A way of a line's set; a full set gives up an unlocked one of the part's choosing (R54). -/
def State.wayFor (s : State) (c l : Nat) : State × Way :=
  let k := s.getClu c
  let inSet := k.lines.filter (fun q => decide (q.line % 4096 = l % 4096))
  match k.ways.find? (fun b => !inSet.any (fun q => decide (q.bank = b))) with
  | some b => (s, .bank b)
  | none =>
    let cand := inSet.filter (fun q => q.lock.isNone && nmem q.bank k.ways)
    match cand[Config.victim s.moves % cand.length]? with
    | none => (s, .none)
    | some v => match s.dropLine c v.line with
      | (s, true) => (s, .bank v.bank)
      | (s, false) => (s, .hold)

/-- An empty line in a way. -/
def newLine (l b : Nat) : Line := { line := l, data := 0, valid := 0, dirty := 0, gen := 0, bank := b, lock := none }

/-- The outcome of bringing a line into the cluster. -/
inductive Fill where
  | line (l : Line)
  | bypass
  | hold

/-- The whole line is fetched from the home (R49); a line not present is allocated where `alloc` allows it. -/
def State.fillLine (s : State) (w : Who) (c : Nat) (p : Piece) (alloc : Bool) : State × Fill :=
  let l := p.ia / 128
  let get (s : State) (ln : Line) (add : Bool) : State × Fill :=
    match s.gate w p.line false with
    | (s, false) => (s, .hold)
    | (s, true) =>
      let (s, got) := s.fetch { w with unit := unitCache c, quiet := false } p.line
      let ln := ln.fill got
      (s.onClu c (fun k => if add then { k with lines := k.lines ++ [ln] } else k.putCopy ln), .line ln)
  match (s.getClu c).copyOf l with
  | some ln => get s ln false
  | none =>
    if !alloc then (s, .bypass)
    else match s.wayFor c l with
      | (s, .hold) => (s, .hold)
      | (s, .none) => (s, .bypass)
      | (s, .bank b) => get s (newLine l b) true

/-! ## The ports of an atomic engine (R71) -/

/-- A request by its number. -/
def State.reqAt (s : State) (id : Nat) : Option Req := s.reqs.find? (fun r => decide (r.id = id))

/-- The line of a request. -/
def Req.line (r : Req) : Nat := r.ia / 128

/-- A port's request can be accepted: its line has room in its queue, or an entry is free or evictable (R71). A request to the
cluster's own banks needs no entry. -/
def State.eligible (s : State) (c : Nat) (r : Req) : Bool :=
  let k := s.getClu c
  match winOf s.ownPart r.ia with
  | some (.sram _ _) => true
  | _ => match k.camOf r.line with
    | some q => decide (q.queue.length < 4)
    | none => decide (k.cam.length < 64) || k.cam.any (fun q => q.queue.isEmpty)

/-- The port by which an agent's accesses come to a cluster's atomic engine: its quad's, or the remote one. -/
def Who.port (w : Who) (c : Nat) : Nat :=
  match w.place with
  | some p => if p < 8192 ∧ clusterOf p = c then p % 256 / 4 else 64
  | none => 64

/-- The oldest request that waits at a port can be accepted. -/
def State.portReady (s : State) (c port : Nat) : Bool :=
  match ((s.getClu c).ports.filter (fun q => (s.reqAt q.req).isSome)).find? (fun q => decide (q.port = port)) with
  | none => false
  | some q => match s.reqAt q.req with
    | some r => s.eligible c r
    | none => false

/-- An access of a hart or engine asks a cluster's atomic engine beside the requests that wait at its ports: it goes behind those of its own port,
and the scan must come to it first. False: it waits. -/
def State.portTurn (s : State) (c port : Nat) : State × Bool :=
  let k := s.getClu c
  let won (s : State) : State := s.onClu c (fun k => { k with lastWin := port })
  if k.ports = [] then (won s, true)
  else if k.ports.any (fun q => decide (q.port = port)) then (s.postOnce (.atomicEngineAccept c), false)
  else match (upFrom (k.lastWin + 1) 65).find? (fun i => decide (i % 65 = port) || s.portReady c (i % 65)) with
    | some i => if i % 65 = port then (won s, true) else (s.postOnce (.atomicEngineAccept c), false)
    | none => (s, false)

/-- An access to a line that may be hot: where it is, the access goes through the engine, behind what its line has queued (R72). False: it waits. -/
def State.hotTurn (s : State) (w : Who) (c l : Nat) : State × Bool :=
  match (s.getClu c).camOf l with
  | none => (s, true)
  | some q => if q.queue.isEmpty then s.portTurn c (w.port c) else (s.postOnce (.atomicEngineOp c l), false)

/-- A read of bytes of one line performed in the cluster cache (R48 to R50, R53). -/
def State.cacheRead (s : State) (w : Who) (c : Nat) (p : Piece) (attr : BitVec 2) : State × Got (List Taken) :=
  let l := p.ia / 128
  let o := p.ia % 128
  let fromHome (s : State) : State × Got (List Taken) :=
    match s.gate w p false with
    | (s, false) => (s, .hold)
    | (s, true) => let (s, got) := s.fetch w p; (s, .ok got)
  let serve (s : State) (ln : Line) : State × Got (List Taken) :=
    let s := s.answer w (unitCache c)
    (s, .ok ((upto p.len).map (fun i =>
      if ln.valid.getLsbD (o + i) then (ln.byte (o + i), none)
      else (s.byteAt (p.key + i), some (p.key + i - wordBase (p.key + i))))))
  let t := s.hotTurn w c l
  let s := t.1
  if t.2 = false ∨ (s.getClu c).leaving l then (s, .hold)
  else match (s.getClu c).copyOf l with
    | some ln =>
      if ln.valid &&& byteMask o p.len = byteMask o p.len then serve s ln
      else match s.fillLine w c p true with
        | (s, .line ln) => serve s ln
        | (s, .bypass) => fromHome s
        | (s, .hold) => (s, .hold)
    | none => match s.fillLine w c p (decide (attr = 0)) with
      | (s, .line ln) => serve s ln
      | (s, .bypass) => fromHome s
      | (s, .hold) => (s, .hold)

/-- Bytes written into the serving copy of a line. Dirty bytes of another generation are written back first; bytes older
than the cache's own generation go to the home at once (R49, R125). An element of an ordered vector store goes home behind the lines
that the store wrote before; a line that other lines wait for goes home first (R155). -/
def State.lineWrite (s : State) (w : Who) (c : Nat) (ln : Line) (o : Nat) (bytes : List Byte) (tag : BitVec 32) :
    State × Bool :=
  let before := w.after.filter (fun l => decide (l ≠ ln.line))
  let first := ln.dirty ≠ 0 ∧ (ln.gen ≠ tag ∨ (before ≠ [] ∧ (s.getClu c).orders ln.line))
  let r := if first then s.sendDirty c ln else (s, true)
  if r.2 = false then (r.1, false)
  else
    let ln := if first then { ln with dirty := 0, after := [] } else ln
    let ln := if before = [] then ln else { ln with after := before.foldl (fun l a => nins a l) ln.after }
    let s := (r.1.adoptTag tag (unitCache c)).onClu c (fun k => k.putCopy (ln.write o bytes tag w.vf))
    if genLe (s.unitGen (unitCache c)) tag then (s, true) else s.cleanLine c ln.line

/-- A write of bytes of one line performed in the cluster cache (R48 to R50, R53). -/
def State.cacheWrite (s : State) (w : Who) (c : Nat) (p : Piece) (bytes : List Byte) (tag : BitVec 32) : State × Bool :=
  let l := p.ia / 128
  let t := s.hotTurn w c l
  let s := t.1
  if t.2 = false ∨ (s.getClu c).leaving l then (s, false)
  else match (s.getClu c).copyOf l with
    | some ln => s.lineWrite w c ln (p.ia % 128) bytes tag
    | none => match s.wayFor c l with
      | (s, .hold) => (s, false)
      | (s, .bank b) =>
        let s := s.onClu c (fun k => { k with lines := k.lines ++ [newLine l b] })
        s.lineWrite w c (newLine l b) (p.ia % 128) bytes tag
      | (s, .none) => match s.readyWrite w p tag with
        | (s, false) => (s, false)
        | (s, true) => (s.putPiece w p bytes tag, true)

/-! ## Wide accesses and the caches (R139, R79) -/

/-- A load with a wide scope first writes back the dirty bytes of its line (R139). -/
def State.flushFor (s : State) (c : Nat) : List Piece → State × Bool
  | [] => (s, true)
  | p :: ps => match s.cleanLine c (p.ia / 128) with
    | (s, true) => State.flushFor s c ps
    | (s, false) => (s, false)

/-- The cluster's copy of bytes that a wide load has read at the home is no longer valid: a later read of them is no older (R148). -/
def State.forgetCopy (s : State) (c : Nat) (p : Piece) : State :=
  match (s.getClu c).copyOf (p.ia / 128) with
  | none => s
  | some ln => s.onClu c (fun k => k.putCopy { ln with valid := ln.valid &&& ~~~(byteMask (p.ia % 128) p.len &&& ~~~ln.dirty) })

/-- A store performed at the home also updates the cluster's copy of its bytes and leaves them clean (R139). -/
def State.updateCopy (s : State) (c : Nat) (p : Piece) (bytes : List Byte) : State :=
  match (s.getClu c).copyOf (p.ia / 128) with
  | none => s
  | some ln =>
    let n := ln.write (p.ia % 128) bytes ln.gen ln.vf
    s.onClu c (fun k => k.putCopy { n with dirty := ln.dirty &&& ~~~(byteMask (p.ia % 128) bytes.length) })

/-- A store to a replicated page invalidates the line in the cluster cache (R79). -/
def State.invalidate (s : State) (c l : Nat) : State :=
  s.onClu c (fun k => match k.lineOf l with
    | some ln => if ln.lock.isSome then { k with lines := modList (fun q => q.line = l) (fun q => { q with valid := 0, dirty := 0 }) k.lines }
                 else { k with lines := k.lines.filter (fun q => q.line ≠ l) }
    | none => k)

/-! ## Release and acquire -/

/-- A store of one stream of this hart to a replicated page has not been acknowledged (R79, R142, R143). -/
def State.unacked (s : State) (w : Who) (vec : Bool) : Bool :=
  s.updates.any (fun u => u.place.isSome && decide (u.place = w.place) && decide (u.vec = vec))

/-- A write of this stream still has something to wait for: an update the sequencer has not acknowledged (R142), or, at
system scope, a line the host is giving back (R176). -/
def State.writesPending (s : State) (w : Who) (scope : Nat) : Bool :=
  s.unacked w w.vec ||
    (decide (5 ≤ scope) && s.stk.any (fun e => !e.2.biWait.isEmpty))

/-- A release (R51, R142, R176): at die scope or wider the cluster's dirty bytes reach their homes. False: it waits. -/
def State.release (s : State) (w : Who) (scope : Nat) : State × Bool :=
  if s.writesPending w scope then (s, false)
  else match w.cluster with
    | none => (s, true)
    | some c => if scope < 3 then (s, true) else s.cleanAll c (s.getClu c).dirtyLines

/-- A release of both streams (R120, R161, R175). -/
def State.releaseBoth (s : State) (w : Who) (scope : Nat) : State × Bool :=
  if s.unacked w true then (s, false) else s.release w scope

/-- An acquire (R52): at die scope or wider every byte of the cluster that is not dirty becomes invalid. -/
def State.acquire (s : State) (w : Who) (scope : Nat) : State :=
  match w.cluster with
  | none => s
  | some c =>
    if scope < 3 then s
    else s.onClu c (fun k => { k with
      lines := k.lines.map (fun l => { l with valid := l.dirty })
      cam := k.cam.map (fun q => { q with ln := { q.ln with valid := q.ln.dirty } }) })

/-! ## Hot lines of the atomic engine (R70) -/

/-- A hot line gives its bytes back: into the cached line if there is one, else into a way of its set, else its dirty bytes to the home
(R53, R70). -/
def State.camEvict (s : State) (c : Nat) (q : Cam) : State × Bool :=
  let drop (s : State) : State := s.onClu c (fun k => { k with cam := k.cam.filter (fun e => e.ln.line ≠ q.ln.line) })
  match (s.getClu c).lineOf q.ln.line with
  | some ln =>
    let s := drop s
    (s.onClu c (fun k => k.putCopy { q.ln with bank := ln.bank, lock := ln.lock }), true)
  | none => match s.wayFor c q.ln.line with
    | (s, .bank b) => ((drop s).onClu c (fun k => { k with lines := k.lines ++ [{ q.ln with bank := b, lock := none }] }), true)
    | (s, .hold) => (s, false)
    | (s, .none) => match s.sendDirty c q.ln with
      | (s, true) => (drop s, true)
      | (s, false) => (s, false)

/-- The hot line for an operation: the one held, or a new one, with the least recently used idle one evicted; a new one is fetched from the
cluster cache, which fetches it from the home on a miss (R70). The most recently used comes first. -/
def State.camLine (s : State) (w : Who) (c : Nat) (p : Piece) : State × Fill :=
  let l := p.ia / 128
  let use_ (s : State) : State × Fill :=
    match (s.getClu c).camOf l with
    | none => (s, .hold)
    | some q =>
      let s := s.onClu c (fun k => { k with cam := q :: k.cam.filter (fun e => e.ln.line ≠ l) })
      if q.ln.valid &&& byteMask (p.ia % 128) p.len = byteMask (p.ia % 128) p.len then (s, .line q.ln)
      else s.fillLine w c p true
  match (s.getClu c).camOf l with
  | some _ => use_ s
  | none =>
    let r : State × Bool :=
      if (s.getClu c).cam.length < 64 then (s, true)
      else match (s.getClu c).cam.reverse.find? (fun q => q.queue.isEmpty) with
        | none => (s, false)
        | some q => s.camEvict c q
    if r.2 = false then (r.1, .hold)
    else
      let s := r.1
      let bring (s : State) (ln : Line) : State × Fill :=
        use_ (s.onClu c (fun k => { k with
          lines := modList (fun q => q.line = l) (fun q => { q with dirty := 0, after := [] }) k.lines
          cam := { ln := { ln with lock := none }, queue := [] } :: k.cam }))
      if (s.getClu c).leaving l then (s, .hold)
      else match (s.getClu c).lineOf l with
        | some ln => bring s ln
        | none => match s.fillLine w c p true with
          | (s, .line ln) => bring s ln
          | (s, .bypass) => bring s (newLine l 32)
          | (s, .hold) => (s, .hold)

end Sys2Proof.Machine
end

