-- ==== Sys2Proof/Machine/Devices.lean ====
section
/-! DEFINITION. The registers of the 0xA window (R15, R17, R505): which register an offset names, what a read returns, and
what a write does. -/
namespace Sys2Proof.Machine

/-- The registers of one stack's 16 MiB. -/
inductive DevReg where
  | sbcfg (c b : Nat) | sbways (c : Nat) | sbquota (c f : Nat)
  | troot | tcinv | migctl (i : Nat) | retthr | region (r : Nat)
  | mbox (i w : Nat)
  | bank (d r : Nat)
  | gen (r : Nat)
  | sched (r : Nat)
  | qsub (f : Nat) | qstat (f : Nat)
  | ras (r : Nat) | log (e half : Nat) | hdoor (c : Nat)
  | pwrcap | pwrstat
  | hpcfg (q : Nat) | hpstat (q : Nat) | hdmwin
  | vfqos (f : Nat)
  | glcfg | glstat (p : Nat)
  | keygen
  deriving DecidableEq, Repr

/-- The register at an 8-byte-aligned offset of stack `k` (R32, R55, R56, R107, R136, R398, R427, R431, R432, R457, R458,
R462, R464, R469, R471, R473, R478). -/
def devReg (k off : Nat) : Option DevReg :=
  let blk := off / 2 ^ 20
  let o := off % 2 ^ 20
  if blk = 1 ∧ o < 0x20000 then
    let c := 2 * k + o / 0x10000
    let q := o % 0x10000
    if q < 0x100 then some (.sbcfg c (q / 8))
    else if q = 0x100 then some (.sbways c)
    else if 0x200 ≤ q ∧ q < 0x400 then some (.sbquota c ((q - 0x200) / 8))
    else none
  else if blk = 2 then
    if o = 0 then some .troot
    else if o = 8 then some .tcinv
    else if 0x10 ≤ o ∧ o < 0x30 then some (.migctl (o / 8 - 2))
    else if o = 0x30 then some .retthr
    else if 0x8000 ≤ o ∧ o < 0x10000 then some (.region ((o - 0x8000) / 8))
    else none
  else if blk = 3 then (if o < 0x400 ∧ o % 0x40 < 0x28 then some (.mbox (o / 0x40) (o % 0x40 / 8)) else none)
  else if blk = 4 then (if o < 0x10000 ∧ o % 0x1000 < 0x28 then some (.bank (16 * k + o / 0x1000) (o % 0x1000 / 8)) else none)
  else if blk = 5 then (if o < 0x50 then some (.gen (o / 8)) else none)
  else if blk = 6 then (if o < 0x18 then some (.sched (o / 8)) else none)
  else if blk = 7 ∧ k = 0 then
    (if 0x4000 ≤ o then none else if o % 0x100 = 0 then some (.qsub (o / 0x100))
     else if o % 0x100 = 8 then some (.qstat (o / 0x100)) else none)
  else if blk = 8 then
    (if o < 0x30 then some (.ras (o / 8))
     else if 0x100 ≤ o ∧ o < 0x1100 then some (.hdoor ((o - 0x100) / 8))
     else if 0x2000 ≤ o ∧ o < 0x3000 then some (.log ((o - 0x2000) / 16) (o / 8 % 2))
     else none)
  else if blk = 9 ∧ k = 0 then (if o = 0 then some .pwrcap else if o = 8 then some .pwrstat else none)
  else if blk = 10 ∧ k % 5 = 0 then
    (if o = 0 then some (.hpcfg (k / 5)) else if o = 8 then some (.hpstat (k / 5))
     else if o = 0x10 ∧ k = 0 then some .hdmwin else none)
  else if blk = 11 ∧ k = 0 then (if o < 0x200 then some (.vfqos (o / 8)) else none)
  else if blk = 12 then (if o = 0 then some .glcfg else if o < 0x28 then some (.glstat (o / 8 - 1)) else none)
  else if blk = 13 ∧ k = 0 then (if o = 0 then some .keygen else none)
  else none

/-- The word of a bank configuration register (R55). -/
def Bank.word (b : Bank) : Nat :=
  b.mode.toNat + 4 * b2n b.busy + 8 * b.last.toNat + 256 * b2n b.owned + 65536 * b.octx.toNat

/-- The word of a `MIGCTL` register (R32). -/
def Mig.word (m : Mig) : Nat := 8 * b2n m.held + 16 * b2n m.drained + 32 * m.size.toNat + 2 ^ 16 * m.ia.toNat

/-- The word of a snapshot slot (R136). -/
def GSlot.word (g : GSlot) : Nat :=
  g.g.toNat + 2 ^ 32 * g.state.toNat + 2 ^ 35 * b2n g.inc + 2 ^ 36 * b2n g.exh + 2 ^ 37 * b2n g.dfull + 2 ^ 38 * b2n g.fence

/-- Concurrently computing subarrays a die allows (R107). -/
def Die.allowed (d : Die) : Nat := min 4096 (max 1 d.base.toNat * (d.div.toNat + 1))

/-- Subarrays of a die that run an invocation. -/
def State.activeOn (s : State) (d : Nat) : Nat := (s.invs.filter (fun v => decide (v.die = d) && v.st.active)).length

/-- `QSTAT` (R427). -/
def Vf.qstat (v : Vf) : Nat :=
  v.entries.length + 512 * b2n v.ovf + 1024 * v.rung.toNat + 4096 * b2n v.rfail + 8192 * b2n v.gab + 2 ^ 16 * v.lost.toNat +
    2 ^ 32 * v.cons.toNat + 2 ^ 48 * v.next.toNat

/-- What a full read of a register returns; write-only registers read 0. -/
def State.devValue (s : State) (k : Nat) (r : DevReg) : Nat :=
  let t := s.getStk k
  match r with
  | .sbcfg c b => (s.getBank c b).word
  | .sbways c =>
    let w := (s.getClu c).ways
    (w.map (fun b => 2 ^ b)).foldl (· + ·) 0 + 2 ^ 32 * w.length
  | .sbquota c f => let q := sget {} (s.getClu c).quota f; q.banks.toNat + 2 ^ 16 * q.lines.toNat
  | .troot => b2n t.trootV + 2 ^ 13 * t.troot.toNat
  | .tcinv => if t.tcinvQ = [] then 0 else bitsOf t.tcinvLast.toNat 51 16 * 2 ^ 16 + bitsOf t.tcinvLast.toNat 2 0 + 2 ^ 63
  | .migctl i => (s.getMig k i).word
  | .retthr => t.retthr.toNat
  | .region r => (sget 0 s.regions r).toNat
  | .mbox i w =>
    let m := s.getBox k i
    if w = 0 then m.svc.toNat + 256 * m.rvf.toNat + 2 ^ 62 * b2n m.done + 2 ^ 63 * b2n m.go
    else if w = 1 then m.arg0.toNat else if w = 2 then m.arg1.toNat else if w = 3 then m.arg2.toNat else m.resp.toNat
  | .bank d r =>
    let e := s.getDie d
    if r = 0 then e.div.toNat + 256 * e.slotn.toNat + 2 ^ 16 * e.base.toNat
    else if r = 1 then e.lkmax.toNat
    else if r = 2 then s.activeOn d + 2 ^ 16 * e.allowed + 2 ^ 32 * e.queue.length +
      2 ^ 48 * (s.locks.filter (fun l => decide (l.die = d) && l.isHeld)).length
    else if r = 3 then e.corr.toNat + 2 ^ 16 * e.uncorr.toNat + 2 ^ 32 * e.bhalt.toNat + 2 ^ 48 * e.lkexp.toNat
    else (e.slots.map (fun q => 2 ^ q.1)).foldl (· + ·) 0 + 2 ^ 16 * (e.loading.map (fun q => 2 ^ q.1)).foldl (· ||| ·) 0
  | .gen r =>
    if r = 0 then b2n t.gsctlEn + 2 * t.gsctlSeq.toNat + 256 * t.gsctlRsv.toNat + 2 ^ 16 * t.gsctlRtmo.toNat
    else if r = 1 then t.gsres2.toNat
    else if r = 2 then t.gsda0.toNat
    else if r = 3 then t.gsda1.toNat
    else if r = 4 then (s.unitGen (unitHbm k)).toNat
    else if r = 5 then s.gens.slot0.word
    else if r = 6 then s.gens.slot1.word
    else if r = 7 then s.gens.slot0.recs.length + 2 ^ 32 * s.gens.slot0.lost
    else if r = 8 then s.gens.slot1.recs.length + 2 ^ 32 * s.gens.slot1.lost
    else if !t.gsctlEn then 0
    else ((upFrom (16 * k) 16).map s.freeFrames).foldl (· + ·) 0 % 2 ^ 32 + 2 ^ 32 * (s.freeFrames 256 % 2 ^ 32)
  | .sched r =>
    if r = 0 then t.t1.toNat + 2 ^ 16 * t.t2.toNat + 2 ^ 32 * t.glead.toNat + 2 ^ 44 * t.gmarg.toNat + 2 ^ 56 * t.bkoff.toNat
    else if r = 1 then t.cewgt.toNat
    else t.nak.toNat + 2 ^ 32 * t.gabt.toNat + 2 ^ 48 * t.skip.toNat
  | .qsub _ => 0
  | .qstat f => (s.getVf f).qstat
  | .ras r =>
    if r = 0 then s.plat.fstk.toNat + 2 ^ 16 * b2n s.plat.rr +
      2 ^ 17 * b2n (decide (s.plat.fstk ≠ 0) || s.stk.any (fun e => decide (e.2.rasFdie ≠ 0))) + 2 ^ 32 * t.rasFdie.toNat
    else if r = 1 then t.dthr.toNat + 256 * t.cthr.toNat + 2 ^ 40 * t.wdog.toNat
    else if r = 2 then t.logHead.toNat + 2 ^ 16 * t.logTail.toNat + 2 ^ 32 * t.logOvf.toNat
    else if r = 3 then t.rasdump.toNat
    else if r = 4 then t.corr.toNat + 2 ^ 32 * t.mchk.toNat
    else t.hb.toNat
  | .log e half =>
    let q := sget {} t.log e
    if half = 0 then q.tick.toNat
    else q.typ.toNat + 256 * q.unit.toNat + 2 ^ 16 * q.wher.toNat + 2 ^ 32 * q.detail.toNat
  | .hdoor _ => 0
  | .pwrcap => s.plat.capMod.toNat + 2 ^ 16 * s.plat.capBank.toNat
  | .pwrstat => s.plat.pmod.toNat + 2 ^ 16 * s.plat.pbank.toNat + 2 ^ 32 * b2n s.plat.thr + 2 ^ 33 * b2n s.plat.vfault
  | .hpcfg q => (s.getPort q).role.toNat
  | .hpstat q =>
    let p := s.getPort q
    b2n p.up + 2 * b2n p.cxl + 8 * p.width.toNat + 256 * p.gen.toNat
  | .hdmwin => b2n s.plat.hdmEn + 2 * s.plat.hdmVf.toNat + 2 ^ 28 * s.plat.hdmBase.toNat + 2 ^ 48 * s.plat.hdmSize.toNat
  | .vfqos f => (s.getVf f).qos.toNat
  | .glcfg => t.glPart.toNat + 256 * b2n t.glTbm
  | .glstat p =>
    let g := s.getGlow (4 * k + p)
    g.state.toNat + 4 * g.peer.toNat + 2 ^ 10 * g.pport.toNat + 2 ^ 16 * g.replay.toNat
  | .keygen => 0

/-! ## Writes with effects -/

/-- A region descriptor is written on every stack (R20). -/
def State.regionWrite (s : State) (r : Nat) (v : W64) : State :=
  { s with regions := sset 0 s.regions r (v &&& 0xffff7f#64) }

/-- The table entries on the walk of an IA that the table-entry cache may hold (R30, R32). -/
def State.walkKeys (s : State) (k ia : Nat) : List Nat :=
  let k2 := (s.getStk k).troot.toNat * 2 ^ 13 + 8 * (ia / 2 ^ 42 % 1024)
  [k2, pteFrame (s.entryAt k k2 true) * 2 ^ 16 + 8 * (ia / 2 ^ 29 % 8192)]

/-- What an invalidation removes (R32): by size code, translations and the table entries on the walk. -/
def State.invalidateTc (s : State) (k : Nat) (v : W64) : State :=
  let size := bitsOf v.toNat 2 0
  let ia := bitsOf v.toNat 51 16 * 2 ^ 16
  let t := s.getStk k
  if 6 ≤ size then s.setStk k { t with tc := [], tec := [] }
  else
    let keys := s.walkKeys k ia
    let tec := t.tec.filter (fun q => !nmem q.1 keys)
    if size = 5 then s.setStk k { t with tec := tec }
    else s.setStk k { t with tec := tec, tc := t.tc.filter (fun q =>
      !(decide (q.size = size) && decide (q.ia ≤ ia) && decide (ia < q.ia + pageSize q.size))) }

/-- A write of `TCINV` starts an invalidation; 16 may be queued (R32). False: the write waits. -/
def State.tcinvPush (s : State) (k : Nat) (v : W64) : State × Bool :=
  let t := s.getStk k
  if 17 ≤ t.tcinvQ.length then (s, false)
  else ((s.setStk k { t with tcinvQ := t.tcinvQ ++ [v], tcinvLast := v, walked := [] }).post (.tcinvInvalidationDone k), true)

/-- Two pages of a stack's `MIGCTL` registers overlap. -/
def Mig.overlaps (m : Mig) (ia n : Nat) : Bool :=
  decide (m.ia.toNat * 2 ^ 16 < ia + n) && decide (ia < m.ia.toNat * 2 ^ 16 + pageSize m.size.toNat)

/-- A HOLD request (R32, R44): ignored where the register holds a page or the page overlaps another held page; an ignored one leaves the
register as it was (log 97). -/
def State.migHold (s : State) (k i : Nat) (v : W64) : State :=
  let ia := bitsOf v.toNat 51 16 * 2 ^ 16
  let n := pageSize (bitsOf v.toNat 7 5)
  if (s.getMig k i).held ∨ (upto 4).any (fun j => decide (j ≠ i) && (s.getMig k j).held && (s.getMig k j).overlaps ia n) then s
  else (s.setMig k i { held := false, wanted := true, drained := false, size := v.extractLsb' 5 3, ia := v.extractLsb' 16 36 }).post
    (.migctlHoldGranted k i)

/-- The leaf of a 1 MiB page at its home makes it planar: the subarray it names and its VF. -/
def State.planarAt (s : State) (k page : Nat) : Option (Nat × Nat) :=
  match s.walk k (page * 2 ^ 20) with
  | .leaf e l _ => if ptePlanar e then some (keyUnder e (leafSize l e) (page * 2 ^ 20) / 2 ^ 20, pteKslot e) else none
  | .fault _ _ => none

/-- The 1 MiB pages of a range. -/
def mibPages (ia n : Nat) : List Nat := upFrom (ia / 2 ^ 20) ((ia + (n - 1)) / 2 ^ 20 - ia / 2 ^ 20 + 1)

/-- The owner tags of the subarrays of a page's run follow its entry as it now stands (R386). -/
def State.retag (s : State) (k ia n : Nat) : State :=
  let mine (v : Nat) : Bool := decide (ia / 2 ^ 20 ≤ v / 128) && decide (v / 128 ≤ (ia + (n - 1)) / 2 ^ 20)
  let owners := s.owners.filter (fun q => !mine q.2 || (match s.planarAt k (q.2 / 128) with
    | some (sub, _) => decide (sub = q.1)
    | none => false))
  (mibPages ia n).foldl (fun t page => match s.planarAt k page with
    | some (sub, f) => { t with owners := sset 0 t.owners sub (1 + f + 128 * page) }
    | none => t) { s with owners := owners }

/-- The lines of a 1 MiB page that a cluster holds, in its cache and in its atomic engine. -/
def Cluster.linesOf (c : Cluster) (page : Nat) : List Nat :=
  (c.lines.map (·.line) ++ c.cam.map (·.ln.line)).filter (fun l => decide (l / 8192 = page))

/-- A line leaves a cluster after its dirty bytes are written back. The entry of a hot line on which requests are queued stays for them,
with no byte valid. -/
def State.dropCopy (s : State) (c l : Nat) : State × Bool :=
  match s.cleanLine c l with
  | (s, false) => (s, false)
  | (s, true) => (s.onClu c (fun k => { k with
      lines := k.lines.filter (fun q => decide (q.line ≠ l))
      cam := (k.cam.filter (fun q => decide (q.ln.line ≠ l) || !q.queue.isEmpty)).map
        (fun q => if q.ln.line = l then { q with ln := { q.ln with valid := 0, dirty := 0 } } else q) }), true)

/-- Every cluster writes back the dirty bytes of the lines of some pages and invalidates them (R87, step 2). False: some must wait. -/
def State.flushPages (s : State) (pages : List Nat) : State × Bool :=
  pages.foldl (fun r page => s.clus.foldl (fun r e => (e.2.linesOf page).foldl (fun r l =>
    let q := r.1.dropCopy e.1 l
    (q.1, r.2 && q.2)) r) r) (s, true)

/-- A RELEASE (R32, R44): the held requests go on, against the entry as it now stands, once the lines of a page that is now planar have left
every cluster (R87, log 36). -/
def State.migRelease (s : State) (k i : Nat) : State :=
  let m := s.getMig k i
  if !m.held then s
  else
    let ia := m.ia.toNat * 2 ^ 16
    let n := pageSize m.size.toNat
    let s := (s.setMig k i { m with held := false, drained := false }).retag k ia n
    match s.flushPages ((mibPages ia n).filter (fun page => (s.planarAt k page).isSome)) with
    | (s, false) => (s.setMig k i m).postOnce (.migctlRelease k i)
    | (s, true) =>
      let s := s.moveFrames ia n
      let s := s.setStk k { s.getStk k with heldBy := [] }
      let go := s.reqs.filter (fun r => decide (r.stage = .heldMig))
      go.foldl (fun t r => { t with reqs := modList (fun q => q.id = r.id) (fun q => { q with stage := .sent }) t.reqs }.post (.homeAccess r.id)) s

/-- `prod` and `cons` of a FIFO bank's header (R64). -/
def bankKey (c b : Nat) : Nat := keySram + 2 ^ 24 * c + 2 ^ 19 * b
def State.bankNat (s : State) (c b o n : Nat) : Nat := ofBytesLE ((upFrom (bankKey c b + o) n).map s.byteAt)
def State.bankPut (s : State) (c b o n v : Nat) : State :=
  ((upFrom (bankKey c b + o) n).zip (bytesLE n v)).foldl (fun t e => t.setByte e.1 e.2) s

/-- A transition request (R57): the first check that fails gives its status; else it starts (none), or the mode is the
present one (DONE). `by_` is the requesting context's key, its identifier and its VF; a `SBCFG` write has none (R55). A scratchpad bank whose
header bytes have `prod` ≠ `cons` does not move into FIFO mode (R66); a bank in cache mode has no header (log 88). -/
def State.bankRequest (s : State) (c b : Nat) (mode : BitVec 2) (by_ : Option (BitVec 16 × Nat)) : State × Option Nat :=
  let k := s.getBank c b
  let refuse (n : Nat) : State × Option Nat := (s.setBank c b { k with last := BitVec.ofNat 3 n }, some n)
  let ownedByOther := match by_ with
    | some (x, _) => k.owned && decide (k.octx ≠ x)
    | none => false
  let overQuota := match by_ with
    | some (x, f) => decide (k.mode = 0) && decide (mode ≠ 0) &&
        decide (min 32 (sget ({} : Quota) (s.getClu c).quota f).banks.toNat ≤
          ((upto 32).filter (fun j => (s.getBank c j).owned && decide ((s.getBank c j).octx = x))).length)
    | none => false
  if mode = 3 then refuse 5
  else if ownedByOther then refuse 3
  else if k.busy then refuse 4
  else if mode = k.mode then (s.setBank c b { k with last := 0 }, some 0)
  else if overQuota then refuse 2
  else if (k.mode = 2 ∨ k.mode = 1 ∧ mode = 2) ∧ s.bankNat c b 0 4 ≠ s.bankNat c b 4 4 then refuse 1
  else
    let k := { k with busy := true, target := mode,
                      owned := if k.mode = 0 then by_.isSome else k.owned,
                      octx := if k.mode = 0 then (by_.map (·.1)).getD 0 else k.octx }
    ((s.setBank c b k).post (.bankTransitionDone c b), none)

/-- A write of `GSCTL` (R114, R136). The count starts at the first stack whose `en` is set while no other stack's is; a restart keeps the
blocks' last writes and the slots. DESIGN CHOICE (log 89). -/
def State.gsctl (s : State) (k : Nat) (v : W64) : State :=
  let t := s.getStk k
  let busy := [0, 1].any (fun i => decide ((s.gens.slot i).state = 1) || decide ((s.gens.slot i).state = 2))
  let en := if t.gsctlEn && !v.getLsbD 0 && busy then true else v.getLsbD 0
  let first := en && !s.stk.any (fun e => e.2.gsctlEn)
  let s := s.setStk k { t with
    gsctlEn := en
    gsctlSeq := if t.gsctlEn then t.gsctlSeq else v.extractLsb' 1 4
    gsctlRsv := if t.gsctlEn then t.gsctlRsv else v.extractLsb' 8 8
    gsctlRtmo := v.extractLsb' 16 32 }
  if first then
    let set (h : Hart) : Hart := { h with gen := 1 }
    { s with gens := { s.gens with dev := 1, lag := [] }, hart := set s.hart, harts := s.harts.map set }
  else s

/-- A write of `QSUB` (R428): numbered in arrival order; a write that finds 256 entries is refused. -/
def State.qsubPush (s : State) (f : Nat) (v : W64) : State :=
  let q := s.getVf f
  if q.flr then s
  else if 256 ≤ q.entries.length then
    let s := s.setVf f { q with next := q.next + 1, ovf := true, lost := if q.ovf then q.lost else q.next }
    let s := if q.ovf then s else s.msixVf f 2
    let e := BitVec.ofNat 64 (2 ^ 63 + 3 * 2 ^ 56 + f * 2 ^ 50)
    (s.setStk 0 { s.getStk 0 with errq := (s.getStk 0).errq ++ [e] }).msixVf f 1
  else s.setVf f { q with next := q.next + 1, entries := q.entries ++ [(q.next.toNat, v)] }

/-- A write of `QSTAT` (R427, R429): the W1C bits, and `cons` at sup and mon, which frees the entries up to its number. -/
def State.qstatPut (s : State) (f : Nat) (v : W64) (lvl : Level) : State :=
  let q := s.getVf f
  let q := { q with ovf := q.ovf && !v.getLsbD 9, rfail := q.rfail && !v.getLsbD 12, gab := q.gab && !v.getLsbD 13 }
  let q := if lvl = .app then q
    else
      let c := v.extractLsb' 32 16
      let kept := q.entries.filter (fun e => !decide ((c - BitVec.ofNat 16 e.1).toNat < 256))
      { q with cons := c, entries := kept, fetched := q.fetched - (q.entries.length - kept.length) }
  s.setVf f q

/-- A doorbell (R457). -/
def State.hdoor (s : State) (k core : Nat) : State := s.pend (512 * k + core) 1 0

/-- A heartbeat (R457): any write restarts the watchdog. -/
def State.heartbeat (s : State) (k : Nat) (v : W64) : State :=
  let t := s.getStk k
  s.setStk k { t with hb := v, hbAt := (upto 4).foldl (fun m i => sset 0 m i s.tick) t.hbAt }

/-- A key slot receives a fresh key (R471). -/
def State.freshKey (s : State) (f : Nat) : State := s.setVf f { s.getVf f with key := (s.getVf f).key + 1 }

/-- A write of a mailbox word (R432). -/
def State.mboxPut (s : State) (k i w : Nat) (v : W64) (vf : Nat) : State :=
  let m := s.getBox k i
  if m.go ∧ w ≤ 3 then s
  else if w = 0 then
    if v.getLsbD 63 then
      let s := s.setBox k i { m with svc := v.extractLsb' 0 8, rvf := BitVec.ofNat 8 vf, done := false, go := true }
      let s := s.pend (8192 + 4 * k + i % 4) 1 0
      if v.extractLsb' 0 8 = 1 then s.post (.mailboxRollback k i) else s.post (.mailboxUnknownService k i)
    else s.setBox k i { m with svc := v.extractLsb' 0 8 }
  else if w = 1 then s.setBox k i { m with arg0 := v }
  else if w = 2 then s.setBox k i { m with arg1 := v }
  else if w = 3 then s.setBox k i { m with arg2 := v }
  else s

/-- A write of a bank-plane register (R107). -/
def State.bankRegPut (s : State) (d r : Nat) (v : W64) : State :=
  let e := s.getDie d
  if r = 0 then s.setDie d { e with div := v.extractLsb' 0 3, slotn := v.extractLsb' 8 6, base := v.extractLsb' 16 9 }
  else if r = 1 then s.setDie d { e with lkmax := v.extractLsb' 0 20 }
  else if r = 3 then s.setDie d { e with corr := v.extractLsb' 0 16, uncorr := v.extractLsb' 16 16,
                                         bhalt := v.extractLsb' 32 16, lkexp := v.extractLsb' 48 16 }
  else s

/-- A write of a register (R7: at its RW fields only). False: the write waits. A write of `MIGCTL` whose `op` is not 1, or whose HOLD is
ignored, leaves `size` and `ia` as they were. DESIGN CHOICE (log 97). -/
def State.devPut (s : State) (w : Who) (k : Nat) (r : DevReg) (v : W64) : State × Bool :=
  let t := s.getStk k
  match r with
  | .sbcfg c b => ((s.bankRequest c b (v.extractLsb' 0 2) none).1, true)
  | .sbways _ => (s, true)
  | .sbquota c f => (s.onClu c (fun q => { q with quota := sset {} q.quota f { banks := v.extractLsb' 0 6, lines := v.extractLsb' 16 16 } }), true)
  | .troot => (s.setStk k { t with trootV := v.getLsbD 0, troot := v.extractLsb' 13 39 }, true)
  | .tcinv => s.tcinvPush k (v &&& 0xfffffffff0007#64)
  | .migctl i =>
    let op := v.extractLsb' 0 3
    (if op = 1 then s.migHold k i v else if op = 2 then s.migRelease k i else s, true)
  | .retthr => (s.setStk k { t with retthr := v.extractLsb' 0 16 }, true)
  | .region r => (s.regionWrite r v, true)
  | .mbox i x => (s.mboxPut k i x v w.vf, true)
  | .bank d r => (s.bankRegPut d r v, true)
  | .gen r =>
    let m := v.extractLsb' 0 28 &&& 0xfff0fff#28
    (if r = 0 then s.gsctl k v
     else if r = 1 then s.setStk k { t with gsres2 := m }
     else if r = 2 then s.setStk k { t with gsda0 := m }
     else if r = 3 then s.setStk k { t with gsda1 := m }
     else s, true)
  | .sched r =>
    (if r = 0 then s.setStk k { t with t1 := v.extractLsb' 0 16, t2 := v.extractLsb' 16 16, glead := v.extractLsb' 32 12,
                                       gmarg := v.extractLsb' 44 12, bkoff := v.extractLsb' 56 8 }
     else if r = 1 then s.setStk k { t with cewgt := v.extractLsb' 0 32 }
     else s.setStk k { t with nak := v.extractLsb' 0 32, gabt := v.extractLsb' 32 16, skip := v.extractLsb' 48 16 }, true)
  | .qsub f => (s.qsubPush f v, true)
  | .qstat f => (s.qstatPut f v w.lvl, true)
  | .ras r =>
    (if r = 1 then
       { s with stk := (upto 16).foldl (fun m j => sset {} m j { sget {} m j with
           dthr := v.extractLsb' 0 8, cthr := v.extractLsb' 8 32, wdog := v.extractLsb' 40 16 }) s.stk }
     else if r = 2 then s.setStk k { t with logTail := v.extractLsb' 16 16 }
     else if r = 3 then s.setStk k { t with rasdump := v &&& 0xfff0fff#64 }
     else if r = 4 then s.setStk k { t with corr := v.extractLsb' 0 32, mchk := v.extractLsb' 32 32 }
     else if r = 5 then s.heartbeat k v
     else s, true)
  | .log _ _ => (s, true)
  | .hdoor c => (s.hdoor k c, true)
  | .pwrcap => ({ s with plat := { s.plat with capMod := BitVec.ofNat 16 (min 2800 (v.extractLsb' 0 16).toNat),
                                               capBank := BitVec.ofNat 16 (min 320 (v.extractLsb' 16 16).toNat) } }, true)
  | .pwrstat => (s, true)
  | .hpcfg q => (s.setPort q { s.getPort q with role := v.extractLsb' 0 2 }, true)
  | .hpstat _ => (s, true)
  | .hdmwin => ({ s with plat := { s.plat with hdmEn := v.getLsbD 0, hdmVf := v.extractLsb' 1 6, hdmBase := v.extractLsb' 28 20,
                                               hdmSize := v.extractLsb' 48 16 } }, true)
  | .vfqos f => (s.setVf f { s.getVf f with qos := v &&& 0x1fffffffffffffff#64 }, true)
  | .glcfg => (s.setStk k { t with glPart := v.extractLsb' 0 8, glTbm := v.getLsbD 8 }, true)
  | .glstat _ => (s, true)
  | .keygen => (if v.toNat < 64 then s.freshKey v.toNat else s, true)

/-! ## The checks of the window (R505) -/

/-- A register that app may not read. -/
def DevReg.supRead : DevReg → Bool
  | .troot | .tcinv | .migctl _ | .retthr | .region _ => true
  | _ => false

/-- A register that app may not write. -/
def DevReg.supWrite : DevReg → Bool
  | .qsub _ | .qstat _ => false
  | _ => true

/-- A load of the window (R505): the named bytes of one register, or none where a check fails. -/
def State.devLoad (s : State) (w : Who) (k off n : Nat) : Option (State × Nat) :=
  if off % n ≠ 0 ∨ 8 < n then none
  else match devReg k (off / 8 * 8) with
    | none => some (s, 0)
    | some r =>
      if r.supRead && decide (w.lvl = .app) then none
      else
        let v := s.devValue k r / 2 ^ (8 * (off % 8)) % 2 ^ (8 * n)
        some (s, v)

/-- A store of the window (R505): none where a check fails; false where the write waits. -/
def State.devStore (s : State) (w : Who) (k off n : Nat) (v : W64) : Option (State × Bool) :=
  if n ≠ 8 ∨ off % 8 ≠ 0 then none
  else match devReg k off with
    | none => some (s, true)
    | some r => if r.supWrite && decide (w.lvl = .app) then none else some (s.devPut w k r v)

end Sys2Proof.Machine
end

