-- ==== Sys2Proof/Machine/Flags.lean ====
section
/-! DEFINITION. The floating-point flags (R209), as bits of a number in the layout of `fflags`. -/
namespace Sys2Proof.Machine

def fNx : Nat := 1
def fUf : Nat := 2
def fOf : Nat := 4
def fDz : Nat := 8
def fNv : Nat := 16
def fTi : Nat := 32
def fEs : Nat := 64

/-- The flag `f` if `b` holds. -/
def flagIf (b : Bool) (f : Nat) : Nat := if b then f else 0

end Sys2Proof.Machine
end

