-- ==== Sys2Proof/Machine/Float.lean ====
section
/-! DEFINITION. Number formats and their arithmetic (R217 to R229): codes, exact values, rounding, and the operations of
which every scalar, vector and matrix instruction is made. -/
namespace Sys2Proof.Machine

/-! ## Formats -/

/-- A floating-point format (R221, R222): its width, exponent and mantissa bits, bias, whether it has infinities, and its
NaN codes: 0 none, 1 the one code of E4M3, 2 as IEEE 754. -/
structure Fmt where
  w : Nat
  eb : Nat
  mb : Nat
  bias : Nat
  inf : Bool
  nan : Nat
  deriving DecidableEq, Repr

def fp32 : Fmt := { w := 32, eb := 8, mb := 23, bias := 127, inf := true, nan := 2 }
def bf16 : Fmt := { w := 16, eb := 8, mb := 7, bias := 127, inf := true, nan := 2 }
def fp16 : Fmt := { w := 16, eb := 5, mb := 10, bias := 15, inf := true, nan := 2 }
def e4m3 : Fmt := { w := 8, eb := 4, mb := 3, bias := 7, inf := false, nan := 1 }
def e5m2 : Fmt := { w := 8, eb := 5, mb := 2, bias := 15, inf := true, nan := 2 }
def e3m2 : Fmt := { w := 6, eb := 3, mb := 2, bias := 3, inf := false, nan := 0 }
def e2m3 : Fmt := { w := 6, eb := 2, mb := 3, bias := 1, inf := false, nan := 0 }
def e2m1 : Fmt := { w := 4, eb := 2, mb := 1, bias := 1, inf := false, nan := 0 }

/-- The floating-point format of a code (R217). -/
def fmtOf (c : Nat) : Option Fmt :=
  if c = 0 then some fp32 else if c = 1 then some bf16 else if c = 2 then some fp16 else if c = 3 then some e4m3
  else if c = 4 then some e5m2 else if c = 5 then some e3m2 else if c = 6 then some e2m3 else if c = 7 then some e2m1 else none

/-- The integer format of a code as (bits, signed) (R217). -/
def intOf (c : Nat) : Option (Nat × Bool) :=
  if 0x10 ≤ c ∧ c ≤ 0x15 then some (2 ^ (c - 0x10 + 1), true)
  else if 0x18 ≤ c ∧ c ≤ 0x1D then some (2 ^ (c - 0x18 + 1), false) else none

/-- The width that an element of a format takes in vector registers (R217). -/
def formatSew (c : Nat) : Nat :=
  if c = 0 then 32 else if c ≤ 2 then 16 else if c ≤ 6 then 8 else if c = 7 then 4 else if c = 8 then 8
  else if c = 0x1F then 2 else match intOf c with
    | some (w, _) => w
    | none => 0

/-- The width of an element of a format in memory (R217, R224). -/
def formatBits (c : Nat) : Nat := if c = 5 ∨ c = 6 then 6 else formatSew c

/-- The sign bit. -/
def Fmt.sign (f : Fmt) : Nat := 2 ^ (f.w - 1)
/-- The code of the greatest finite magnitude (R221). -/
def Fmt.maxCode (f : Fmt) : Nat :=
  if f.nan = 2 then (2 ^ f.eb - 1) * 2 ^ f.mb - 1 else if f.nan = 1 then 2 ^ (f.w - 1) - 2 else 2 ^ (f.w - 1) - 1
/-- The code of +∞. -/
def Fmt.infCode (f : Fmt) : Nat := (2 ^ f.eb - 1) * 2 ^ f.mb
/-- The canonical NaN (R222). -/
def Fmt.canon (f : Fmt) : Nat :=
  if f.nan = 2 then (2 ^ f.eb - 1) * 2 ^ f.mb + 2 ^ (f.mb - 1) else if f.nan = 1 then 2 ^ (f.w - 1) - 1 else 0

/-! ## Values -/

/-- The value of a code: a NaN (signalling or not), an infinity, or (−1)^neg × m × 2^e. -/
inductive FV where
  | nan (sig : Bool)
  | inf (neg : Bool)
  | fin (neg : Bool) (m : Nat) (e : Int)
  deriving DecidableEq, Repr

/-- The value of a code (R221, R222). -/
def Fmt.decode (f : Fmt) (c : Nat) : FV :=
  let neg := bitOf c (f.w - 1)
  let E := c / 2 ^ f.mb % 2 ^ f.eb
  let F := c % 2 ^ f.mb
  if f.nan = 2 ∧ E = 2 ^ f.eb - 1 then (if F = 0 then .inf neg else .nan (!bitOf F (f.mb - 1)))
  else if f.nan = 1 ∧ c % 2 ^ (f.w - 1) = 2 ^ (f.w - 1) - 1 then .nan false
  else if E = 0 then .fin neg F (1 - f.bias - f.mb)
  else .fin neg (2 ^ f.mb + F) (E - f.bias - f.mb)

def FV.isSig : FV → Bool
  | .nan s => s
  | _ => false

def FV.isNan : FV → Bool
  | .nan _ => true
  | _ => false

/-- The value with its sign inverted. -/
def FV.neg : FV → FV
  | .nan s => .nan s
  | .inf n => .inf (!n)
  | .fin n m e => .fin (!n) m e

/-- The exact signed value at exponent `e0`, for a finite value whose exponent is not below it. -/
def scaled (neg : Bool) (m : Nat) (e e0 : Int) : Int :=
  let v : Int := m * 2 ^ (e - e0).toNat
  if neg then -v else v

/-! ## Rounding (R226, R227) -/

/-- Whether the magnitude is rounded up: the quotient's parity, and where the rest lies (0 exact, 1 below half, 2 half,
3 above half). Modes: 0 RNE, 1 RTZ, 2 RDN, 3 RUP, 4 RMM; EFB and static codes act as RNE here. -/
def roundsUp (rm : Nat) (neg odd : Bool) (rest : Nat) : Bool :=
  if rm = 1 then false
  else if rm = 2 then neg && decide (rest ≠ 0)
  else if rm = 3 then !neg && decide (rest ≠ 0)
  else if rm = 4 then decide (2 ≤ rest)
  else decide (rest = 3) || (decide (rest = 2) && odd)

/-- A magnitude divided by 2^d: the quotient, and where the rest lies. `sticky` says that the true value is a little above. -/
def splitAt2 (m : Nat) (sticky : Bool) (d : Int) : Nat × Nat :=
  if d ≤ 0 then (m * 2 ^ (-d).toNat, if sticky then 1 else 0)
  else
    let k := d.toNat
    let r := m % 2 ^ k
    let half := 2 ^ (k - 1)
    (m / 2 ^ k, if r = 0 ∧ sticky = false then 0 else if r < half then 1 else if r = half ∧ sticky = false then 2 else 3)

/-- The exact value (−1)^neg × m × 2^e (a little above m where `sticky`) rounded to a format: its code and flags. `sat`
marks a saturating context (R227). -/
def Fmt.round (f : Fmt) (rm : Nat) (sat neg : Bool) (m : Nat) (e : Int) (sticky : Bool) : Nat × Nat :=
  let sg := if neg then f.sign else 0
  if m = 0 then (sg, 0)
  else
    let emin : Int := 1 - f.bias
    let E := max (Nat.log2 m + e) emin
    let qe := E - f.mb
    let (k, rest) := splitAt2 m sticky (qe - e)
    let k' := if roundsUp rm neg (k % 2 = 1) rest then k + 1 else k
    let code := (E - emin).toNat * 2 ^ f.mb + k'
    if f.maxCode < code then
      let toMax := sat || !f.inf || decide (rm = 1) || (decide (rm = 2) && !neg) || (decide (rm = 3) && neg)
      (sg + (if toMax then f.maxCode else f.infCode), fOf + fNx)
    else
      (sg + code, flagIf (decide (rest ≠ 0)) fNx + flagIf (decide (rest ≠ 0) && decide (code < 2 ^ f.mb)) fUf)

/-- A value written in a format (R229): NaN, infinities and finite values. -/
def Fmt.put (f : Fmt) (rm : Nat) (sat : Bool) : FV → Nat × Nat
  | .nan s => if f.nan = 0 then (0, fNv) else (f.canon, flagIf s fNv)
  | .inf n =>
    let sg := if n then f.sign else 0
    if f.inf then (sg + f.infCode, 0) else (sg + f.maxCode, fOf + fNx)
  | .fin n m e => f.round rm sat n m e false

/-- The sign of an exact zero sum of addends with these signs (R228). -/
def zeroSign (rm : Nat) (a b : Bool) : Bool := if a = b then a else decide (rm = 2)

/-- An exact sum of two finite values. -/
def exactSum (an : Bool) (am : Nat) (ae : Int) (bn : Bool) (bm : Nat) (be : Int) : Int × Int :=
  let e := min ae be
  (scaled an am ae e + scaled bn bm be e, e)

/-- The flags of reading signalling NaNs. -/
def sigFlags (l : List FV) : Nat := flagIf (l.any FV.isSig) fNv

/-- An exact sum rounded once (R225, R228). -/
def Fmt.sum (f : Fmt) (rm : Nat) (sat : Bool) (a b : FV) : Nat × Nat :=
  match a, b with
  | .nan _, _ | _, .nan _ => (f.canon, sigFlags [a, b])
  | .inf x, .inf y => if x = y then ((if x then f.sign else 0) + f.infCode, 0) else (f.canon, fNv)
  | .inf x, _ => ((if x then f.sign else 0) + f.infCode, 0)
  | _, .inf y => ((if y then f.sign else 0) + f.infCode, 0)
  | .fin an am ae, .fin bn bm be =>
    let (v, e) := exactSum an am ae bn bm be
    if v = 0 then (if zeroSign rm an bn then f.sign else 0, 0)
    else f.round rm sat (decide (v < 0)) v.natAbs e false

/-- An exact product: a value, and the flags of an invalid operation. -/
def product (a b : FV) : FV × Nat :=
  match a, b with
  | .nan _, _ | _, .nan _ => (.nan false, sigFlags [a, b])
  | .inf x, .inf y => (.inf (x != y), 0)
  | .inf x, .fin y m _ => if m = 0 then (.nan false, fNv) else (.inf (x != y), 0)
  | .fin x m _, .inf y => if m = 0 then (.nan false, fNv) else (.inf (x != y), 0)
  | .fin x m e, .fin y n g => (.fin (x != y) (m * n) (e + g), 0)

/-! ## Operations on codes -/

def Fmt.add (f : Fmt) (rm a b : Nat) : Nat × Nat := f.sum rm false (f.decode a) (f.decode b)
def Fmt.sub (f : Fmt) (rm a b : Nat) : Nat × Nat := f.sum rm false (f.decode a) (f.decode b).neg

def Fmt.mul (f : Fmt) (rm a b : Nat) : Nat × Nat :=
  match product (f.decode a) (f.decode b) with
  | (.nan _, fl) => (f.canon, fl)
  | (v, fl) => let (c, g) := f.put rm false v; (c, fl ||| g)

/-- round(a × b + c), one rounding; 0 × ∞ is invalid even with a quiet NaN addend (R286). -/
def Fmt.fma (f : Fmt) (rm a b c : Nat) : Nat × Nat :=
  match product (f.decode a) (f.decode b) with
  | (.nan _, fl) => (f.canon, fl ||| sigFlags [f.decode c])
  | (v, _) => f.sum rm false v (f.decode c)

/-- A quotient of finite magnitudes with enough bits for one rounding to `p` bits. -/
def quotient (p : Nat) (m : Nat) (e : Int) (n : Nat) (g : Int) : Nat × Int × Bool :=
  let sh := p + 3 + Nat.log2 n - Nat.log2 m
  (m * 2 ^ sh / n, e - g - sh, decide (m * 2 ^ sh % n ≠ 0))

def Fmt.div (f : Fmt) (rm a b : Nat) : Nat × Nat :=
  match f.decode a, f.decode b with
  | .nan x, y => (f.canon, sigFlags [.nan x, y])
  | x, .nan y => (f.canon, sigFlags [x, .nan y])
  | .inf _, .inf _ => (f.canon, fNv)
  | .inf x, .fin y _ _ => ((if x != y then f.sign else 0) + f.infCode, 0)
  | .fin x _ _, .inf y => (if x != y then f.sign else 0, 0)
  | .fin x m e, .fin y n g =>
    let sg := if x != y then f.sign else 0
    if n = 0 then (if m = 0 then (f.canon, fNv) else (sg + f.infCode, fDz))
    else if m = 0 then (sg, 0)
    else
      let (q, k, st) := quotient (f.mb + 1) m e n g
      f.round rm false (x != y) q k st

/-- The integer square root, bit by bit from bit `i` down. -/
def isqrt : Nat → Nat → Nat → Nat
  | 0, r, n => if (r + 1) * (r + 1) ≤ n then r + 1 else r
  | i + 1, r, n => isqrt i (if (r + 2 ^ (i + 1)) * (r + 2 ^ (i + 1)) ≤ n then r + 2 ^ (i + 1) else r) n

/-- The square root of m × 2^e as a magnitude, exponent and sticky bit, with `k` fraction bits more than it needs. -/
def rootOf (k m : Nat) (e : Int) : Nat × Int × Bool :=
  let m := if e % 2 = 0 then m else 2 * m
  let e := if e % 2 = 0 then e else e - 1
  let n := m * 2 ^ (2 * k)
  let r := isqrt (Nat.log2 n / 2 + 1) 0 n
  (r, e / 2 - k, decide (r * r ≠ n))

def Fmt.sqrt (f : Fmt) (rm a : Nat) : Nat × Nat :=
  match f.decode a with
  | .nan s => (f.canon, flagIf s fNv)
  | .inf n => if n then (f.canon, fNv) else (f.infCode, 0)
  | .fin n m e =>
    if m = 0 then (if n then f.sign else 0, 0)
    else if n then (f.canon, fNv)
    else
      let (r, k, st) := rootOf (f.mb + 4) m e
      f.round rm false false r k st

/-- A finite value compared with another: −1, 0 or 1. -/
def FV.cmp : FV → FV → Int
  | .inf x, .inf y => if x = y then 0 else if x then -1 else 1
  | .inf x, _ => if x then -1 else 1
  | _, .inf y => if y then 1 else -1
  | .fin an am ae, .fin bn bm be =>
    let e := min ae be
    let d := scaled an am ae e - scaled bn bm be e
    if d < 0 then -1 else if d = 0 then 0 else 1
  | _, _ => 0

/-- FMIN and FMAX (R288): −0 is below +0; one NaN gives the other operand. -/
def Fmt.minmax (f : Fmt) (big : Bool) (a b : Nat) : Nat × Nat :=
  let x := f.decode a
  let y := f.decode b
  let fl := sigFlags [x, y]
  if x.isNan && y.isNan then (f.canon, fl)
  else if x.isNan then (b % 2 ^ f.w, fl)
  else if y.isNan then (a % 2 ^ f.w, fl)
  else
    let c := x.cmp y
    let aLess := decide (c < 0) || (decide (c = 0) && bitOf a (f.w - 1))
    ((if aLess != big then a else b) % 2 ^ f.w, fl)

/-- FCMP (R288): 0 equal, 1 less, 2 less or equal. -/
def Fmt.cmp (f : Fmt) (k a b : Nat) : Bool × Nat :=
  let x := f.decode a
  let y := f.decode b
  if x.isNan || y.isNan then (false, if k = 0 then sigFlags [x, y] else fNv)
  else
    let c := x.cmp y
    (if k = 0 then decide (c = 0) else if k = 1 then decide (c < 0) else decide (c ≤ 0), 0)

/-- FSGN (R288): the sign of b, its inverse, or the XOR of both. -/
def Fmt.sgn (f : Fmt) (k a b : Nat) : Nat :=
  let x := bitOf a (f.w - 1)
  let y := bitOf b (f.w - 1)
  let s := if k = 0 then y else if k = 1 then !y else x != y
  a % 2 ^ (f.w - 1) + (if s then f.sign else 0)

/-- FCLASS (R288). -/
def Fmt.cls (f : Fmt) (a : Nat) : Nat :=
  match f.decode a with
  | .nan s => if s then 2 ^ 8 else 2 ^ 9
  | .inf n => if n then 2 ^ 0 else 2 ^ 7
  | .fin n m _ =>
    if m = 0 then (if n then 2 ^ 3 else 2 ^ 4)
    else if m < 2 ^ f.mb then (if n then 2 ^ 2 else 2 ^ 5)
    else (if n then 2 ^ 1 else 2 ^ 6)

/-! ## Conversions (R220, R229) -/

/-- The two's complement code of an integer at a width. -/
def intCode (w : Nat) (v : Int) : Nat := (v % 2 ^ w).toNat
/-- The integer that a code of a width holds. -/
def intVal (w : Nat) (signed : Bool) (c : Nat) : Int :=
  let c := c % 2 ^ w
  if signed && bitOf c (w - 1) then (c : Int) - 2 ^ w else c

def intMax (w : Nat) (signed : Bool) : Int := if signed then 2 ^ (w - 1) - 1 else 2 ^ w - 1
def intMin (w : Nat) (signed : Bool) : Int := if signed then -(2 ^ (w - 1)) else 0

/-- A floating-point value converted to an integer format (R220). -/
def toInt (rm w : Nat) (signed : Bool) : FV → Int × Nat
  | .nan _ => (intMax w signed, fNv)
  | .inf n => (if n then intMin w signed else intMax w signed, fNv)
  | .fin n m e =>
    let (k, rest) := splitAt2 m false (-e)
    let k' : Int := if roundsUp rm n (k % 2 = 1) rest then k + 1 else k
    let v := if n then -k' else k'
    if intMax w signed < v then (intMax w signed, fNv)
    else if v < intMin w signed then (intMin w signed, fNv)
    else (v, flagIf (decide (rest ≠ 0)) fNx)

/-- An integer as an exact value. -/
def ofInt (v : Int) : FV := .fin (decide (v < 0)) v.natAbs 0

/-- The ternary value of a code (R219): the value, and whether the code is invalid. -/
def ternVal (c : Nat) : Int × Bool :=
  if c % 4 = 1 then (1, false) else if c % 4 = 3 then (-1, false) else (0, decide (c % 4 = 2))

/-- The value of an element of any format but E8M0, and its flags. -/
def elemVal (code c : Nat) : FV × Nat :=
  if code = 0x1F then (ofInt (ternVal c).1, flagIf (ternVal c).2 fTi)
  else match fmtOf code with
    | some f => let v := f.decode (c % 2 ^ f.w); (v, sigFlags [v])
    | none => match intOf code with
      | some (w, s) => (ofInt (intVal w s c), 0)
      | none => (.fin false 0 0, 0)

/-- A conversion between two formats of R217: the code written, and the flags. -/
def convert (src dst rm : Nat) (sat : Bool) (c : Nat) : Nat × Nat :=
  let (v, fl) := elemVal src c
  match fmtOf dst with
  | some f => let (r, g) := f.put rm sat v; (r, fl ||| g)
  | none => match intOf dst with
    | some (w, s) => let (r, g) := toInt rm w s v; (intCode w r, fl ||| g)
    | none => (0, fl)

/-! ## Scales (R223) -/

/-- A value times 2^k. -/
def FV.scale (v : FV) (k : Int) : FV :=
  match v with
  | .fin n m e => .fin n m (e + k)
  | v => v

/-- The exponent of an E8M0 byte, or none for its NaN. -/
def scaleExp (x : Nat) : Option Int := if x % 256 = 255 then none else some ((x % 256 : Nat) - 127)

end Sys2Proof.Machine
end

