-- ==== Sys2Proof/Machine/Reach.lean ====
section
/-! DEFINITION. Loads, stores and AMOs at every window of the IA map (R15 to R19, R62, R63, R69, R75, R77, R139, R280 to R282). -/
namespace Sys2Proof.Machine

/-! ## Windows -/

/-- The key of a slot descriptor of a bay. -/
def slotKey (k bay slot : Nat) : Nat := (64 * k + bay) * 64 + slot

/-- An MMA that was issued earlier and still reads the slot bytes, of whichever bay, holds a window store back (R77). -/
def State.slotWaited (s : State) (k off n : Nat) : Bool :=
  s.mops.any (fun m =>
    let a := m.bay * 2 ^ 22 + m.slot * 65536
    decide (m.stack = k) && (decide (m.sub = 8) || decide (m.sub = 9)) && (decide (m.st = .waiting) || decide (m.st = .running)) &&
      decide (a < off + n) && decide (off < a + (s.getSlot (slotKey k m.bay m.slot)).units * 65536))

/-- The kinds of access to a cluster SRAM bank (R62). -/
inductive SramUse where
  | load | store | amo
  deriving DecidableEq, Repr

/-- Every bank that an SRAM window access touches allows it (R62); else cause 0x30. -/
def State.sramAllows (s : State) (c off n : Nat) (u : SramUse) : Bool :=
  (upFrom (off / 2 ^ 19) ((off + (n - 1)) / 2 ^ 19 - off / 2 ^ 19 + 1)).all (fun b =>
    let k := s.getBank c b
    let first := max off (2 ^ 19 * b) - 2 ^ 19 * b
    !k.busy && (decide (k.mode = 1) || (decide (k.mode = 2) && (decide (u = .load) || (decide (u = .store) && decide (256 ≤ first))))))

/-- The keys of a window's bytes, where it has any, and the unit that serves it. -/
def Win.keys (w : Win) (n : Nat) : List Nat × Nat :=
  match w with
  | .lantern k off => (upFrom (keyLantern + 2 ^ 28 * k + off) n, unitLantern k)
  | .sram c off => (upFrom (keySram + 2 ^ 24 * c + off) n, unitSram c)
  | .peer p off => (upFrom (keyPeer + 2 ^ 48 * p + off) n, unitGlow 0)
  | .host q off => (upFrom (keyFar + 2 ^ 50 * q + off) n, unitHost q)
  | _ => ([], 0)

/-- The stack where a window stands, for its log. -/
def Win.stack : Win → Nat
  | .lantern k _ => k
  | .sram c _ => c / 2
  | .dev k _ => k
  | .host q _ => 5 * q
  | _ => 0

/-! ## Beats of the vertical buses (R76) -/

/-- Waiting at the bay or moving bytes. -/
def MOpState.open_ (x : MOpState) : Bool := decide (x = .waiting) || decide (x = .running)

/-- The oldest operation of a position with beats to cross. -/
def State.beatAt (s : State) (k bus pos : Nat) : Option MOp :=
  s.mops.find? (fun m => decide (m.stack = k) && decide (m.bay = bus) && decide (m.arr ≠ 0) && decide (m.beats ≠ 0) &&
    decide (m.pos = pos) && m.st.open_)

/-- The position at which an agent asks for a bus: a core of the eight that it joins, or the Lantern interface. -/
def Who.beatPos (w : Who) (k bus : Nat) : Nat :=
  match w.place with
  | some p => if p < 8192 ∧ p / 8 = 64 * k + bus then p % 8 else 8
  | none => 8

/-- A window access to a bay takes a beat of its bus, beside the layer-loads and broadcasts that have beats to cross: its position must be the one the
scan comes to first. False: it waits. -/
def State.busTurn (s : State) (w : Who) (k off : Nat) : State × Bool :=
  let bus := off / 2 ^ 22
  let t := s.getStk k
  let pos := w.beatPos k bus
  match (upFrom (sget 8 t.buses bus + 1) 9).find? (fun i => decide (i % 9 = pos) || (s.beatAt k bus (i % 9)).isSome) with
  | some i =>
    if i % 9 = pos then (s.setStk k { t with buses := sset 8 t.buses bus pos }, true) else (s.postOnce (.vbusBeatGrant k bus), false)
  | none => (s, false)

/-- The turn of an atomic step on on-chip memory: at the cluster's ports, or on the bay's bus (R71, R76). -/
def State.winTurn (s : State) (w : Who) (win : Win) : State × Bool :=
  match win with
  | .lantern k off => s.busTurn w k off
  | .sram c _ => s.portTurn c (w.port c)
  | _ => (s, true)

/-- What may make a window access wait: the beats of a bus (R76), the ports of a cluster that it reaches from outside (R71), a far-tier port's lines
(R467), or a metered Glowline share (R469). -/
def State.winGate (s : State) (w : Who) (win : Win) (n : Nat) (wr : Bool) : State × Bool :=
  match win with
  | .host q off =>
    let key := keyFar + 2 ^ 50 * q + off
    (match s.uioMissing key n with
     | [] => ({ s with uioDone := s.uioDone.filter (fun l => decide (l < key / 64) || decide ((key + (n - 1)) / 64 < l)) }, true)
     | l :: ls => ((l :: ls).foldl (fun t l => t.uioSend (5 * q) l wr) s, false))
  | .peer _ _ =>
    if s.meterEmpty w.stack w.vf 1 then (s.postOnce (.tokenBucketRefill w.stack w.vf), false)
    else (s.meterTake w.stack w.vf 1 n, true)
  | .lantern k off => s.busTurn w k off
  | .sram c _ => if w.port c = 64 then s.portTurn c 64 else (s, true)
  | _ => (s, true)

/-! ## Loads -/

/-- A page is replicated, planar or plain: whether the cluster cache may serve it (R48, R84). -/
def cacheable (p : Piece) (attr : BitVec 2) : Bool := !ptePlanar p.pte && (decide (attr = 0) || decide (attr = 2))

/-- The pieces of a load of the translated window, each at the place R139 gives. -/
def State.loadPieces (s : State) (w : Who) (attr : BitVec 2) (scope : Nat) : List Piece → State × Got (List Taken)
  | [] => (s, .ok [])
  | p :: ps =>
    let r : State × Got (List Taken) :=
      if s.ownPending w p then (s, .hold)
      else match w.cluster with
        | some c =>
          if cacheable p attr && decide (scope < 3) then s.cacheRead w c p attr
          else
            let r := if !cacheable p attr then (s, true)
              else match s.hotTurn w c (p.ia / 128) with
                | (s, true) => s.flushFor c [p]
                | r => r
            if r.2 = false then (r.1, .hold)
            else match r.1.gate w p false with
              | (s, false) => (s, .hold)
              | (s, true) => let (s, l) := s.fetch w p; (if cacheable p attr then s.forgetCopy c p else s, .ok l)
        | none => match s.gate w p false with
          | (s, false) => (s, .hold)
          | (s, true) => let (s, l) := s.fetch w p; (s, .ok l)
    match r with
    | (s, .ok l) => match State.loadPieces s w attr scope ps with
      | (s, .ok m) => (s, .ok (l ++ m))
      | r => r
    | r => r

/-- A read of `n` bytes of a window (R62, R75, R139). -/
def State.loadAt (s : State) (w : Who) (va : W64) (ia n : Nat) (attr : BitVec 2) (win : Win) (scope : Nat) (acc : Acc) :
    State × Got (List Taken) :=
  match win with
  | .trans => match s.pieces w va ia n acc with
    | (s, .ok ps) => s.loadPieces w attr scope (ps.flatMap Piece.byLine)
    | (s, .fault f) => (s, .fault f)
    | (s, .hold) => (s, .hold)
  | .dev k off => match s.devLoad w k off n with
    | none => (s, .fault { code := 0x22, tval := va, ia := ia })
    | some (s, v) => (s, .ok ((bytesLE n v).map (fun b => (b, none))))
  | win =>
    if (match win with | .sram c off => !s.sramAllows c off n .load | _ => false) then
      (s, .fault { code := 0x30, tval := va, ia := ia })
    else match s.winGate w win n false with
      | (s, false) => (s, .hold)
      | (s, true) =>
        let (ks, u) := win.keys n
        let s := s.touch ks
        (s.answer w u, .ok (s.taken ks none))

/-! ## Stores -/

/-- The pieces of a store of the translated window, each at the place R139 gives (R53, R79). -/
def State.storePieces (s : State) (w : Who) (attr : BitVec 2) (scope : Nat) (tag : BitVec 32) :
    List Piece → List Byte → State × Bool
  | [], _ => (s, true)
  | p :: ps, bytes =>
    let mine := bytes.take p.len
    let turn (s : State) : State × Bool :=
      match w.cluster with
      | some c => match (if cacheable p attr then s.hotTurn w c (p.ia / 128) else (s, true)) with
        | (s, true) => s.afterReady w
        | r => r
      | none => (s, true)
    let home (s : State) : State × Bool :=
      match (match turn s with | (s, true) => s.readyWrite w p tag | r => r) with
      | (s, false) => (s, false)
      | (s, true) =>
        let s := s.putPiece w p mine tag
        (match w.cluster with
         | some c => if pteRepl p.pte then s.invalidate c (p.ia / 128) else if cacheable p attr then s.updateCopy c p mine else s
         | none => s, true)
    let r : State × Bool :=
      match w.cluster with
      | some c => if cacheable p attr && decide (scope < 3) && !pteRepl p.pte then s.cacheWrite w c p mine tag else home s
      | none => home s
    match r with
    | (s, true) => State.storePieces s w attr scope tag ps (bytes.drop p.len)
    | r => r

/-- What a write of `n` bytes of an SRAM, Lantern, peer or host window needs before it is performed (R62, R77, R467, R469). -/
def State.winReady (s : State) (w : Who) (va : W64) (ia n : Nat) (win : Win) : State × Got Unit :=
  if (match win with | .sram c off => !s.sramAllows c off n .store | _ => false) then
    (s, .fault { code := 0x30, tval := va, ia := ia })
  else if (match win with | .lantern k off => s.slotWaited k off n | _ => false) then (s, .hold)
  else match s.winGate w win n true with
    | (s, false) => (s, .hold)
    | (s, true) => (s, .ok ())

/-- Such a write performed, with its tag; the words of the bytes at the IAs `bad` are written poisoned. -/
def State.winPut (s : State) (ia : Nat) (win : Win) (bytes : List Byte) (tag : BitVec 32) (bad : List Nat := []) : State :=
  let (ks, u) := win.keys bytes.length
  bad.foldl (fun t a => t.poison (wordBase (ks.headD 0 + (a - ia)))) ((s.storeKeys (ks.zip bytes) win.stack ia).adoptTag tag u)

/-- A write of a window's bytes with their tag (R62, R75, R77). -/
def State.storeAt (s : State) (w : Who) (va : W64) (ia : Nat) (attr : BitVec 2) (win : Win) (scope : Nat)
    (bytes : List Byte) (tag : BitVec 32) : State × Got Unit :=
  let n := bytes.length
  match win with
  | .trans => match s.pieces w va ia n .write with
    | (s, .ok ps) => match s.storePieces w attr scope tag (ps.flatMap Piece.byLine) bytes with
      | (s, true) => (s, .ok ())
      | (s, false) => (s, .hold)
    | (s, .fault f) => (s, .fault f)
    | (s, .hold) => (s, .hold)
  | .dev k off => match s.devStore w k off n (BitVec.ofNat 64 (ofBytesLE bytes)) with
    | none => (s, .fault { code := 0x22, tval := va, ia := ia })
    | some (s, true) => (s, .ok ())
    | some (s, false) => (s, .hold)
  | win => match s.afterReady w with
    | (s, false) => (s, .hold)
    | (s, true) => match s.winReady w va ia n win with
      | (s, .ok _) => (s.winPut ia win bytes tag, .ok ())
      | r => r

/-! ## AMOs -/

/-- The new value of an AMO, whether it is written, and its flags (R281, R282); `w` is the width in bytes. -/
def amoApply (op w old v c : Nat) : Nat × Bool × Nat :=
  let m := 2 ^ (8 * w)
  let lt := decide (intVal (8 * w) true old < intVal (8 * w) true v)
  let x := old % m
  let y := v % m
  if op = 0 then ((x + y) % m, true, 0)
  else if op = 1 then (x &&& y, true, 0)
  else if op = 2 then (x ||| y, true, 0)
  else if op = 3 then (x ^^^ y, true, 0)
  else if op = 4 then (if lt then x else y, true, 0)
  else if op = 5 then (if lt then y else x, true, 0)
  else if op = 6 then (min x y, true, 0)
  else if op = 7 then (max x y, true, 0)
  else if op = 8 then (y, true, 0)
  else if op = 9 then (y, decide (x = c % m), 0)
  else let (r, f) := fp32.add 0 x y; (r, true, f)

/-- An atomic step on a piece at the home stack's or sequencer's unit (R69, R73, R81, R118): its tag is raised to the block's
last write. `f` gives the new value and whether it is written. -/
def State.rmwHome (s : State) (w : Who) (va : W64) (p : Piece) (tag : BitVec 32) (f : Nat → Nat × Bool) :
    State × Got Nat :=
  let tag := if pteTracked p.pte then genMax (BitVec.ofNat 32 (sget 0 s.gens.lasts (p.ia / 65536))) tag else tag
  if s.orderPending p || s.behindOwn w p then (s, .hold)
  else
    let r : State × Bool :=
      if pteRepl p.pte then
        (if pteTracked p.pte then
           (match s.prepareBlock (p.ia / 65536) p.offs tag with
            | (s, true) => s.gate w p true
            | r => r)
         else s.gate w p true)
      else s.readyWrite w p tag
    if r.2 = false then (r.1, .hold)
    else
      let s := r.1.adoptTag tag (unitAtomic p.home)
      let (s, got) := s.fetch { w with unit := unitAtomic p.home } p
      match valueOf va got with
      | .ok old =>
        let (new, wr) := f old
        let bytes := bytesLE p.len new
        let s := if wr then s.putFrame p bytes tag else s
        let s := if wr && pteRepl p.pte then
            let others := (upto 16).filter (fun k => bitOf (regionMask (s.region p.ia)) k && decide (k ≠ p.home) && !s.fenced k)
            let (id, s) := s.fresh
            let u : Update := { id := id, place := w.place, ia := p.ia, n := p.len, data := BitVec.ofNat 256 new, tag := tag,
                                live := BitVec.allOnes 32, pending := others, ordered := true, owner := w.cmd }
            if others = [] then s
            else others.foldl (fun t k => t.post (.replicaUpdateApply k)) { s with updates := s.updates ++ [u] }
          else s
        (s.answer w (unitAtomic p.home), .ok old)
      | .fault f => (s, .fault f)
      | .hold => (s, .hold)

/-- An operation on a hot line of a cluster's atomic engine (R70). -/
def State.rmwHot (s : State) (w : Who) (c : Nat) (va : W64) (p : Piece) (tag : BitVec 32) (f : Nat → Nat × Bool) :
    State × Got Nat :=
  let o := p.ia % 128
  match s.camLine w c p with
  | (s, .line ln) =>
    if ln.valid &&& byteMask o p.len ≠ byteMask o p.len then
      (match poisonFault va 0 (s.taken p.keys p.enc) with
       | some f => (s, .fault f)
       | none => (s, .hold))
    else
      let old := ofBytesLE ((upto p.len).map (fun i => ln.byte (o + i)))
      let (new, wr) := f old
      let r := if wr then s.lineWrite w c ln o (bytesLE p.len new) tag else (s.adoptTag tag (unitCache c), true)
      if r.2 then (r.1.answer w (unitCache c), .ok old) else (r.1, .hold)
  | (s, _) => (s, .hold)

/-- An atomic step on a piece in a cluster's atomic engine, behind what its line has queued (R69, R70, R72). -/
def State.rmwCluster (s : State) (w : Who) (c : Nat) (va : W64) (p : Piece) (tag : BitVec 32) (f : Nat → Nat × Bool) :
    State × Got Nat :=
  if ((s.getClu c).camOf (p.ia / 128)).any (fun q => !q.queue.isEmpty) then (s.postOnce (.atomicEngineOp c (p.ia / 128)), .hold)
  else match s.portTurn c (w.port c) with
    | (s, true) => s.rmwHot w c va p tag f
    | (s, false) => (s, .hold)

/-- Before a wide AMO leaves, the line's bytes go home and both copies of the cluster are invalidated (R69). -/
def State.retireLine (s : State) (c l : Nat) : State × Bool :=
  let r : State × Bool :=
    match (s.getClu c).camOf l with
    | none => (s, true)
    | some q =>
      if !q.queue.isEmpty then (s.postOnce (.atomicEngineOp c l), false)
      else match s.sendDirty c q.ln with
        | (s, true) => (s.onClu c (fun k => { k with cam := k.cam.filter (fun e => e.ln.line ≠ l) }), true)
        | r => r
  if r.2 = false then r
  else match (r.1.getClu c).lineOf l with
    | none => r
    | some ln => match r.1.sendDirty c ln with
      | (s, true) => (s.invalidate c l, true)
      | r => r

/-- The new value of an AMO request and whether it is written (R281). -/
def Req.amoFun (r : Req) (old : Nat) : Nat × Bool :=
  match r.op with
  | .amo op v c => let (n, w, _) := amoApply op r.n old v.toNat c.toNat; (n, w)
  | _ => (old, false)

/-- A request is an AMO. -/
def Req.isAmo (r : Req) : Bool := match r.op with | .amo _ _ _ => true | _ => false

/-- An AMO request that reached its unit earlier and is not performed yet keeps the line (R73). -/
def State.amoAhead (s : State) (ia : Nat) : Bool :=
  s.reqs.any (fun r => r.isAmo && (decide (r.stage = .unit) || decide (r.stage = .done)) && decide (r.ia / 128 = ia / 128))

/-- An atomic step on `n` bytes of an SRAM or Lantern window, which the window's rules have admitted (R62, R69, R77). -/
def State.rmwWin (s : State) (w : Who) (va : W64) (ia n : Nat) (win : Win) (tag : BitVec 32) (f : Nat → Nat × Bool) : State × Got Nat :=
  let (ks, u) := win.keys n
  let s := s.touch ks
  match valueOf va (s.taken ks none) with
  | .ok old =>
    let (new, wr) := f old
    let s := (if wr then s.storeKeys (ks.zip (bytesLE n new)) win.stack ia else s).adoptTag tag u
    (s.answer w u, .ok old)
  | .fault f => (s, .fault f)
  | .hold => (s, .hold)

/-- An atomic step of a hart or engine at the home's or sequencer's unit, behind the AMO requests that reached it earlier (R73). -/
def State.rmwUnit (s : State) (w : Who) (va : W64) (p : Piece) (tag : BitVec 32) (f : Nat → Nat × Bool) : State × Got Nat :=
  if s.amoAhead p.ia then (s, .hold) else s.rmwHome w va p tag f

/-- An atomic step at the place R69 gives. -/
def State.rmwAt (s : State) (w : Who) (va : W64) (ia n : Nat) (attr : BitVec 2) (win : Win) (scope : Nat) (tag : BitVec 32)
    (f : Nat → Nat × Bool) : State × Got Nat :=
  match win with
  | .trans => match s.pieces w va ia n .both with
    | (s, .fault f) => (s, .fault f)
    | (s, .hold) => (s, .hold)
    | (s, .ok ps) => match ps with
      | [] => (s, .hold)
      | p :: _ =>
        match w.cluster with
        | some c =>
          if cacheable p attr && !pteRepl p.pte then
            if scope < 3 then s.rmwCluster w c va p tag f
            else match s.retireLine c (ia / 128) with
              | (s, true) => s.rmwUnit w va p tag f
              | (s, false) => (s, .hold)
          else s.rmwUnit w va p tag f
        | none => s.rmwUnit w va p tag f
  | .dev _ _ | .peer _ _ | .host _ _ => (s, .fault { code := 0x22, tval := va, ia := ia })
  | win =>
    if (match win with | .sram c off => !s.sramAllows c off n .amo | _ => false) then
      (s, .fault { code := 0x30, tval := va, ia := ia })
    else if (match win with | .lantern k off => s.slotWaited k off n | _ => false) || s.amoAhead ia then (s, .hold)
    else match s.winTurn w win with
      | (s, true) => s.rmwWin w va ia n win tag f
      | (s, false) => (s, .hold)

end Sys2Proof.Machine
end

