-- ==== Sys2Proof/Machine/Forward.lean ====
section
/-! DEFINITION. What an engine command is once it leaves the hart: its extents translated (R37), its value checks (R360,
R377 to R379, R388, R395), its barrier (R348), and the record the engine works on. -/
namespace Sys2Proof.Machine

/-! ## Extents and barriers -/

/-- An engine operand extent (R13, R37): its IA, and whether it lies in the 0xA window (R17). An empty extent names nothing. -/
def State.extent (s : State) (c : Ctx) (lvl : Level) (va : W64) (n : Nat) (acc : Acc) : Except Flt (Nat × Bool) :=
  if n = 0 then .ok (0, false)
  else match issue c lvl va n { acc with eng := true } with
    | .error f => .error f
    | .ok (ia, attr) => match s.window va ia n attr with
      | .error f => .error f
      | .ok w => .ok (ia, match w with | .dev _ _ => true | _ => false)

/-- The check of a barrier cell's address (R348): aligned, translated as an AMO (or as a read, for a wait or test), and not
in the 0xA, 0xC or 0xE windows. -/
def State.cell (s : State) (c : Ctx) (lvl : Level) (va : W64) (acc : Acc) : Except Flt (Nat × BitVec 2 × Win) :=
  if va.toNat % 32 ≠ 0 then .error { code := 0x32, tval := va }
  else match issue c lvl va 16 acc with
    | .error f => .error f
    | .ok (ia, attr) => match s.plainWindow va ia 16 attr with
      | .error f => .error f
      | .ok w => .ok (ia, attr, w)

/-- The barrier a command names: none for address 0. -/
def State.barrierOf (s : State) (c : Ctx) (lvl : Level) (va : W64) : Except Flt (Option Nat) :=
  if va = 0 then .ok none
  else match s.cell c lvl va .both with
    | .error f => .error f
    | .ok (ia, _, _) => .ok (some ia)

/-! ## Copies -/

/-- What the checks of a copy find: a fault, a value failure, a wait, or the segments (destination, source, length). -/
inductive Plan where
  | trap (f : Flt)
  | bad (barrier : Option Nat)
  | hold
  | go (segs : List (Nat × Nat × Nat)) (barrier : Option Nat)

/-- Two extents share a byte. -/
def meets (a m b n : Nat) : Bool := decide (0 < m) && decide (0 < n) && decide (a < b + n) && decide (b < a + m)

/-- Starts and lengths in the 0xA window are multiples of 8 (R17). -/
def devOdd (isDev : Bool) (ia n : Nat) : Bool := isDev && (decide (ia % 8 ≠ 0) || decide (n % 8 ≠ 0))

/-- The greatest length of a copy (R377). -/
def copyMax : Nat := 2 ^ 32 - 1

/-- CPY (R377): destination, source, length, barrier. -/
def State.planCpy (s : State) (c : Ctx) (lvl : Level) (dst src len bar : W64) : Plan :=
  let n := len.toNat
  match s.extent c lvl dst n .write with
  | .error f => .trap f
  | .ok (d, dd) => match s.extent c lvl src n .read with
    | .error f => .trap f
    | .ok (r, rd) => match s.barrierOf c lvl bar with
      | .error f => .trap f
      | .ok b =>
        if copyMax < n ∨ meets d n r n ∨ devOdd dd d n ∨ devOdd rd r n then .bad b
        else .go (if n = 0 then [] else [(d, r, n)]) b

/-- The span of a strided side (R378): its lowest address and its length. -/
def spanOf (base stride : W64) (row rows : Nat) : W64 × Nat :=
  let last : Int := (rows - 1 : Nat) * stride.toInt
  let lo : Int := min 0 last
  let hi : Int := max 0 last
  (BitVec.ofInt 64 (base.toNat + lo), (hi - lo).toNat + row)

/-- CPY2 (R378): destination, source, shape word, destination and source strides, barrier. -/
def State.planCpy2 (s : State) (c : Ctx) (lvl : Level) (dst src shape ds ss bar : W64) : Plan :=
  let row := shape.toNat % 2 ^ 32
  let rows := shape.toNat / 2 ^ 32
  if row = 0 ∨ rows = 0 then
    (match s.barrierOf c lvl bar with
     | .error f => .trap f
     | .ok b => .go [] b)
  else
    let (dl, dn) := spanOf dst ds row rows
    let (sl, sn) := spanOf src ss row rows
    match s.extent c lvl dl dn .write with
    | .error f => .trap f
    | .ok (d, dd) => match s.extent c lvl sl sn .read with
      | .error f => .trap f
      | .ok (r, rd) => match s.barrierOf c lvl bar with
        | .error f => .trap f
        | .ok b =>
          let d0 : Int := d + (dst - dl).toNat
          let r0 : Int := r + (src - sl).toNat
          if copyMax < row * rows ∨ meets d dn r sn then .bad b
          else
            let segs := (upto rows).map (fun i : Nat => ((d0 + (i : Int) * ds.toInt).toNat, (r0 + (i : Int) * ss.toInt).toNat, row))
            if segs.any (fun g => devOdd dd g.1 row || devOdd rd g.2.1 row) then .bad b else .go segs b

/-- One 8-byte word of a CPYG list, as a cluster-scope load (R379). -/
def State.listWord (s : State) (w : Who) (c : Ctx) (va : W64) : State × Got W64 :=
  match issue c w.lvl va 8 .read with
  | .error f => (s, .fault f)
  | .ok (ia, attr) => match s.window va ia 8 attr with
    | .error f => (s, .fault f)
    | .ok win => match s.loadAt w va ia 8 attr win 2 .read with
      | (s, .fault f) => (s, .fault f)
      | (s, .hold) => (s, .hold)
      | (s, .ok l) => match valueOf va l with
        | .fault f => (s, .fault f)
        | .hold => (s, .hold)
        | .ok v => (s, .ok (BitVec.ofNat 64 v))

/-- The entries of a CPYG list as (source, length and reserved word) (R379). -/
def State.listRead (s : State) (w : Who) (c : Ctx) : Nat → W64 → State × Got (List (W64 × W64))
  | 0, _ => (s, .ok [])
  | n + 1, va => match s.listWord w c va with
    | (s, .fault f) => (s, .fault f)
    | (s, .hold) => (s, .hold)
    | (s, .ok a) => match s.listWord w c (va + 8) with
      | (s, .fault f) => (s, .fault f)
      | (s, .hold) => (s, .hold)
      | (s, .ok b) => match State.listRead s w c n (va + 16) with
        | (s, .ok l) => (s, .ok ((a, b) :: l))
        | r => r

/-- The source extents of a gather, in list order, with the offset of each in the destination. -/
def State.gatherSegs (s : State) (c : Ctx) (lvl : Level) : List (W64 × W64) → Nat → Except Flt (List (Nat × Nat × Nat × Bool))
  | [], _ => .ok []
  | (va, b) :: l, o =>
    let n := b.toNat % 2 ^ 32
    match s.extent c lvl va n .read with
    | .error f => .error f
    | .ok (r, rd) => match State.gatherSegs s c lvl l (o + n) with
      | .error f => .error f
      | .ok m => .ok (if n = 0 then m else (o, r, n, rd) :: m)

/-- CPYG (R379): destination, list, count, barrier. -/
def State.planCpyg (s : State) (w : Who) (c : Ctx) (dst list count bar : W64) : State × Plan :=
  if 64 < count.toNat then (s, .bad (match s.barrierOf c w.lvl bar with | .ok b => b | .error _ => none))
  else match s.listRead w c count.toNat list with
    | (s, .fault f) => (s, .trap f)
    | (s, .hold) => (s, .hold)
    | (s, .ok l) => match s.gatherSegs c w.lvl l 0 with
      | .error f => (s, .trap f)
      | .ok g =>
        let total := (g.map (fun e => e.2.2.1)).foldl (· + ·) 0
        match s.extent c w.lvl dst total .write with
        | .error f => (s, .trap f)
        | .ok (d, dd) => match s.barrierOf c w.lvl bar with
          | .error f => (s, .trap f)
          | .ok b =>
            if l.any (fun e => decide (2 ^ 32 ≤ e.2.toNat)) ∨ copyMax < total ∨
               g.any (fun e => meets d total e.2.1 e.2.2.1 || devOdd e.2.2.2 e.2.1 e.2.2.1 || devOdd dd (d + e.1) e.2.2.1) then
              (s, .bad b)
            else (s, .go (g.map (fun e => (d + e.1, e.2.1, e.2.2.1))) b)

/-- The plan of the copy instruction with selector `kind` (0 CPY, 1 CPY2, 2 CPYG) on its operands in the order of R215. -/
def State.planCopy (s : State) (w : Who) (c : Ctx) (kind : Nat) (ops : List W64) : State × Plan :=
  let o (i : Nat) : W64 := ops.getD i 0
  if kind = 0 then (s, s.planCpy c w.lvl (o 0) (o 1) (o 2) (o 3))
  else if kind = 1 then (s, s.planCpy2 c w.lvl (o 0) (o 1) (o 2) (o 3) (o 4) (o 5))
  else s.planCpyg w c (o 0) (o 1) (o 2) (o 3)

/-- Who issues a copy: its maker, the number it holds, its status slot, its node and class, the flags of `ord` and `.o`. -/
structure CopyBy where
  who : Who
  id : Nat
  cnum : Nat
  slot : Option Nat
  node : Option Nat
  cls : Nat
  rel : Bool
  ordered : Bool
  older : List Nat
  tag : BitVec 32
  kind : Nat := 0

/-- A copy that leaves the hart (R360): waiting for its engine, or already failed with a code of R382. -/
def State.sendCopy (s : State) (b : CopyBy) (segs : List (Nat × Nat × Nat)) (barrier : Option Nat) (code : BitVec 4)
    (cause : Nat) : State :=
  let failed := decide (code ≠ 0)
  let c : Copy :=
    { id := b.id, place := b.who.place, cnum := b.cnum, slot := b.slot, node := b.node, ctx := b.who.ctx, vf := b.who.vf,
      stack := b.who.stack, lvl := b.who.lvl, segs := segs, total := (segs.map (fun g => g.2.2)).foldl (· + ·) 0,
      barrier := barrier, cls := b.cls, rel := b.rel, ordered := b.ordered, older := b.older, tag := b.tag,
      st := if failed then .finishing else .sent, chunks := [], issued := 0, done := [], armed := false, taken := 0,
      moved := 0, pushBank := none, popBank := none, code := code, cause := cause, psn := false, saved := none, kind := b.kind }
  { s with copies := s.copies ++ [c] }.post (if failed then .copyComplete b.id else .copyAccept b.id)

/-- The barrier of a command whose other checks failed, where it is a valid one (R191, R360). -/
def State.barrierIf (s : State) (c : Ctx) (lvl : Level) (va : W64) : Option Nat :=
  match s.barrierOf c lvl va with
  | .ok b => b
  | .error _ => none

/-- Which operand of a copy is its barrier. -/
def barrierOp (kind : Nat) : Nat := if kind = 1 then 5 else 3

/-- A held copy is released at resolution (R191): a failing check completes it with FAULT. None: it must wait. -/
def State.releaseCopy (s : State) (b : CopyBy) (c : Ctx) (kind : Nat) (ops : List W64) : Option State :=
  match s.planCopy { b.who with queued := true } c kind ops with
  | (_, .hold) => none
  | (s, .go segs bar) => some (s.sendCopy b segs bar 0 0)
  | (s, .bad bar) => some (s.sendCopy b [] bar 4 0)
  | (s, .trap f) => some (s.sendCopy b [] (s.barrierIf c b.who.lvl (ops.getD (barrierOp kind) 0)) 2 f.code)

/-! ## Planar pages (R384) -/

/-- The checks of a probe against a leaf, in R34's order with cause 0x33 after 0x29 and before 0x27 (R384). -/
def State.probeChecks (s : State) (e : Nat) (vf : Nat) (acc : Acc) : Option Nat :=
  if s.linkDown e then some 0x2D
  else if pteRetired e then some 0x2B
  else if pteEnc e then some 0x29
  else if !ptePlanar e then some 0x33
  else if (acc.rd && !bitOf e 1) || (acc.wr && !bitOf e 2) then some 0x27
  else if pteEnc e && decide (vf ≠ pteKslot e) then some 0x2E
  else if ptePoison e then some 0x2A
  else none

/-- A probe of the page at an IA, a walk as any other (R28, R29): the key of its frame, a fault, or a wait for a held page (R384, R385). -/
def State.probe (s : State) (w : Who) (va : W64) (ia : Nat) (acc : Acc) : State × Got Nat :=
  let bad (code level : Nat) : Got Nat := .fault { code := code, tval := BitVec.ofNat 64 ia, ia := ia, level := level }
  if 2 ^ 48 ≤ ia then (s, bad 0x33 0)
  else match s.home ia with
    | none => (s, bad 0x25 0)
    | some k =>
      if s.fenced k then (s, .fault { code := 0x34, tval := va, ia := ia })
      else if s.migHeld k ia then (s, .hold)
      else match s.walkFor w k ia with
      | some (s, some (c, l)) => (s, bad c l)
      | some (s, none) => (s, .hold)
      | none =>
        match s.leafAt k ia with
        | (s, .error (c, l)) => (s, bad c l)
        | (s, .ok (e, size, l)) => match s.probeChecks e w.vf acc with
          | some c => (s, bad c l)
          | none =>
            let key := keyUnder e size ia
            if s.frameFenced key then (s, .fault { code := 0x34, tval := va, ia := ia }) else (s, .ok key)

/-- The bytes of a planar page. -/
def pageBytes : Nat := 2 ^ 20

/-- Probes of consecutive pages, lowest first. -/
def State.probeAll (s : State) (w : Who) (acc : Acc) : Nat → W64 → Nat → State × Got (List (Nat × Nat))
  | 0, _, _ => (s, .ok [])
  | n + 1, va, ia => match s.probe w va ia acc with
    | (s, .hold) => (s, .hold)
    | (s, .fault f) => (s, .fault f)
    | (s, .ok key) => match State.probeAll s w acc n (va + BitVec.ofNat 64 pageBytes) (ia + pageBytes) with
      | (s, .ok l) => (s, .ok ((ia, key) :: l))
      | r => r

/-! ## Bank commands -/

/-- Who issues a bank command, and what it carries on (R388 to R391, R395). -/
structure BankBy where
  who : Who
  id : Nat
  cnum : Nat
  node : Option Nat
  rel : Bool
  tag : BitVec 32

/-- A bank command record. -/
def bankCmd (b : BankBy) (copy : Bool) (barrier : Option Nat) (msg : W64) (code : BitVec 4) (cause : Nat) : BankCmd :=
  { id := b.id, copy := copy, place := b.who.place, cnum := b.cnum, node := b.node, ctx := b.who.ctx, vf := b.who.vf,
    stack := b.who.stack, barrier := barrier, rel := b.rel, total := 0, invs := [], dst := 0, src := 0, row := 0, drow := 0,
    count := 0, moved := 0, tag := b.tag, code := code, cause := cause, ecode := 0, errRow := 0,
    pages := [], msg := msg, probed := [] }

/-- A bank command that failed before it sent anything (R390, R391). -/
def State.failBank (s : State) (b : BankBy) (copy : Bool) (barrier : Option Nat) (code : BitVec 4) (cause : Nat) : State :=
  { s with bcmds := s.bcmds ++ [bankCmd b copy barrier 0 code cause] }.post
    (if copy then .bkcopyComplete b.id else .bkopComplete b.id)

/-- The invocation of fan-out index `i` on the page at IA `ia` whose frame begins at `key` (R389). -/
def invocation (b : BankBy) (msg : W64) (i id ia key : Nat) : Inv :=
  let m := msg.toNat
  let p (j : Nat) : BitVec 10 := BitVec.ofNat 10 (m / 2 ^ (4 + 10 * j))
  { id := id, cmd := b.id, idx := i, die := keyDie key, bank := key / 2 ^ 26 % 64, sub := key / 2 ^ 20 % 64, ia := ia,
    ctx := b.who.ctx, vf := b.who.vf, tag := b.tag, h := m % 16, code := [], pc := 0,
    p := #v[p 0, p 1, p 2, p 3], b := #v[(p 0).setWidth 11, (p 1).setWidth 11, (p 2).setWidth 11, (p 3).setWidth 11],
    arg := BitVec.ofNat 12 (m / 2 ^ 52), loops := [], status := 0, cycles := 0, corrections := 0, st := .sent, ecode := 0,
    errRow := 0, t := Vector.replicate 6 0, cpy := none }

/-- The sender of a command's invocations (R423): the hart that issued it, or the lamplighter of its stack. -/
def invFrom (place : Option Nat) (stack : Nat) : Nat := match place with | some p => p | none => 8192 + 4 * stack

/-- A sender's window to one of some dies is full (R423): 32 of its invocations there are not acknowledged, so its unit stalls (log 102). -/
def State.windowFull (s : State) (src : Nat) (dies : List Nat) : Bool :=
  dies.any (fun d => decide (32 ≤ (s.invs.filter (fun v => decide (v.st = .sent) && decide (v.die = d) &&
    s.bcmds.any (fun c => decide (c.id = v.cmd) && decide (invFrom c.place c.stack = src)))).length))

/-- One invocation is sent for each probed page (R389). -/
def State.sendInvs (s : State) (b : BankBy) (msg : W64) : Nat → List (Nat × Nat) → State × List Nat
  | _, [] => (s, [])
  | i, (ia, key) :: l =>
    let (id, s) := s.fresh
    let s := { s with invs := s.invs ++ [invocation b msg i id ia key] }.post (.invocationArrival id)
    let (s, ids) := State.sendInvs s b msg (i + 1) l
    (s, id :: ids)

/-- A BKOP leaves with its probed pages (R389). -/
def State.sendBkop (s : State) (b : BankBy) (barrier : Option Nat) (msg : W64) (pages : List (Nat × Nat)) : State :=
  let (s, ids) := s.sendInvs b msg 0 pages
  { s with bcmds := s.bcmds ++ [{ bankCmd b false barrier msg 0 0 with total := ids.length, invs := ids, pages := pages.map (·.1) }] }

/-- Pages of a BKOP's fan-out (R388). -/
def fanOut (msg : W64) : Nat := msg.toNat / 2 ^ 44 % 256 + 1

/-- What the checks of a BKOP find: a fault, a value failure, a wait, or its probed pages. -/
inductive BankPlan where
  | trap (f : Flt)
  | bad (barrier : Option Nat)
  | hold
  | go (pages : List (Nat × Nat)) (barrier : Option Nat)

/-- The checks of a BKOP in the order of R360 and R384: extent, barrier, page alignment, probes. -/
def State.planBkop (s : State) (w : Who) (c : Ctx) (page msg bar : W64) : State × BankPlan :=
  match s.extent c w.lvl page (fanOut msg * pageBytes) .both with
  | .error f => (s, .trap f)
  | .ok (ia, _) => match s.barrierOf c w.lvl bar with
    | .error f => (s, .trap f)
    | .ok b =>
      if page.toNat % pageBytes ≠ 0 then (s, .bad b)
      else match s.probeAll w .both (fanOut msg) page ia with
        | (s, .hold) => (s, .hold)
        | (s, .fault f) => (s, .trap f)
        | (s, .ok l) => (s, .go l b)

/-- A held BKOP is released at resolution (R191, R392). None: it must wait. -/
def State.releaseBkop (s : State) (b : BankBy) (c : Ctx) (ops : List W64) : Option State :=
  let o (i : Nat) : W64 := ops.getD i 0
  match s.planBkop { b.who with queued := true } c (o 0) (o 1) (o 2) with
  | (_, .hold) => none
  | (s, .go l bar) =>
    if s.windowFull (invFrom b.who.place b.who.stack) (l.map (fun q => keyDie q.2)) then none else some (s.sendBkop b bar (o 1) l)
  | (s, .bad bar) => some (s.failBank b false bar 4 0)
  | (s, .trap f) => some (s.failBank b false (s.barrierIf c b.who.lvl (o 2)) 2 f.code)

end Sys2Proof.Machine
end

