-- ==== Sys2Proof/Machine/Symbols.lean ====
section
/-! DEFINITION. Symbols: slots (R186, R205), forms and the operations that compose (R187, R188), resolution (R190, R191) and
poison (R192). -/
namespace Sys2Proof.Machine

/-! ## Slots -/

/-- A slot that a new symbol may take: FREE, or POISONED and not held (R205). -/
def Slot.open_ : Slot → Bool
  | .free => true
  | .poisoned _ _ => true
  | _ => false

/-- The slot a new symbol takes: the lowest one open. DESIGN CHOICE (log 30). -/
def Hart.openSlot (h : Hart) : Option Nat := (upto 16).find? (fun i => ((h.sym[i]?).map Slot.open_).getD false)

def Hart.slot (h : Hart) (i : Nat) : Slot := (h.sym[i]?).getD .free
def Hart.setSlot (h : Hart) (i : Nat) (v : Slot) : Hart := { h with sym := h.sym.setIfInBounds i v }

/-- The raw form of a symbol. -/
def rawForm (slot : Nat) : XVal := .form slot 1 0

/-- A form whose coefficient becomes 0 is a known value (R187). -/
def mkForm (slot : Nat) (a b : W64) : XVal := if a = 0 then .known b else .form slot a b

/-- The symbol an operand is over, whether pending, held or poisoned. -/
def XVal.over : XVal → Option Nat
  | .form s _ _ | .chain s _ | .poisoned s _ _ => some s
  | _ => none

/-! ## Composition (R187); none: a blocking use (R189) -/

def symAdd : XVal → XVal → Option XVal
  | .known a, .known b => some (.known (a + b))
  | .form s a b, .known k => some (mkForm s a (b + k))
  | .known k, .form s a b => some (mkForm s a (b + k))
  | .form s a b, .form t c d => if s = t then some (mkForm s (a + c) (b + d)) else none
  | .poisoned s c v, .known _ | .known _, .poisoned s c v => some (.poisoned s c v)
  | .poisoned s c v, .poisoned t d w => if s = t ∧ c = d ∧ v = w then some (.poisoned s c v) else none
  | _, _ => none

def symSub : XVal → XVal → Option XVal
  | .known a, .known b => some (.known (a - b))
  | .form s a b, .known k => some (mkForm s a (b - k))
  | .known k, .form s a b => some (mkForm s (0 - a) (k - b))
  | .form s a b, .form t c d => if s = t then some (mkForm s (a - c) (b - d)) else none
  | .poisoned s c v, .known _ | .known _, .poisoned s c v => some (.poisoned s c v)
  | .poisoned s c v, .poisoned t d w => if s = t ∧ c = d ∧ v = w then some (.poisoned s c v) else none
  | _, _ => none

def symMul : XVal → XVal → Option XVal
  | .known a, .known b => some (.known (a * b))
  | .form s a b, .known k => some (mkForm s (a * k) (b * k))
  | .known k, .form s a b => some (mkForm s (a * k) (b * k))
  | .poisoned s c v, .known _ | .known _, .poisoned s c v => some (.poisoned s c v)
  | _, _ => none

/-- A shift by a known amount, modulo 64. -/
def symSll : XVal → XVal → Option XVal
  | .known a, .known n => some (.known (a <<< (n.toNat % 64)))
  | .form s a b, .known n => some (mkForm s (a <<< (n.toNat % 64)) (b <<< (n.toNat % 64)))
  | .poisoned s c v, .known _ => some (.poisoned s c v)
  | _, _ => none

/-- One FP step appended to a chain (R188); none: a blocking use. -/
def chainOn (x : XVal) (st : ChainStep) : Option XVal :=
  match x with
  | .form s a b => if a = 1 ∧ b = 0 then some (.chain s [st]) else none
  | .chain s l => if l.length < 8 then some (.chain s (l ++ [st])) else none
  | .poisoned s c v => some (.poisoned s c v)
  | _ => none

/-! ## Replay (R188) -/

/-- One FP operation of a chain: 1 FADD, 2 FSUB, 3 FMUL, 4 FMA. -/
def fpStep (f : Fmt) (op rm a b c : Nat) : Nat × Nat :=
  let m := 2 ^ f.w
  if op = 1 then f.add rm (a % m) (b % m)
  else if op = 2 then f.sub rm (a % m) (b % m)
  else if op = 3 then f.mul rm (a % m) (b % m)
  else f.fma rm (a % m) (b % m) (c % m)

/-- A chain step on the value that has arrived: its operands in the instruction's order. -/
def ChainStep.run (st : ChainStep) (v : W64) : W64 × Nat :=
  match fmtOf st.fmt with
  | none => (v, 0)
  | some f =>
    let x := v.toNat
    let k1 := st.k1.toNat
    let k2 := st.k2.toNat
    let (r, fl) :=
      if st.pos = 0 then fpStep f st.op st.rm.toNat x k1 k2
      else if st.pos = 1 then fpStep f st.op st.rm.toNat k1 x k2
      else fpStep f st.op st.rm.toNat k1 k2 x
    (BitVec.ofNat 64 r, fl)

/-- A chain replayed in order, its flags accumulated. -/
def replay : List ChainStep → W64 → W64 × Nat
  | [], v => (v, 0)
  | st :: l, v =>
    let (r, f) := st.run v
    let (q, g) := replay l r
    (q, f ||| g)

/-- A register's value once a symbol's value has arrived, with the replay's flags. -/
def XVal.bind (slot : Nat) (v : W64) : XVal → XVal × Nat
  | .form s a b => if s = slot then (.known (a * v + b), 0) else (.form s a b, 0)
  | .chain s l => if s = slot then (let (r, f) := replay l v; (.known r, f)) else (.chain s l, 0)
  | x => (x, 0)

/-- A register once its symbol has resolved to poison (R192). -/
def XVal.poison (slot cause : Nat) (va : W64) (x : XVal) : XVal :=
  match x with
  | .form s _ _ | .chain s _ => if s = slot then .poisoned slot cause va else x
  | _ => x

/-! ## Vector registers over a symbol (R203) -/

/-- The width in bits of a `vsew` code (R208). -/
def sewBits (c : BitVec 3) : Nat := 2 ^ (c.toNat + 1)

/-- The expanded elements of a U or A register (R201), `n` of them from element `i` down. -/
def expandFrom (w : Nat) (base stride : Nat) : Nat → Nat → Nat
  | 0, _ => 0
  | n + 1, i => (base + i * stride) % 2 ^ w * 2 ^ (w * i) + expandFrom w base stride n (i + 1)

/-- The contents of a register from its compact state, at a VLEN. -/
def expand (vlen : Nat) (sew : BitVec 3) (base stride : W64) : BitVec 4096 :=
  BitVec.ofNat 4096 (expandFrom (sewBits sew) base.toNat stride.toNat (vlen / sewBits sew) 0)

/-- A flagged register once its symbol's value has arrived (R203): its base is evaluated, its tag stays. -/
def VReg.bind (vlen slot : Nat) (v : W64) (r : VReg) : VReg :=
  match r.sy with
  | some (s, a) =>
    if s = slot then
      let base := a * v + r.base
      { r with base := base, sy := none, data := expand vlen r.vsew base (if r.tag = .U then 0 else r.stride) }
    else r
  | none => r

/-- A flagged register once its symbol has resolved to poison (R192). -/
def VReg.poison (slot cause : Nat) (va : W64) (r : VReg) : VReg :=
  match r.sy with
  | some (s, _) => if s = slot then { r with sy := none, sypsn := some (slot, cause, va) } else r
  | none => r

/-! ## Resolution (R190) -/

/-- The flags a set of bindings raises. -/
def bindFlags (l : List (XVal × Nat)) : Nat := l.foldl (fun f e => f ||| e.2) 0

/-- Flags accrue (R209); those newly set that `fen` enables are a deferred FP exception (R188). -/
def Hart.deferFlags (h : Hart) (slot fl : Nat) : Hart :=
  let f : BitVec 7 := BitVec.ofNat 7 fl
  let new := f &&& ~~~h.fflags &&& h.fen
  { h with fflags := h.fflags ||| f, defer := if new = 0 then h.defer else h.defer ++ [(slot, f, h.depth)] }

/-- Every form over the symbol receives its value in one step; the slot frees and the event latch sets (R186, R190, R298). -/
def Hart.bindSymbol (h : Hart) (slot : Nat) (v : W64) : Hart :=
  let fl := bindFlags (h.x.toList.map (XVal.bind slot v))
  let ops (c : Held) : Held := { c with ops := c.ops.map (fun o => (XVal.bind slot v o).1) }
  let h : Hart := { h with
    x := vmap (fun x => (XVal.bind slot v x).1) h.x
    v := vmap (VReg.bind h.vgrant slot v) h.v
    held := h.held.map ops
    latch := true }
  ((h.setSlot slot .free).undep slot).deferFlags slot fl

/-- The producer's fault reaches the slot (R192): causes 0x26 and 0x2B hold it and keep the forms; any other poisons them. -/
def Hart.poisonSymbol (h : Hart) (slot cause : Nat) (va : W64) : Hart :=
  match h.slot slot with
  | .pending p _ =>
    if cause = 0x26 ∨ cause = 0x2B then { h.setSlot slot (.held cause p none) with latch := true }
    else
      { (h.setSlot slot (.poisoned cause va)).undep slot with
        x := vmap (XVal.poison slot cause va) h.x
        v := vmap (VReg.poison slot cause va) h.v
        latch := true }
  | _ => h

/-! ## Held engine commands (R191) -/

/-- The `ord` field's flags and scope (R251). -/
def ordAcq (o : BitVec 3) : Bool := o = 1 || o = 3 || o = 4 || o = 6 || o = 7
def ordRel (o : BitVec 3) : Bool := o = 2 || o = 3 || o = 5 || o = 6 || o = 7
def ordScope (o : BitVec 3) : Nat := if o = 0 then 0 else if o.toNat ≤ 3 then 3 else if o.toNat ≤ 6 then 4 else 5

/-- The `ord` of a command's word. -/
def Held.ord (c : Held) : BitVec 3 := c.word.extractLsb' 25 3
/-- Whether a held command is a BKOP; else it is a copy. -/
def Held.isBank (c : Held) : Bool := decide (c.word.extractLsb' 4 6 = 0x3E)
/-- The selector of a held copy: 0 CPY, 1 CPY2, 2 CPYG. -/
def Held.kind (c : Held) : Nat := (c.word.extractLsb' 28 3).toNat

/-- The status slot of a copy with this command number. -/
def Hart.statusSlot (h : Hart) (cnum : Nat) : Option Nat :=
  (upto 16).find? (fun i => decide (h.slot i = .copyStatus cnum))

def State.copyBy (s : State) (c : Held) : CopyBy :=
  { who := s.me, id := c.id, cnum := c.cnum, slot := s.hart.statusSlot c.cnum, node := s.hart.node, cls := s.hart.cls,
    rel := ordRel c.ord, ordered := c.word.getLsbD 31, older := c.older, tag := c.tag, kind := c.kind }

def State.bankBy (s : State) (c : Held) : BankBy :=
  { who := s.me, id := c.id, cnum := c.cnum, node := s.hart.node, rel := ordRel c.ord, tag := c.tag }

/-- The context of the hart that steps. -/
def State.myCtx (s : State) : Ctx := s.getCtx s.hart.ctxKey

/-- A held command of the hart that steps is released. None: it must wait. -/
def State.releaseHeld (s : State) (c : Held) : Option State :=
  let ops := c.ops.map XVal.val
  let s := s.updAll (fun h => { h with held := h.held.filter (fun q => decide (q.id ≠ c.id)) })
  if c.isBank then s.releaseBkop (s.bankBy c) s.myCtx ops else s.releaseCopy (s.copyBy c) s.myCtx c.kind ops

/-- Every held command whose operands are all known is released, in order. -/
def State.releaseAll (s : State) : List Held → Option State
  | [] => some s
  | c :: l =>
    if c.ops.all XVal.isKnown then (match s.releaseHeld c with | some s => State.releaseAll s l | none => none)
    else State.releaseAll s l

/-- A held command with an operand over a poisoned symbol completes with POISON at once (R191, R192). -/
def State.poisonHeld (s : State) (cause : Nat) (c : Held) : State :=
  let s := s.updAll (fun h => { h with held := h.held.filter (fun q => decide (q.id ≠ c.id)) })
  let bar (i : Nat) : Option Nat := match c.ops.getD i .unknown with
    | .known v => s.barrierIf s.myCtx s.hart.level v
    | _ => none
  if c.isBank then s.failBank (s.bankBy c) false (bar 2) 3 cause
  else s.sendCopy (s.copyBy c) [] (bar (barrierOp c.kind)) 3 cause

/-- A symbol of the hart at a place resolves to `v` (R190). In run-ahead the value is kept (R41). None: a released command
must wait, and the value is bound later. -/
def State.resolve (s : State) (place slot : Nat) (v : W64) : Option State :=
  let s := s.focus place
  if s.hart.place ≠ place then some s
  else if s.inAhead then some (s.onAhead (fun r => { r with arrived := r.arrived ++ [(slot, v)] }))
  else
    let s := s.updAll (fun h => h.bindSymbol slot v)
    s.releaseAll s.hart.held

/-- A symbol of the hart at a place resolves to poison (R192). -/
def State.poisonSym (s : State) (place slot cause : Nat) (va : W64) : State :=
  let s := s.focus place
  if s.hart.place ≠ place then s
  else
    let hit := s.hart.held.filter (fun c => c.ops.any (fun o => decide (o.over = some slot)))
    let s := s.updAll (fun h => h.poisonSymbol slot cause va)
    hit.foldl (fun t c => t.poisonHeld cause c) s

/-- The values that arrived during run-ahead are bound (R41). -/
def State.bindArrived (s : State) : List (Nat × W64) → Option State
  | [] => some s
  | (slot, v) :: l => match s.resolve s.hart.place slot v with
    | some s => State.bindArrived s l
    | none => none

end Sys2Proof.Machine
end

