-- ==== Sys2Proof/Machine/Operands.lean ====
section
/-! DEFINITION. What every hart instruction does before and around its own effect: the drain of `sc` 11 (R245), run-ahead
(R38 to R43), register parity (R451), blocking uses (R189, R192), traps (R433 to R438), and the loads, stores and atomic
steps of a hart (R277 to R281). -/
namespace Sys2Proof.Machine

/-! ## Traps -/

/-- The cause word (R435). -/
def causeOf (code : Nat) (slot : Nat := 0) (norec sym intr : Bool := false) : W64 :=
  BitVec.ofNat 64 (code % 256 + 256 * (slot % 16) + 2 ^ 61 * b2n norec + 2 ^ 62 * b2n sym + 2 ^ 63 * b2n intr)

/-- A precise trap at the present instruction (R434). -/
def State.trapHere (s : State) (code : Nat) (tval : W64) : Out := .next (s.trap (causeOf code) tval s.hart.pc)

/-- Causes that are batched (R33). -/
def batched (code : Nat) : Bool := decide (code = 0x26) || decide (code = 0x2B)

/-! ## The fault-batch record (R42) -/

/-- A faulting access or element is recorded in its unit. -/
def noteUnit (l : List BatchEntry) (f : Flt) (kind : BitVec 5) : List BatchEntry :=
  if l.any (fun e => decide (e.ia / 65536 = f.ia / 65536)) then
    modList (fun e => decide (e.ia / 65536 = f.ia / 65536)) (fun e => { e with kind := e.kind ||| kind, hits := e.hits + 1 }) l
  else l ++ [{ ia := f.ia, cause := f.code, level := f.level, kind := kind, hits := 1 }]

/-- An entry's 16 bytes. -/
def BatchEntry.bytes (e : BatchEntry) : List Byte :=
  bytesLE 8 e.ia ++ bytesLE 2 e.cause ++ bytesLE 1 e.level ++ bytesLE 1 e.kind.toNat ++ bytesLE 4 e.hits

/-- The bytes of a record: header, then the entries that count. -/
def recordBytes (pc stoppc : W64) (entries : List BatchEntry) (stop ahead : Nat) : List Byte :=
  let l := entries.take 16
  bytesLE 8 pc.toNat ++ bytesLE 4 l.length ++ bytesLE 1 stop ++ bytesLE 1 0 ++ bytesLE 2 ahead ++ bytesLE 8 stoppc.toNat ++
    bytesLE 8 0 ++ l.flatMap BatchEntry.bytes

/-- The record is written at `fbbase`, with device scope (R41); a fault here, or an `fbbase` of 0, discards it (R442). -/
def State.writeRecord (s : State) (bytes : List Byte) : State × Got Unit :=
  let va := s.hart.fbbase
  if va = 0 then (s, .fault { code := 0x24, tval := 0 })
  else match s.window va va.toNat bytes.length 0 with
    | .error f => (s, .fault f)
    | .ok win => s.storeAt s.me va va.toNat 0 win 4 bytes s.hart.gen

/-- The record, then the trap with the original cause and trap value (R41, R442). `s0` is where a write that must wait
leaves the hart. -/
def State.batchTrap (s s0 : State) (bytes : List Byte) (code : Nat) (tval : W64) : Out :=
  match s.writeRecord bytes with
  | (t, .hold) => .next (s0.keepWaits t)
  | (t, .ok _) => .next (t.trap (causeOf code) tval t.hart.pc)
  | (t, .fault _) => .next (t.trap (causeOf code 0 true) tval t.hart.pc)

/-- Run-ahead stops (R41): the checkpoint is restored, kept values are bound, the record is written, one trap is taken. Where a part of this must wait,
the run-ahead stands stopped. -/
def State.stopAhead (s : State) (reason : Nat) : Out :=
  match s.ahead with
  | none => .next s
  | some r =>
    let t := { s with hart := r.ck, ras := s.ras.filter (fun q => decide (q.place ≠ s.hart.place)) }
    let stopped := s.onAhead (fun q => { q with stop := some reason })
    match t.bindArrived r.arrived with
    | none => .next stopped
    | some t =>
      t.batchTrap stopped (recordBytes r.ck.pc s.hart.pc r.entries reason (s.hart.instret - r.ck.instret).toNat)
        ((r.entries.headD { ia := 0, cause := 0x26, level := 0, kind := 0, hits := 0 }).cause) r.tval

/-! ## What a step of an instruction comes to -/

/-- The way on: with a value; the instruction's step is already decided; or, in run-ahead, without a value (R39). -/
inductive Flow (α : Type) where
  | go (s : State) (a : α)
  | out (o : Out)
  | skip (s : State)

/-- Kinds of access in a record (R42). -/
def kRead : BitVec 5 := 1
def kWrite : BitVec 5 := 2
def kFetch : BitVec 5 := 4
def kVector : BitVec 5 := 8
def kEngine : BitVec 5 := 16

/-- A vector instruction of the hart waits in the queue short of its trap point: younger instructions whose effects cannot be taken back,
and those that trap, wait for it (R185, R436). -/
def State.isLate (s : State) : Bool := s.hart.vq.any (fun e => e.late.isSome)

/-- The kind of an engine operand's access (R42, R387): bit 4 with the bits of its role. -/
def Acc.engKind (a : Acc) : BitVec 5 := kEngine ||| (if a.rd then kRead else 0) ||| (if a.wr then kWrite else 0)

/-- A fault of the present instruction (R38, R39, R40, R43): a batched cause starts run-ahead on an application hart, is
recorded in run-ahead, and traps at once with a record of one entry on a lamplighter hart; any other traps, or stops
run-ahead with reason 4. -/
def State.faulted (s : State) (f : Flt) (kind : BitVec 5) : Flow Unit :=
  match s.ahead with
  | some r =>
    if batched f.code then
      let l := noteUnit r.entries f kind
      let s := s.onAhead (fun q => { q with entries := l })
      if 16 ≤ l.length then .out (s.stopAhead 1) else .skip s
    else .out (s.stopAhead 4)
  | none =>
    if s.isLate then .out s.stall
    else if batched f.code then
      if s.hart.lamp then
        .out (s.batchTrap s (recordBytes s.hart.pc s.hart.pc (noteUnit [] f kind) 4 0) f.code f.tval)
      else if s.hart.vq ≠ [] then .out s.stall
      else .skip { s with ras := s.ras ++ [{ place := s.hart.place, ck := s.hart, entries := noteUnit [] f kind,
                                             tval := f.tval, arrived := [] }] }
    else .out (s.trapHere f.code f.tval)

/-- An illegal instruction found at execution (R246): the word is the trap value (R438); in run-ahead, reason 4. -/
def State.illegal (s : State) : Out :=
  if s.inAhead then s.stopAhead 4 else if s.isLate then s.stall else s.trapHere 0 (s.hart.iw.setWidth 64)

/-! ## Operands -/

/-- The requests of the symbolic loads that are still to be bound. -/
def Hart.symReqs (h : Hart) : List Nat := h.sym.toList.filterMap (fun q => match q with | .pending _ id => some id | _ => none)

/-- Some symbolic load or AMO is still to be bound (R172). -/
def State.symPending (s : State) : Bool :=
  s.hart.sym.toList.any (fun q => match q with | .pending _ _ => true | _ => false)

/-- The earlier accesses of the vector stream are still to be performed, or a symbolic load to be bound: what `fence.vs.hart` waits for
(R144, R172). -/
def State.vectorPending (s : State) : Bool := decide (s.hart.vq ≠ []) || s.symPending || s.unacked s.me true

/-- The drain of `sc` 11, which acts as `fence.vs.hart` (R144, R245), the wait behind a vector instruction short of its trap point (R185),
and the stop of an instruction that cannot run ahead (R40). -/
def State.preface (s : State) (sc : Sc) (stops : Bool) : Option Out :=
  if sc = 3 ∧ s.inAhead = false ∧ s.vectorPending then some s.stall
  else if stops && s.isLate then some s.stall
  else if stops && s.inAhead then some (s.stopAhead 2)
  else none

/-- A source register with bad parity (R451): cause 0x43, a type-5 log entry, and on a lamplighter hart a firmware restart. -/
def State.parity (s : State) (r : Reg) : Out :=
  if s.inAhead then s.stopAhead 4
  else if s.isLate then s.stall
  else
    let k := stackOf s.hart.place
    let s := s.logEvent k 5 (clusterOf s.hart.place % 2) (s.hart.place % 256) 0
    let s := if s.hart.lamp then s.post (.firmwareRestart k) else s
    s.trapHere 0x43 (r.setWidth 64)

def State.badReg (s : State) (rs : List Reg) : Option Reg :=
  rs.find? (fun r => decide (r ≠ 0) && s.hart.xBad.getLsbD r.toNat)

/-- The fault of a poisoned symbol is delivered (R192, R439). -/
def State.deliver (s : State) (slot cause : Nat) (va : W64) : Out :=
  let s := match s.hart.slot slot with
    | .held c p _ => s.upd (fun h => h.setSlot slot (.held c p (some (h.depth + 1))))
    | _ => s
  .next (s.trap (causeOf cause slot false true) va s.hart.pc)

/-- The poison that a value would deliver at a blocking use. -/
def State.poisonOf (s : State) (x : XVal) : Option (Nat × Nat × W64) :=
  match x with
  | .poisoned slot c va => some (slot, c, va)
  | .form slot _ _ | .chain slot _ => match s.hart.slot slot with
    | .held c p _ => some (slot, c, p.va)
    | _ => none
  | _ => none

/-- A blocking use of values of which some are not known (R189, R192): poison is delivered, else the hart waits; in
run-ahead it stops with reason 3. -/
def State.block (s : State) (xs : List XVal) : Out :=
  if s.inAhead then s.stopAhead 3
  else match xs.findSome? s.poisonOf with
    | some (slot, c, va) => if s.isLate then s.stall else s.deliver slot c va
    | none => s.stall

/-- The first blocking use of a copy-status register whose command carried the release flag is an acquire (R166). -/
def State.acquireOn (s : State) (rs : List Reg) : State :=
  let l := s.hart.acqOn.filter (fun q => rs.any (fun r => decide (r.toNat = q.1)))
  let s := l.foldl (fun t q => t.acquire t.me q.2) s
  if l = [] then s
  else s.upd (fun h => { h with acqOn := h.acqOn.filter (fun q => !rs.any (fun r => decide (r.toNat = q.1))) })

/-- The source registers of a blocking instruction: all known, or unknown in run-ahead, or its step is decided. -/
def State.readyVal (s : State) (rs : List Reg) : Flow Unit :=
  match s.badReg rs with
  | some r => .out (s.parity r)
  | none =>
    let xs := rs.map s.hart.rx
    if xs.any (fun x => decide (x = .unknown)) then .skip s
    else if xs.all XVal.isKnown then .go (s.acquireOn rs) ()
    else .out (s.block xs)

/-- The same for an instruction that accesses memory or acts beyond the registers: it also waits for the producers that its operands
depend on (R145, R152, R172). -/
def State.readyRegs (s : State) (rs : List Reg) : Flow Unit :=
  if !s.inAhead && decide (s.hart.depOf rs ≠ 0) then .out s.stall else s.readyVal rs

/-- What an instruction that only computes on registers, or jumps on them, goes through before its own effect. -/
def State.readyCalc (s : State) (sc : Sc) (rs : List Reg) : Flow Unit :=
  match s.preface sc false with
  | some o => .out o
  | none => s.readyVal rs

/-- What every other scalar instruction whose operands block goes through before its own effect. -/
def State.ready (s : State) (sc : Sc) (stops : Bool) (rs : List Reg) : Flow Unit :=
  match s.preface sc stops with
  | some o => .out o
  | none => s.readyRegs rs

/-- `x[rd]` is written with any value and the instruction completes. -/
def State.doneX (s : State) (rd : Reg) (v : XVal) (dep : BitVec 16 := 0) : Out := .next ((s.upd (fun h => h.wx rd v dep)).retire)

/-- A register result of known operands; in run-ahead an unknown operand gives an unknown result (R39). -/
def State.calc (s : State) (sc : Sc) (rd : Reg) (rs : List Reg) (f : Hart → W64) : Out :=
  match s.readyCalc sc rs with
  | .go s _ => s.done rd (f s.hart) (s.hart.depOf rs)
  | .skip s => s.doneX rd .unknown
  | .out o => o

/-- The slots of the symbols that values are forms of. -/
def slotsOver (xs : List XVal) : BitVec 16 := xs.foldl (fun m x => match x.over with | some k => m ||| (1#16 <<< k) | none => m) 0

/-- A register result that composes over symbols (R187): where it does not, the use blocks. A form that has become a known value still
depends on its producer. -/
def State.calcSym (s : State) (sc : Sc) (rd : Reg) (rs : List Reg) (f : Hart → Option XVal) : Out :=
  match s.preface sc false with
  | some o => o
  | none => match s.badReg rs with
    | some r => s.parity r
    | none =>
      match f s.hart with
      | some v => s.doneX rd v (s.hart.depOf rs ||| (if v.isKnown then slotsOver (rs.map s.hart.rx) else 0))
      | none => if rs.any (fun r => decide (s.hart.rx r = .unknown)) then s.doneX rd .unknown else s.block (rs.map s.hart.rx)

/-! ## Memory accesses of the hart that steps -/

/-- Two accesses of one stream keep their order: to the same bytes (R148), both under the device attribute (R17), or both in one cluster's
SRAM window (R63, R66, R159). -/
def sharesOrder (a m : Nat) (x : BitVec 2) (b n : Nat) (y : BitVec 2) : Bool :=
  (decide (a < b + n) && decide (b < a + m)) || (decide (x = 3) && decide (y = 3)) ||
    (decide (a / 2 ^ 48 = 9) && decide (a / 2 ^ 24 = b / 2 ^ 24))

/-- A later access waits for symbolic loads and AMOs: those with acquire, and those it keeps its order with (R172). A held one (R192) is
not waited for. DESIGN CHOICE (log 85). -/
def State.symBlocks (s : State) (ia n : Nat) (attr : BitVec 2 := 0) : Bool :=
  s.hart.sym.toList.any (fun q => match q with
    | .pending p id => p.acq || s.reqs.any (fun r => decide (r.id = id) && (sharesOrder r.ia r.n r.attr ia n attr))
    | _ => false)

/-- A window in a bank in FIFO mode (R66). -/
def State.fifoWin (s : State) (w : Win) : Bool :=
  match w with
  | .sram c off => decide ((s.getBank c (off / 2 ^ 19)).mode = 2)
  | _ => false

/-- The flow of a fault. -/
def Flow.ofFault {α : Type} (r : Flow Unit) : Flow α :=
  match r with
  | .go s _ => .skip s
  | .out o => .out o
  | .skip s => .skip s

/-- The flow of an access. -/
def State.flow {α : Type} (kind : BitVec 5) : State × Got α → Flow α
  | (s, .ok a) => .go s a
  | (s, .hold) => .out (.next s)
  | (s, .fault f) => (s.faulted f kind).ofFault

/-- The issuing unit's part of an access: range, then window (R12, R16). -/
def State.issueAt (s : State) (va : W64) (n : Nat) (acc : Acc) (kind : BitVec 5) : Flow (Nat × BitVec 2 × Win) :=
  match issue s.myCtx s.hart.level va n acc with
  | .error f => (s.faulted f kind).ofFault
  | .ok (ia, attr) => match s.window va ia n attr with
    | .error f => (s.faulted f kind).ofFault
    | .ok w => .go s (ia, attr, w)

/-- The bytes of a load (R277), with their poison. In run-ahead a device or FIFO load is not performed (R39); behind a vector instruction short
of its trap point it waits (R436). -/
def State.loadBytes (s : State) (va : W64) (n scope : Nat) : Flow (List Taken) :=
  match s.issueAt va n .read kRead with
  | .out o => .out o
  | .skip s => .skip s
  | .go s (ia, attr, w) =>
    if s.inAhead && (decide (attr = 3) || s.fifoWin w) then .skip s
    else if !s.inAhead && (s.symBlocks ia n attr || (s.isLate && (decide (attr = 3) || s.fifoWin w))) then .out s.stall
    else State.flow kRead (s.loadAt s.me va ia n attr w scope .read)

/-- The value of a load; poisoned data is cause 0x40 (R448). -/
def State.loadVal (s : State) (va : W64) (n scope : Nat) : Flow Nat :=
  match s.loadBytes va n scope with
  | .out o => .out o
  | .skip s => .skip s
  | .go s l => State.flow kRead (s, valueOf va l)

/-- A store in run-ahead: translated and checked, the unit of its first byte recorded, nothing sent (R39). -/
def State.storeAhead (s : State) (va : W64) (ia : Nat) (w : Win) (kind : BitVec 5) : Flow Unit :=
  match w with
  | .trans => match s.pieceAt s.me va ia ia 1 .write with
    | (s, .fault f) => s.faulted f kind
    | (s, _) => .go s ()
  | _ => .go s ()

/-- A store of bytes (R279). -/
def State.storeBytes (s : State) (va : W64) (bytes : List Byte) (scope : Nat) : Flow Unit :=
  match s.issueAt va bytes.length .write kWrite with
  | .out o => .out o
  | .skip s => .skip s
  | .go s (ia, attr, w) =>
    if !s.inAhead && s.symBlocks ia bytes.length attr then .out s.stall
    else if s.inAhead then s.storeAhead va ia w kWrite
    else State.flow kWrite (s.storeAt s.me va ia attr w scope bytes s.hart.gen)

/-- An atomic step (R281): the checks of R12, the alignment, then R16 and the place of R69. -/
def State.rmw (s : State) (va : W64) (n scope : Nat) (f : Nat → Nat × Bool) : Flow Nat :=
  match issue s.myCtx s.hart.level va n .both with
  | .error e => (s.faulted e (kRead ||| kWrite)).ofFault
  | .ok (ia, attr) =>
    if va.toNat % n ≠ 0 then (s.faulted { code := 0x31, tval := va } 0).ofFault
    else match s.plainWindow va ia n attr with
      | .error e => (s.faulted e (kRead ||| kWrite)).ofFault
      | .ok w =>
        if s.symBlocks ia n attr then .out s.stall
        else State.flow (kRead ||| kWrite) (s.rmwAt s.me va ia n attr w scope s.hart.gen f)

/-- Before a write: a vector instruction short of its trap point (R185), the producers behind earlier branches (R145, R152), and the release it
carries (R146, R172). In run-ahead it has no effect. -/
def State.releaseFor (s : State) (rel : Bool) (scope : Nat) : Flow Unit :=
  if s.inAhead then .go s ()
  else if s.isLate ∨ s.hart.hdep ≠ 0 then .out s.stall
  else if !rel then .go s ()
  else if s.symPending then .out s.stall
  else match s.release s.me scope with
    | (s, true) => .go s ()
    | (s, false) => .out (.next s)

/-- An acquire after a read (R146). -/
def State.acquireFor (s : State) (acq : Bool) (scope : Nat) : State :=
  if !acq || s.inAhead then s else s.acquire s.me scope

/-- An FP or vector result's flags accrue (R209); those newly set that `fen` enables raise the FP trap once the instruction has
completed (R289). -/
def State.doneFlags (s : State) (rd : Reg) (v : W64) (fl : Nat) (dep : BitVec 16 := 0) : Out :=
  let f : BitVec 7 := BitVec.ofNat 7 fl
  let new := f &&& ~~~s.hart.fflags &&& s.hart.fen
  let t := ((s.wx rd v dep).upd (fun h => { h with fflags := h.fflags ||| f })).retire
  if new = 0 then .next t
  else if s.inAhead then s.stopAhead 4
  else if s.isLate then s.stall
  else .next (t.trap (causeOf 8) (f.setWidth 64) t.hart.pc)

end Sys2Proof.Machine
end

