-- ==== Sys2Proof/Machine/ScalarMem.lean ====
section
/-! DEFINITION. Scalar loads and stores (R276 to R279) and line locks (R67, R68, R284). -/
namespace Sys2Proof.Machine

/-! ## Loads -/

/-- Access width in bytes of a load's `w` (R250). -/
def loadWidth (w : BitVec 3) : Nat := 2 ^ (w.toNat % 4)

/-- The register value of the bytes read (R277). -/
def loadExt (w : BitVec 3) (v : Nat) : W64 :=
  if w.getLsbD 2 then sext (8 * loadWidth w) v else BitVec.ofNat 64 v
where
  /-- Sign extension from `n` bits. -/
  sext (n v : Nat) : W64 := BitVec.ofInt 64 (intVal n true v)

/-- The address of a load or store: base plus scaled signed offset (R249). -/
def memAddr {k : Nat} (base : W64) (o : BitVec k) (n : Nat) : W64 := base + o.signExtend 64 * BitVec.ofNat 64 n

/-- A load whose base is known (R277): the access, then the acquire of `.acq`. -/
def State.loadTo (s : State) (rd : Reg) (va : W64) (w : BitVec 3) (scope : Nat) (acq : Bool) : Out :=
  match s.loadVal va (loadWidth w) scope with
  | .go s v => (s.acquireFor acq scope).done rd (loadExt w v)
  | .skip s => s.doneX rd .unknown
  | .out o => o

/-- LD (R276, R277). -/
def execLd (sc : Sc) (rd rs1 : Reg) (o : BitVec 8) (w : BitVec 3) (s : State) : Out :=
  match s.ready sc false [rs1] with
  | .go s _ => s.loadTo rd (memAddr (s.hart.kx rs1) o (loadWidth w)) w 0 false
  | .skip s => s.doneX rd .unknown
  | .out o => o

/-- The request of a symbolic producer (R278, R283) and the event that carries it on, by its window. A fault of the issuing
unit is kept with the request, and poisons the symbol. -/
def State.sendSym (s : State) (slot : Nat) (op : ReqOp) (va : W64) (n scope : Nat) (acc : Acc) (aligned : Bool) :
    State × Nat :=
  let (id, s) := s.fresh
  let base : Req :=
    { id := id, src := .sym s.hart.place slot, op := op, va := va, ia := 0, n := n, data := 0, scope := scope, attr := 0,
      lvl := s.hart.level, vf := s.hart.vfid.toNat, tag := s.hart.gen, cluster := clusterOf s.hart.place, stage := .sent,
      result := 0, cause := 0 }
  let put (r : Req) (e : Instr) : State × Nat := ({ s with reqs := s.reqs ++ [r] }.post e, id)
  let fail (f : Flt) : State × Nat := put { base with stage := .failed, cause := f.code, ia := f.ia } (.faultResponse id)
  match issue s.myCtx s.hart.level va n acc with
  | .error f => fail f
  | .ok (ia, attr) =>
    if !aligned then fail { code := 0x31, tval := va, ia := ia }
    else match (if acc.wr then s.plainWindow va ia n attr else s.window va ia n attr) with
      | .error f => fail f
      | .ok w =>
        let r := { base with ia := ia, attr := attr }
        match w with
        | .sram _ _ => put r (.sramWindowAccess id)
        | .lantern _ _ => put r (.lanternWindowAccess id)
        | _ => put r (.homeAccess id)

/-- A symbolic producer issues (R186, R278): a slot, the raw form in `rd`, the request. With no slot open it waits. -/
def State.symIssue (s : State) (rd : Reg) (p : Producer) (op : ReqOp) (acc : Acc) : Out :=
  match s.hart.openSlot with
  | none => s.stall
  | some slot =>
    let (s, id) := s.sendSym slot op p.va p.width p.scope acc (decide (p.amo = 0) || decide (p.va.toNat % p.width = 0))
    let s := s.upd (fun h => h.setSlot slot (.pending p id))
    s.doneX rd (rawForm slot)

/-- The symbolic load of a known base waits for older symbolic loads of the same bytes (R172). -/
def State.symHold (s : State) (va : W64) (n : Nat) (acc : Acc) : Bool :=
  match issue s.myCtx s.hart.level va n acc with
  | .ok (ia, attr) => s.symBlocks ia n attr
  | .error _ => false

/-- A load of the `o` 1 form: acquire, scope and `.sy` (R276 to R278). -/
def execLdScoped (sc : Sc) (rd rs1 : Reg) (o : BitVec 3) (y q : BitVec 1) (p w : BitVec 3) (s : State) : Out :=
  match s.ready sc false [rs1] with
  | .go s _ =>
    let n := loadWidth w
    let va := memAddr (s.hart.kx rs1) o n
    if y = 0 ∨ rd = 0 then s.loadTo rd va w p.toNat (q = 1)
    else if s.inAhead then s.doneX rd .unknown
    else if s.symHold va n .read then s.stall
    else s.symIssue rd { va := va, width := n, sext := w.getLsbD 2, acq := q = 1, rel := false, scope := p.toNat, amo := 0,
                         opnd := 0, cmp := 0 } .read .read
  | .skip s => s.doneX rd .unknown
  | .out o => o

/-! ## Stores -/

/-- Access width in bytes of a store's `w` (R250). -/
def storeWidth (w : BitVec 2) : Nat := 2 ^ w.toNat

/-- A store of known operands (R279): the release of `.rel`, then the write. -/
def State.storeFrom (s : State) (va data : W64) (n scope : Nat) (rel : Bool) : Out :=
  match s.releaseFor rel scope with
  | .out o => o
  | .skip s => .next s.retire
  | .go s _ => match s.storeBytes va (bytesLE n data.toNat) scope with
    | .out o => o
    | .skip s => .next s.retire
    | .go s _ => .next s.retire

/-- A store in run-ahead with an unknown operand: skipped if the address is unknown, else only checked (R39). -/
def State.storeUnknown (s : State) (rs1 : Reg) (va : W64) (n scope : Nat) : Out :=
  if s.hart.rx rs1 = .unknown then .next s.retire else s.storeFrom va 0 n scope false

/-- ST (R279). -/
def execSt (sc : Sc) (rs1 rs2 : Reg) (o : BitVec 9) (w : BitVec 2) (s : State) : Out :=
  let n := storeWidth w
  match s.ready sc false [rs1, rs2] with
  | .go s _ => s.storeFrom (memAddr (s.hart.kx rs1) o n) (s.hart.kx rs2) n 0 false
  | .skip s => s.storeUnknown rs1 (memAddr (s.hart.kx rs1) o n) n 0
  | .out o => o

/-- A store of the `o` 1 form: release and scope (R279). -/
def execStScoped (sc : Sc) (rs1 rs2 : Reg) (o : BitVec 5) (r : BitVec 1) (p : BitVec 3) (w : BitVec 2) (s : State) : Out :=
  let n := storeWidth w
  match s.ready sc false [rs1, rs2] with
  | .go s _ => s.storeFrom (memAddr (s.hart.kx rs1) o n) (s.hart.kx rs2) n p.toNat (r = 1)
  | .skip s => s.storeUnknown rs1 (memAddr (s.hart.kx rs1) o n) n p.toNat
  | .out o => o

/-! ## Line locks (R67, R68) -/

/-- The line of a lock instruction, translated as a load of its address; none where no cluster cache may hold it. -/
def State.lockPiece (s : State) (va : W64) : Flow (Option (Nat × Piece)) :=
  match s.issueAt va 1 .read kRead with
  | .out o => .out o
  | .skip s => .skip s
  | .go s (ia, attr, w) => match w with
    | .trans => match s.pieceAt s.me va ia ia 1 .read with
      | (s, .fault f) => (s.faulted f kRead).ofFault
      | (s, .hold) => .out (.next s)
      | (s, .ok p) => match s.me.cluster with
        | some c => .go s (if cacheable p attr then some (c, p) else none)
        | none => .go s none
    | _ => .go s none

/-- Lines of a set that are locked. -/
def Cluster.locked (c : Cluster) (l : Nat) : Nat :=
  (c.lines.filter (fun q => decide (q.line % 4096 = l % 4096) && q.lock.isSome)).length

/-- Lines of a cluster that a context holds locked. -/
def Cluster.locksOf (c : Cluster) (ctx : Nat) : Nat := (c.lines.filter (fun q => decide (q.lock = some ctx))).length

/-- LKLINE on a cacheable line (R67): its status, or none while it must wait. A hot line gives its bytes back first. -/
def State.lockLine (s : State) (c : Nat) (p : Piece) : State × Option Nat :=
  let l := p.ia / 128
  let k := s.getClu c
  let me := s.hart.ctxKey
  if k.leaving l then (s, none)
  else match (k.lineOf l).bind (·.lock) with
  | some o => (s, some (if o = me then 0 else 4))
  | none =>
    if k.ways.length ≤ k.locked l + 1 then (s, some 1)
    else if (sget ({} : Quota) k.quota s.hart.vfid.toNat).lines.toNat ≤ k.locksOf me then (s, some 2)
    else if (k.camOf l).any (fun q => !q.queue.isEmpty) then (s.postOnce (.atomicEngineOp c l), none)
    else
      let r : State × Bool := match k.camOf l with
        | some q => s.camEvict c q
        | none => (s, true)
      if r.2 = false then (r.1, none)
      else match r.1.fillLine r.1.me c p true with
        | (s, .line _) =>
          (s.onClu c (fun k => { k with lines := modList (fun q => q.line = l) (fun q => { q with lock := some me }) k.lines }), some 0)
        | (s, .bypass) => (s, some 1)
        | (s, .hold) => (s, none)

/-- LKLINE (R67, R284). -/
def execLkline (sc : Sc) (rd rs1 : Reg) (s : State) : Out :=
  match s.ready sc true [rs1] with
  | .out o => o
  | .skip s => s.stopAhead 2
  | .go s _ => match s.lockPiece (s.hart.kx rs1) with
    | .out o => o
    | .skip s => s.stopAhead 2
    | .go s none => s.done rd 3
    | .go s (some (c, p)) => match s.lockLine c p with
      | (s, some v) => s.done rd (BitVec.ofNat 64 v)
      | (s, none) => .next s

/-- ULKLINE (R67, R284). -/
def execUlkline (sc : Sc) (rd rs1 : Reg) (s : State) : Out :=
  match s.ready sc true [rs1] with
  | .out o => o
  | .skip s => s.stopAhead 2
  | .go s _ => match s.lockPiece (s.hart.kx rs1) with
    | .out o => o
    | .skip s => s.stopAhead 2
    | .go s none => s.done rd 5
    | .go s (some (c, p)) =>
      if (s.getClu c).leaving (p.ia / 128) then s.stall
      else match ((s.getClu c).lineOf (p.ia / 128)).bind (·.lock) with
      | none => s.done rd 5
      | some o =>
        if o ≠ s.hart.ctxKey then s.done rd 4
        else
          (s.onClu c (fun k => { k with
            lines := modList (fun q => q.line = p.ia / 128) (fun q => { q with lock := none }) k.lines })).done rd 0

end Sys2Proof.Machine
end

