-- ==== Sys2Proof/Machine/System.lean ====
section
/-! DEFINITION. Fences (R144, R147, R291), CSR access (R207 to R211, R294, R295), environment calls and returns (R296, R297),
waiting (R292, R293, R298) and snapshots (R119 to R121, R299, R300). -/
namespace Sys2Proof.Machine

/-! ## Fences -/

/-- A fence of the hart that steps whose later kind is the scalar stream or engine commands (R144, R147): it waits for the bindings of
symbolic loads (R172) and, where its earlier kind `vec` is the vector stream, for the vector queue; then the earlier writes `rel` are
performed at its scope. `inval`: later reads follow, and R52 applies (R147, R154). `anew`: later fetches are made anew (R507). In run-ahead it
has no effect (R291). -/
def State.fenceBy (s : State) (sc : Sc) (p : BitVec 3) (vec rel inval anew : Bool) : Out :=
  match s.preface sc false with
  | some o => o
  | none =>
    if s.inAhead then .next s.retire
    else if (vec && decide (s.hart.vq ≠ [])) || s.symPending then s.stall
    else
      let r : State × Bool := if rel then s.release { s.me with vec := vec } p.toNat else (s, true)
      if r.2 = false then .next r.1
      else
        let s := if inval then r.1.acquire r.1.me p.toNat else r.1
        .next (if anew then s.upd (fun h => { h with ibuf := [] }) else s).retire

/-- FENCE (R147). -/
def execFence (sc : Sc) (p : BitVec 3) (s : State) : Out := s.fenceBy sc p false true true true
/-- FENCE_ACQ (R147). -/
def execFenceAcq (sc : Sc) (p : BitVec 3) (s : State) : Out := s.fenceBy sc p false false true true
/-- FENCE_REL (R147). -/
def execFenceRel (sc : Sc) (p : BitVec 3) (s : State) : Out := s.fenceBy sc p false true false false

/-- FENCE_SV (R144, R291): the vector stream waits, behind an entry in its queue unless nothing is left to wait for; the scalar stream
goes on. -/
def execFenceSv (sc : Sc) (p : BitVec 3) (s : State) : Out :=
  match s.preface sc false with
  | some o => o
  | none =>
    if s.inAhead then .next s.retire
    else if 16 ≤ s.hart.vq.length ∨ s.isLate then s.stall
    else match (if s.symPending then (s, false) else s.release s.me p.toNat) with
      | (s, true) => .next (s.acquire s.me p.toNat).retire
      | (s, false) =>
        let e : VQEntry := { load := true, vd := 0, sew := 8, bytes := 1, scope := p.toNat, elems := [], free := false, strict := true,
                             tp := true, fence := some s.hart.symReqs }
        .next ((s.upd (fun h => { h with vq := h.vq ++ [e] })).postOnce (.vectorTrapPoint s.hart.place)).retire

/-- FENCE_VS (R144). -/
def execFenceVs (sc : Sc) (p : BitVec 3) (s : State) : Out := s.fenceBy sc p true true true false
/-- FENCE_SE (R144). -/
def execFenceSe (sc : Sc) (p : BitVec 3) (s : State) : Out := s.fenceBy sc p false true false false
/-- FENCE_VE (R144). -/
def execFenceVe (sc : Sc) (p : BitVec 3) (s : State) : Out := s.fenceBy sc p true true false false

/-! ## CSRs -/

/-- `vtype` (R208). -/
def Hart.vtype (h : Hart) : W64 :=
  BitVec.ofNat 64 (h.vsew.toNat + 8 * h.vlmul.toNat + 2 ^ 62 * b2n h.vi + 2 ^ 63 * b2n h.vill)

/-- `agrant` (R211). -/
def Hart.agrant (h : Hart) : W64 := BitVec.ofNat 64 (h.nacc.toNat + 16 * h.bay.toNat + 1024 * b2n h.bv)

/-- The CSRs of a trap level, counted from its status (R207, R211). -/
def TrapBank.csr (b : TrapBank) (i : Nat) : Option W64 :=
  if i = 0 then some (BitVec.ofNat 64 (b.ppl.toNat + 4 * b2n b.ie + 8 * b2n b.pie))
  else if i = 1 then some b.vec else if i = 2 then some b.epc else if i = 3 then some b.cause
  else if i = 4 then some b.tval else if i = 5 then some b.scr else none

/-- A write of a trap level's CSR at its RW fields (R199, R207, R211, R435). -/
def TrapBank.put (b : TrapBank) (i : Nat) (v : W64) : TrapBank :=
  if i = 0 then
    { b with ppl := if v.extractLsb' 0 2 = 2 then b.ppl else v.extractLsb' 0 2, ie := v.getLsbD 2, pie := v.getLsbD 3 }
  else if i = 1 then { b with vec := v &&& ~~~3#64 }
  else if i = 2 then { b with epc := v }
  else if i = 3 then { b with cause := v &&& 0xe000000000000fff#64 }
  else if i = 4 then { b with tval := v }
  else { b with scr := v }

/-- A range register (R11, R207): 0 `rgbase`, 1 `rglim`, 2 `rgoff`, 3 `rgctl`. -/
def Ctx.csr (c : Ctx) (kind j : Nat) : W64 :=
  if kind = 0 then ((c.base[j]?).getD 0).setWidth 64 <<< 16
  else if kind = 1 then ((c.lim[j]?).getD 0).setWidth 64 <<< 16
  else if kind = 2 then ((c.off[j]?).getD 0).setWidth 64 <<< 16
  else ((c.ctl[j]?).getD 0).setWidth 64

/-- A write of a range register at its RW fields (R11). -/
def Ctx.put (c : Ctx) (kind j : Nat) (v : W64) : Ctx :=
  if kind = 0 then { c with base := c.base.setIfInBounds j (v.extractLsb' 16 32) }
  else if kind = 1 then { c with lim := c.lim.setIfInBounds j (v.extractLsb' 16 32) }
  else if kind = 2 then { c with off := c.off.setIfInBounds j (v.extractLsb' 16 36) }
  else { c with ctl := c.ctl.setIfInBounds j (v.extractLsb' 0 8) }

/-- The value of a CSR by its number, or none where the table of R207 does not list it. -/
def State.csrGet (s : State) (n : Nat) : Option W64 :=
  let h := s.hart
  let w (v : Nat) : Option W64 := some (BitVec.ofNat 64 v)
  if n = 0x000 then w h.fflags.toNat
  else if n = 0x001 then w h.frm.toNat
  else if n = 0x002 then w h.fen.toNat
  else if n = 0x008 then w h.vstart.toNat
  else if n = 0x009 then w h.vresid.toNat
  else if n = 0x00A then some h.vseed
  else if 0x010 ≤ n ∧ n ≤ 0x012 then w ((h.dlen[n - 0x010]?).getD 0).toNat
  else if 0x014 ≤ n ∧ n ≤ 0x016 then some ((h.dstr[n - 0x014]?).getD 0)
  else if 0x018 ≤ n ∧ n ≤ 0x01A then some ((h.didx[n - 0x018]?).getD 0)
  else if n = 0x020 then w h.tctl.toNat
  else if n = 0x400 then w h.vl
  else if n = 0x401 then some h.vtype
  else if n = 0x402 then w h.vgrant
  else if n = 0x408 then w h.tm
  else if n = 0x409 then w h.tn
  else if n = 0x40A then w h.tk
  else if n = 0x410 then w h.gen.toNat
  else if n = 0x411 then w h.ctxid.toNat
  else if n = 0x412 then w h.vfid.toNat
  else if n = 0x413 then some h.agrant
  else if n = 0x420 then some s.tick
  else if n = 0x421 then some h.cycle
  else if n = 0x422 then some h.instret
  else if 0x800 ≤ n ∧ n ≤ 0x805 then h.sup.csr (n - 0x800)
  else if n = 0x808 then some h.fbbase
  else if 0x840 ≤ n ∧ n ≤ 0x87F then some (s.myCtx.csr (n / 16 % 4) (n % 16))
  else if 0xC00 ≤ n ∧ n ≤ 0xC05 then h.monb.csr (n - 0xC00)
  else none

/-- A write of a CSR at its RW fields (R7, R207). -/
def State.csrPut (s : State) (n : Nat) (v : W64) : State :=
  if n = 0x000 then s.upd (fun h => { h with fflags := v.extractLsb' 0 7 })
  else if n = 0x001 then s.upd (fun h => { h with frm := v.extractLsb' 0 3 })
  else if n = 0x002 then s.upd (fun h => { h with fen := v.extractLsb' 0 7 })
  else if n = 0x008 then s.upd (fun h => { h with vstart := v.extractLsb' 0 14 })
  else if n = 0x009 then s.upd (fun h => { h with vresid := v.extractLsb' 0 32 })
  else if n = 0x00A then s.upd (fun h => { h with vseed := v })
  else if 0x010 ≤ n ∧ n ≤ 0x012 then s.upd (fun h => { h with dlen := h.dlen.setIfInBounds (n - 0x010) (v.extractLsb' 0 16) })
  else if 0x014 ≤ n ∧ n ≤ 0x016 then s.upd (fun h => { h with dstr := h.dstr.setIfInBounds (n - 0x014) v })
  else if 0x018 ≤ n ∧ n ≤ 0x01A then s.upd (fun h => { h with didx := h.didx.setIfInBounds (n - 0x018) v })
  else if n = 0x020 then s.upd (fun h => { h with tctl := v.extractLsb' 0 2 })
  else if 0x800 ≤ n ∧ n ≤ 0x805 then s.upd (fun h => { h with sup := h.sup.put (n - 0x800) v })
  else if n = 0x808 then s.upd (fun h => { h with fbbase := v &&& ~~~63#64 })
  else if 0x840 ≤ n ∧ n ≤ 0x87F then s.setCtx s.hart.ctxKey (s.myCtx.put (n / 16 % 4) (n % 16) v)
  else if 0xC00 ≤ n ∧ n ≤ 0xC05 then s.upd (fun h => { h with monb := h.monb.put (n - 0xC00) v })
  else s

/-- The level a CSR number allows (R207). -/
def csrLevel (n : Nat) (l : Level) : Bool :=
  if n / 1024 = 2 then l.ge .sup else if n / 1024 = 3 then l.ge .mon else true

/-- The CSRs whose access waits until the vector queue is empty (R184). -/
def csrWaits (n : Nat) : Bool := nmem n [0x000, 0x008, 0x009, 0x00A, 0x018, 0x019, 0x01A, 0x410]

/-- The value of a CSR is unknown in run-ahead (R39). -/
def Hart.csrUnknown (h : Hart) (n : Nat) : Bool :=
  (h.cUnk.getLsbD 0 && (decide (n = 0x400) || decide (n = 0x401))) ||
  (h.cUnk.getLsbD 1 && decide (0x010 ≤ n) && decide (n ≤ 0x016)) ||
  (h.cUnk.getLsbD 2 && (decide (n = 0x000) || decide (n = 0x009) || decide (n = 0x00A)))

/-- CSRR (R294). -/
def execCsrr (sc : Sc) (rd : Reg) (i : BitVec 12) (s : State) : Out :=
  let n := i.toNat
  match s.csrGet n with
  | none => s.illegal
  | some v =>
    if !csrLevel n s.hart.level then s.illegal
    else match s.ready sc false [] with
      | .go s _ =>
        if csrWaits n && decide (s.hart.vq ≠ []) then s.stall
        else if s.hart.csrUnknown n then s.doneX rd .unknown
        else s.done rd v
      | .skip s => .next s
      | .out o => o

/-- CSRW, CSRS and CSRC (R295), by the value written. -/
def State.csrWrite (s : State) (sc : Sc) (rs1 : Reg) (i : BitVec 12) (f : W64 → W64 → W64) : Out :=
  let n := i.toNat
  match s.csrGet n with
  | none => s.illegal
  | some v =>
    if !csrLevel n s.hart.level || decide (n / 1024 = 1) then s.illegal
    else match s.ready sc true [rs1] with
      | .go s _ =>
        if csrWaits n && decide (s.hart.vq ≠ []) then s.stall
        else .next ((s.csrPut n (f v (s.hart.kx rs1))).retire)
      | .skip s => .next s
      | .out o => o

/-- CSRW (R295). -/
def execCsrw (sc : Sc) (rs1 : Reg) (i : BitVec 12) (s : State) : Out := s.csrWrite sc rs1 i (fun _ a => a)
/-- CSRS (R295). -/
def execCsrs (sc : Sc) (rs1 : Reg) (i : BitVec 12) (s : State) : Out := s.csrWrite sc rs1 i (fun o a => o ||| a)
/-- CSRC (R295). -/
def execCsrc (sc : Sc) (rs1 : Reg) (i : BitVec 12) (s : State) : Out := s.csrWrite sc rs1 i (fun o a => o &&& ~~~a)

/-! ## Calls and returns -/

/-- ECALL (R296): the cause of the current level, trap value 0. -/
def execEcall (sc : Sc) (s : State) : Out :=
  match s.ready sc true [] with
  | .go s _ => s.trapHere (match s.hart.level with | .app => 3 | .sup => 4 | .mon => 5) 0
  | .skip s => .next s
  | .out o => o

/-- EBREAK (R296): the breakpoint cause, trap value `pc`. -/
def execEbreak (sc : Sc) (s : State) : Out :=
  match s.ready sc true [] with
  | .go s _ => s.trapHere 2 s.hart.pc
  | .skip s => .next s
  | .out o => o

/-- The operation of a symbol's producer (R215). -/
def Producer.reqOp (p : Producer) : ReqOp := if p.amo = 0 then .read else .amo (p.amo - 1) p.opnd p.cmp
def Producer.acc (p : Producer) : Acc := if p.amo = 0 then .read else .both

/-- The producer of a slot that is pending again is sent (R192, R193). -/
def State.resend (s : State) (slot : Nat) : State :=
  match s.hart.slot slot with
  | .pending p 0 =>
    let (s, id) := s.sendSym slot p.reqOp p.va p.width p.scope p.acc (decide (p.amo = 0) || decide (p.va.toNat % p.width = 0))
    s.upd (fun h => h.setSlot slot (.pending p id))
  | _ => s

/-- ERET (R297). A producer held for the fault that this trap delivered is re-issued (R192). -/
def execEret (sc : Sc) (s : State) : Out :=
  let l := s.hart.level
  match levelOf (s.hart.bank l).ppl with
  | none => s.illegal
  | some d =>
    if l = .app ∨ !l.ge d then s.illegal
    else match s.ready sc true [] with
      | .go s _ =>
        let s := s.upd (fun h => { h.eret l d with instret := h.instret + 1 })
        .next ((upto 16).foldl State.resend s)
      | .skip s => .next s
      | .out o => o

/-! ## Symbols -/

/-- The state word of a slot (R292). -/
def Slot.query : Slot → W64
  | .free => 0
  | .pending _ _ => 1
  | .poisoned c _ => BitVec.ofNat 64 (2 + 256 * (c % 256))
  | .held c _ _ => BitVec.ofNat 64 (2 + 256 * (c % 256))
  | .copyStatus _ => 3

/-- SYMQ (R292): it does not block. -/
def execSymq (sc : Sc) (rd : Reg) (n : BitVec 5) (s : State) : Out :=
  match s.preface sc false with
  | some o => o
  | none => s.done rd (s.hart.slot n.toNat).query

/-- SYMWAIT (R293). -/
def execSymwait (sc : Sc) (rs1 : Reg) (s : State) : Out :=
  match s.ready sc true [rs1] with
  | .go s _ =>
    if rs1 = 0 ∧ s.hart.sym.toList.any (fun q => match q with | .pending _ _ => true | .copyStatus _ => true | _ => false) then s.stall
    else .next s.retire
  | .skip s => .next s
  | .out o => o

/-! ## Waiting -/

/-- The tick at which `n` ticks have passed; none where the time base does not reach it. -/
def deadlineOf (now n : W64) : Option W64 := if now.toNat + n.toNat < 2 ^ 64 then some (now + n) else none

/-- A deadline has passed. -/
def due (now : W64) (d : Option W64) : Bool :=
  match d with
  | some t => decide (t.toNat ≤ now.toNat)
  | none => false

/-- The hart that steps begins to wait. -/
def State.await (s : State) (w : Wait) : State := s.upd (fun h => { h with wait := some w })

/-- The wait of the hart that steps ends: `x[rd] := v`, and the instruction completes. -/
def State.endWait (s : State) (rd : Reg) (v : W64) : State := ((s.upd (fun h => { h with wait := none })).wx rd v).retire

/-- WFE (R298). -/
def execWfe (sc : Sc) (rd rs1 : Reg) (s : State) : Out :=
  match s.ready sc true [rs1] with
  | .go s _ =>
    if s.hart.latch then (s.upd (fun h => { h with latch := false })).done rd 0
    else if s.hart.kx rs1 = 0 then s.done rd 1
    else
      let p := s.hart.place
      .next (((s.await (.wfe rd (deadlineOf s.tick (s.hart.kx rs1)))).postOnce (.wfeWake p)).postOnce (.wfeTimeout p))
  | .skip s => .next s
  | .out o => o

/-! ## Snapshots -/

/-- The word SNAP returns (R120). -/
def snapWord (g : BitVec 32) (st : Nat) : W64 := BitVec.ofNat 64 (g.toNat + 2 ^ 32 * st)


/-- SNAP (R120, R299): the release of both streams, then the request; the answer writes `x[rd]`. A fenced sequencer answers
DISABLED. -/
def execSnap (sc : Sc) (rd : Reg) (s : State) : Out :=
  if s.hart.level = .app then s.illegal
  else match s.ready sc true [] with
    | .go s _ =>
      if s.hart.vq ≠ [] ∨ s.symPending then s.stall
      else match s.releaseBoth s.me 4 with
        | (s, false) => .next s
        | (s, true) =>
          if s.fenced s.sequencer then s.done rd (snapWord s.gens.dev 2)
          else
            let s := s.await (.snap rd)
            .next ({ s with gens := { s.gens with snapq := s.gens.snapq ++ [s.hart.place] } }.postOnce .snapRequest)
    | .skip s => .next s
    | .out o => o

/-- SNAPQ (R121, R300). -/
def execSnapq (sc : Sc) (rd rs1 : Reg) (s : State) : Out :=
  match s.ready sc false [rs1] with
  | .go s _ =>
    let g : BitVec 32 := (s.hart.kx rs1).extractLsb' 0 32
    let hit (q : GSlot) : Bool := decide (q.g = g) && decide (q.state ≠ 0)
    let w := if hit s.gens.slot0 then s.gens.slot0.word
      else if hit s.gens.slot1 then s.gens.slot1.word
      else g.toNat
    s.done rd (BitVec.ofNat 64 (w % 2 ^ 39))
  | .skip s => s.doneX rd .unknown
  | .out o => o

end Sys2Proof.Machine
end

