-- ==== Sys2Proof/Machine/Barrier.lean ====
section
/-! DEFINITION. Barrier cells (R345 to R352), circular buffers (R353 to R356) and SRCFG (R357), in and out of run-ahead (R358). -/
namespace Sys2Proof.Machine

/-! ## The barrier word (R345, R346) -/

/-- The fields of a barrier word (R345). -/
structure BarWord where
  exp : Nat
  rem : Nat
  bytes : Nat
  phase : Nat
  ovr : Bool
  und : Bool
  eerr : Bool
  short : Bool
  tflip : Nat
  deriving DecidableEq, Repr

/-- The fields of a 128-bit word. -/
def barOf (w : Nat) : BarWord :=
  { exp := bitsOf w 15 0, rem := bitsOf w 31 16, bytes := bitsOf w 63 32, phase := bitsOf w 67 64, ovr := bitOf w 68,
    und := bitOf w 69, eerr := bitOf w 70, short := bitOf w 71, tflip := bitsOf w 127 96 }

/-- The 128-bit word of the fields; reserved bits are 0. -/
def BarWord.word (b : BarWord) : Nat :=
  b.exp + 2 ^ 16 * b.rem + 2 ^ 32 * b.bytes + 2 ^ 64 * b.phase + 2 ^ 68 * b2n b.ovr + 2 ^ 69 * b2n b.und +
    2 ^ 70 * b2n b.eerr + 2 ^ 71 * b2n b.short + 2 ^ 96 * b.tflip

/-- What an update did, for the status of R350: the phase it was applied to, and `rem` before any reload. -/
structure BarDone where
  word : BarWord
  phase : Nat
  flip : Bool
  ovr : Bool
  und : Bool
  rem : Nat
  deriving DecidableEq, Repr

/-- A barrier update with arrival count `c`, byte count `d` and error flag `f` (R346). -/
def BarWord.update (b : BarWord) (c d : Nat) (f : Bool) (tick : W64) : BarDone :=
  let und := decide (b.bytes < d)
  let ovr := decide (b.rem < c)
  let bytes := b.bytes - d
  let rem := b.rem - c
  let w := { b with bytes := bytes, rem := rem, und := b.und || und, ovr := b.ovr || ovr, eerr := b.eerr || f }
  let flip := decide (rem = 0) && (decide (bytes = 0) || ovr)
  let w := if flip then
      { w with short := w.short || decide (bytes ≠ 0), bytes := 0, phase := (b.phase + 1) % 16, rem := b.exp,
               tflip := tick.toNat % 2 ^ 32 }
    else w
  { word := w, phase := b.phase, flip := flip, ovr := ovr, und := und, rem := rem }

/-- The arming of a cell by a copy (R347): a sum beyond 2^32 − 1 saturates and sets `short`. -/
def BarWord.arm (b : BarWord) (n : Nat) : BarWord :=
  { b with bytes := min (b.bytes + n) (2 ^ 32 - 1), short := b.short || decide (2 ^ 32 ≤ b.bytes + n) }

/-- The status of BARR and BARB (R350). -/
def BarDone.status (r : BarDone) (bad : Bool) : W64 :=
  BitVec.ofNat 64 (r.phase + 16 * b2n r.flip + 32 * b2n r.ovr + 64 * b2n r.und + 128 * b2n bad + 2 ^ 16 * r.rem +
    2 ^ 63 * b2n (r.ovr || r.und || bad))

/-- The status of BWAIT and BTEST against phase `p` (R351). -/
def BarWord.status (b : BarWord) (p : Nat) (tmo : Bool) : W64 :=
  BitVec.ofNat 64 (b.phase + 16 * b2n (decide (b.phase ≠ p)) + 32 * b2n tmo + 64 * b2n b.ovr + 128 * b2n b.und +
    256 * b2n b.eerr + 512 * b2n b.short + 2 ^ 16 * b.rem + 2 ^ 32 * b.bytes)

/-! ## Access to a cell -/

/-- The checks of a cell of the hart that steps (R348). -/
def State.cellFlow (s : State) (va : W64) (acc : Acc) (kind : BitVec 5) : Flow (Nat × BitVec 2 × Win) :=
  match s.cell s.myCtx s.hart.level va acc with
  | .error f => (s.faulted f kind).ofFault
  | .ok c => .go s c

/-- A piece of a replicated page at the sequencer's stack (R69, R81). -/
def State.atSequencer (s : State) (w : Who) (va : W64) (p : Piece) : State × Got Piece :=
  let k := bitsOf (s.region p.ia) 6 3
  if s.fenced k then (s, .fault { code := 0x34, tval := va, ia := p.ia })
  else match s.trAt w va p.ia p.ia k .read with
    | (s, .hold) => (s, .hold)
    | (s, .fault f) => (s, .fault f)
    | (s, .ok (e, size)) => (s, .ok { p with key := keyUnder e size p.ia, pte := e, size := size, home := k })

/-- A read of a piece at the home stack's or sequencer's atomic unit. -/
def State.peekHome (s : State) (w : Who) (va : W64) (p : Piece) : State × Got Nat :=
  let r : State × Got Piece := if pteRepl p.pte then s.atSequencer w va p else (s, .ok p)
  match r with
  | (s, .fault f) => (s, .fault f)
  | (s, .hold) => (s, .hold)
  | (s, .ok p) =>
    if s.orderPending p then (s, .hold)
    else match s.gate w p false with
      | (s, false) => (s, .hold)
      | (s, true) =>
        let s := s.answer w (unitAtomic p.home)
        let (s, l) := s.fetch w p
        (s, valueOf va l)

/-- A read of a barrier word at the place R69 gives for its scope (R351, R352): it needs `pr` only and writes nothing. -/
def State.peekCell (s : State) (w : Who) (va : W64) (ia : Nat) (attr : BitVec 2) (win : Win) (scope : Nat) : State × Got Nat :=
  match win with
  | .trans => match s.pieces w va ia 16 .read with
    | (s, .fault f) => (s, .fault f)
    | (s, .hold) => (s, .hold)
    | (s, .ok ps) => match ps, w.cluster with
      | p :: _, some c =>
        if cacheable p attr && !pteRepl p.pte then
          (if scope < 3 then s.rmwCluster w c va p 0 (fun v => (v, false))
           else match s.retireLine c (ia / 128) with
             | (s, true) => s.peekHome w va p
             | (s, false) => (s, .hold))
        else s.peekHome w va p
      | p :: _, none => s.peekHome w va p
      | [], _ => (s, .hold)
  | .dev _ _ | .peer _ _ | .host _ _ => (s, .fault { code := 0x22, tval := va, ia := ia })
  | win =>
    if (match win with | .sram c off => !s.sramAllows c off 16 .amo | _ => false) then
      (s, .fault { code := 0x30, tval := va, ia := ia })
    else match s.winTurn w win with
      | (s, false) => (s, .hold)
      | (s, true) =>
        let (ks, u) := win.keys 16
        let s := s.touch ks
        (s.answer w u, valueOf va (s.taken ks none))

/-- An engine's update of a barrier cell (R347, R348). Its place is the home of the cell, or the target of its window. One that
meets a fault is dropped with a log entry. False: it must wait. -/
def State.engineCell (s : State) (w : Who) (ia : Nat) (tag : BitVec 32) (f : BarWord → BarWord) : State × Bool :=
  let lost (s : State) : State × Bool := (s.logEvent w.stack 6 0 0 ia, true)
  match s.plainWindow 0 ia 16 0 with
  | .error _ => lost s
  | .ok win => match s.rmwAt w 0 ia 16 0 win 4 tag (fun v => ((f (barOf v)).word, true)) with
    | (s, .ok _) => (s, true)
    | (s, .fault _) => lost s
    | (s, .hold) => (s, false)

/-! ## Instructions on cells -/

/-- The 32 bytes BINIT writes (R349). -/
def initBytes (v tick : W64) : List Byte :=
  let c := v.toNat % 2 ^ 16
  bytesLE 16 ({ barOf 0 with exp := c, rem := c, bytes := v.toNat / 2 ^ 32, tflip := tick.toNat % 2 ^ 32 } : BarWord).word ++ bytesLE 16 0

/-- BINIT once its operands are read (R349); in run-ahead it is only checked (R358), with a count not known when `data` is none. -/
def State.binitAt (s : State) (va : W64) (data : Option W64) : Out :=
  if data.any (fun v => v.toNat % 2 ^ 16 = 0) ∧ va.toNat % 32 = 0 then
    (match s.faulted { code := 0x32, tval := va } 0 with | .out o => o | .go s _ => .next s | .skip s => .next s.retire)
  else match s.cellFlow va .both kWrite with
    | .out o => o
    | .skip s => .next s.retire
    | .go s (ia, attr, win) =>
      if !s.inAhead && (s.isLate || decide (s.hart.hdep ≠ 0) || s.symBlocks ia 32 attr) then s.stall
      else if s.inAhead then
        (match s.storeAhead va ia win kWrite with | .out o => o | .go s _ => .next s.retire | .skip s => .next s.retire)
      else
        let chk : State × Got Unit := match win with
          | .trans => (match s.pieces s.me va ia 32 .both with
            | (s, .ok _) => (s, .ok ())
            | (s, .fault f) => (s, .fault f)
            | (s, .hold) => (s, .hold))
          | .sram c off => if s.sramAllows c off 32 .amo then (s, .ok ()) else (s, .fault { code := 0x30, tval := va, ia := ia })
          | _ => (s, .ok ())
        match State.flow kWrite chk with
        | .out o => o
        | .skip s => .next s.retire
        | .go s _ => match State.flow kWrite (s.storeAt s.me va ia attr win 4 (initBytes (data.getD 0) s.tick) s.hart.gen) with
          | .out o => o
          | .skip s => .next s.retire
          | .go s _ => .next s.retire

/-- BINIT (R349). -/
def execBinit (sc : Sc) (rs1 rs2 : Reg) (_p : BitVec 3) (s : State) : Out :=
  match s.ready sc false [rs1, rs2] with
  | .out o => o
  | .go s _ => s.binitAt (s.hart.kx rs1) (some (s.hart.kx rs2))
  | .skip s => if s.hart.rx rs1 = .unknown then .next s.retire else s.binitAt (s.hart.kx rs1) none

/-- An arrival by a hart (R350): a release at its scope, then the update. -/
def State.arrive (s : State) (sc : Sc) (rd rs1 rs2 : Reg) (scope : Nat) (cd : Nat → Nat × Nat) (bad : Nat → Bool) : Out :=
  match s.ready sc true [rs1, rs2] with
  | .out o => o
  | .skip s => s.stopAhead 2
  | .go s _ =>
    let va := s.hart.kx rs1
    let n := (s.hart.kx rs2).toNat
    match s.cellFlow va .both (kRead ||| kWrite) with
    | .out o => o
    | .skip s => s.stopAhead 2
    | .go s (ia, attr, win) =>
      if s.symBlocks ia 16 attr then s.stall
      else match s.releaseFor true scope with
        | .out o => o
        | .skip s => s.stopAhead 2
        | .go s _ =>
          let (c, d) := cd n
          let f (v : Nat) : BarDone := (barOf v).update c d false s.tick
          match State.flow (kRead ||| kWrite)
              (s.rmwAt s.me va ia 16 attr win scope s.hart.gen (fun v => ((f v).word.word, !bad n))) with
          | .out o => o
          | .skip s => s.stopAhead 2
          | .go t old =>
            let b := barOf old
            t.done rd (if bad n then
                BarDone.status { word := b, phase := b.phase, flip := false, ovr := false, und := false, rem := b.rem } true
              else (f old).status false)

/-- BARR (R350). -/
def execBarr (sc : Sc) (rd rs1 rs2 : Reg) (p : BitVec 3) (s : State) : Out :=
  s.arrive sc rd rs1 rs2 p.toNat (fun n => (n, 0)) (fun n => decide (n = 0))

/-- BARB (R350). -/
def execBarb (sc : Sc) (rd rs1 rs2 : Reg) (p : BitVec 3) (s : State) : Out :=
  s.arrive sc rd rs1 rs2 p.toNat (fun n => (1, n)) (fun _ => false)

/-- The deadline of a wait (R351): 2^64 − 1 ticks never pass. -/
def waitUntil (now n : W64) : Option W64 := if n.toNat = 2 ^ 64 - 1 then none else deadlineOf now n

/-- The barrier word of the hart that steps, at its scope. In run-ahead one under the device attribute or in a FIFO bank is not read
(R39, R352, R358). -/
def State.readCell (s : State) (va : W64) (scope : Nat) : Flow BarWord :=
  match s.cellFlow va .read kRead with
  | .out o => .out o
  | .skip s => .skip s
  | .go s (ia, attr, win) =>
    if s.inAhead && (decide (attr = 3) || s.fifoWin win) then .skip s
    else if !s.inAhead && s.symBlocks ia 16 attr then .out s.stall
    else match State.flow kRead (s.peekCell s.me va ia attr win scope) with
      | .out o => .out o
      | .skip s => .skip s
      | .go s v => .go s (barOf v)

/-- A BWAIT reads its cell (R351): it returns where the phase differs or the time is up, else `wait` goes on. -/
def State.bwaitRead (s : State) (rd : Reg) (va : W64) (p : BitVec 4) (scope : Nat) (up : Bool) (wait : State → Out) : Out :=
  match s.readCell va scope with
  | .out o => o
  | .skip s => s.stopAhead 2
  | .go s b =>
    if b.phase ≠ p.toNat then .next ((s.acquire s.me scope).endWait rd (b.status p.toNat false))
    else if up then .next (s.endWait rd (b.status p.toNat true))
    else wait s

/-- BWAIT (R351). -/
def execBwait (sc : Sc) (rd rs1 rs2 : Reg) (p : BitVec 3) (s : State) : Out :=
  match s.ready sc true [rs1, rs2, rd] with
  | .out o => o
  | .skip s => s.stopAhead 2
  | .go s _ =>
    let va := s.hart.kx rs1
    let ph : BitVec 4 := (s.hart.kx rd).extractLsb' 0 4
    let n := s.hart.kx rs2
    s.bwaitRead rd va ph p.toNat (decide (n = 0)) (fun s =>
      .next (((s.await (.bwait rd va ph p.toNat (waitUntil s.tick n))).postOnce (.bwaitReturn s.hart.place)).postOnce
        (.bwaitTimeout s.hart.place)))

/-- BTEST (R352). -/
def execBtest (sc : Sc) (rd rs1 rs2 : Reg) (p : BitVec 3) (s : State) : Out :=
  match s.ready sc false [rs1, rs2] with
  | .out o => o
  | .skip s => s.doneX rd .unknown
  | .go s _ => match s.readCell (s.hart.kx rs1) p.toNat with
    | .out o => o
    | .skip s => s.doneX rd .unknown
    | .go s b =>
      let ph := (s.hart.kx rs2).toNat % 16
      (s.acquireFor (decide (b.phase ≠ ph)) p.toNat).done rd (b.status ph false)

/-- A wait of the hart at a place, if that is what it is doing. -/
def State.waiting (s : State) (place : Nat) : State × Option Wait :=
  let s := s.focus place
  (s, if s.hart.place = place then s.hart.wait else none)

/-- BWAIT_RETURN (R351): the waiting hart reads its cell again. -/
def execBwaitReturn (place : Nat) (s : State) : Out :=
  match s.waiting place with
  | (t, some (.bwait rd va p scope _)) => (t.postOnce (.bwaitReturn place)).bwaitRead rd va p scope false .next
  | _ => .next s

/-- BWAIT_TIMEOUT (R351): once the time is up, the last read. -/
def execBwaitTimeout (place : Nat) (s : State) : Out :=
  match s.waiting place with
  | (t, some (.bwait rd va p scope d)) =>
    let t := t.postOnce (.bwaitTimeout place)
    if due t.tick d then t.bwaitRead rd va p scope true .next else .next t
  | _ => .next s

/-! ## Circular buffers (R64, R353 to R356) -/

/-- The header of a FIFO bank (R64). -/
structure Header where
  prod : Nat
  cons : Nat
  rsize : Nat
  cap : Nat
  deriving DecidableEq, Repr

/-- The limits of R64. -/
def Header.legal (h : Header) : Bool :=
  decide (h.rsize % 8 = 0) && decide (8 ≤ h.rsize) && decide (h.rsize ≤ 4096) && decide (1 ≤ h.cap) &&
    decide (h.cap * h.rsize ≤ 524032)

/-- Available records (R64). -/
def Header.avail (h : Header) : Nat := (h.prod + 2 ^ 32 - h.cons) % 2 ^ 32

/-- Free records (R64). -/
def Header.free (h : Header) : Nat := if h.legal && decide (h.avail ≤ h.cap) then h.cap - h.avail else 0

def State.header (s : State) (c b : Nat) : Header :=
  { prod := s.bankNat c b 0 4, cons := s.bankNat c b 4 4, rsize := s.bankNat c b 8 2, cap := s.bankNat c b 10 4 }

/-- Bytes of a bank stored (R449). -/
def State.bankStore (s : State) (c b o : Nat) (bytes : List Byte) : State :=
  s.storeKeys ((upFrom (bankKey c b + o) bytes.length).zip bytes) (c / 2) (0x9000000000000 + 2 ^ 24 * c + 2 ^ 19 * b + o)

/-- An IA outside the windows of cluster SRAM: every cause of R34 first, then 0x32 (R353, R357). -/
def State.notBank (s : State) (va : W64) (ia : Nat) (win : Win) (acc : Acc) (kind : BitVec 5) : Flow (Nat × Nat) :=
  match win with
  | .trans => match s.pieces s.me va ia 1 acc with
    | (s, .ok _) => (s.faulted { code := 0x32, tval := va, ia := ia } 0).ofFault
    | (s, .fault f) => (s.faulted f kind).ofFault
    | (s, .hold) => .out (.next s)
  | _ => (s.faulted { code := 0x32, tval := va, ia := ia } 0).ofFault

/-- The bank of a buffer named by a VA (R353): a bank in FIFO mode, at its offset 0. -/
def State.buffer (s : State) (va : W64) (acc : Acc) (kind : BitVec 5) : Flow (Nat × Nat) :=
  match s.issueAt va 16 acc kind with
  | .out o => .out o
  | .skip s => .skip s
  | .go s (ia, _, win) => match win with
    | .sram c off =>
      if !s.inAhead && s.symBlocks ia 16 then .out s.stall
      else if off % 2 ^ 19 ≠ 0 then (s.faulted { code := 0x32, tval := va, ia := ia } 0).ofFault
      else if (s.getBank c (off / 2 ^ 19)).busy ∨ (s.getBank c (off / 2 ^ 19)).mode ≠ 2 then
        (s.faulted { code := 0x30, tval := va, ia := ia } 0).ofFault
      else .go s (c, off / 2 ^ 19)
    | win => s.notBank va ia win acc kind

/-- The header of a buffer, or the fault of its poison (R448). -/
def State.headerRead (s : State) (va : W64) (c b : Nat) : Flow Header :=
  let s := s.touch (upFrom (bankKey c b) 14)
  match State.flow kRead (s, valueOf va (s.taken (upFrom (bankKey c b) 14) none)) with
  | .out o => .out o
  | .skip s => .skip s
  | .go s _ => .go (s.message (unitSram c) s.hart.place) (s.header c b)

/-- The header CBINIT's configuration word asks for (R354). -/
def initHeader (v : W64) : Header := { prod := 0, cons := 0, rsize := v.toNat % 2 ^ 16, cap := v.toNat / 2 ^ 16 % 2 ^ 32 }

/-- A configuration word that CBINIT takes (R354). -/
def initLegal (v : W64) : Bool := decide (v.toNat / 2 ^ 48 = 0) && (initHeader v).legal

/-- CBINIT once its operands are read (R354, R358). -/
def State.cbinitAt (s : State) (va : W64) (data : Option W64) : Out :=
  if data.any (fun v => !initLegal v) then
    (match s.faulted { code := 0x32, tval := va } 0 with | .out o => o | .go s _ => .next s | .skip s => .next s.retire)
  else match s.buffer va .both kWrite with
    | .out o => o
    | .skip s => .next s.retire
    | .go s (c, b) =>
      if s.inAhead then .next s.retire
      else if s.isLate ∨ s.hart.hdep ≠ 0 then s.stall
      else
        let h := initHeader (data.getD 0)
        .next ((s.bankStore c b 0 (bytesLE 8 0 ++ bytesLE 2 h.rsize ++ bytesLE 4 h.cap)).adoptTag s.hart.gen (unitSram c)).retire

/-- CBINIT (R354). -/
def execCbinit (sc : Sc) (rs1 rs2 : Reg) (_p : BitVec 3) (s : State) : Out :=
  match s.ready sc false [rs1, rs2] with
  | .out o => o
  | .go s _ => s.cbinitAt (s.hart.kx rs1) (some (s.hart.kx rs2))
  | .skip s => if s.hart.rx rs1 = .unknown then .next s.retire else s.cbinitAt (s.hart.kx rs1) none

/-- A push or pop (R355): a release at its scope, then the header operation. `push` chooses `prod`, and its limit is the free
count. -/
def State.bufferMove (s : State) (sc : Sc) (rd rs1 rs2 : Reg) (scope : Nat) (push : Bool) : Out :=
  match s.ready sc true [rs1, rs2] with
  | .out o => o
  | .skip s => s.stopAhead 2
  | .go s _ =>
    let va := s.hart.kx rs1
    let n := (s.hart.kx rs2).toNat
    match s.buffer va .both (kRead ||| kWrite) with
    | .out o => o
    | .skip s => s.stopAhead 2
    | .go s (c, b) => match s.releaseFor true scope with
      | .out o => o
      | .skip s => s.stopAhead 2
      | .go s _ => match s.headerRead va c b with
        | .out o => o
        | .skip s => s.stopAhead 2
        | .go s h =>
          let limit := if push then h.free else h.avail
          let old := if push then h.prod else h.cons
          let o := if push then 0 else 4
          if limit < n then s.done rd (BitVec.ofNat 64 (old + 2 ^ 32 * (if push then 1 else 2)))
          else
            let new := (old + n) % 2 ^ 32
            let s := if n = 0 then s else (s.bankStore c b o (bytesLE 4 new)).adoptTag s.hart.gen (unitSram c)
            s.done rd (BitVec.ofNat 64 new)

/-- CBPUSH (R355). -/
def execCbpush (sc : Sc) (rd rs1 rs2 : Reg) (p : BitVec 3) (s : State) : Out := s.bufferMove sc rd rs1 rs2 p.toNat true
/-- CBPOP (R355). -/
def execCbpop (sc : Sc) (rd rs1 rs2 : Reg) (p : BitVec 3) (s : State) : Out := s.bufferMove sc rd rs1 rs2 p.toNat false

/-- The status of CBWAIT (R356). -/
def cbStatus (count : Nat) (sel tmo never : Bool) : W64 :=
  BitVec.ofNat 64 (count + 2 ^ 32 * b2n sel + 2 ^ 33 * b2n tmo + 2 ^ 34 * b2n never)

/-- A CBWAIT reads the header (R356): it returns where the records are there, where they never can be, or where the time is
up; else `wait` goes on. -/
def State.cbwaitRead (s : State) (rd : Reg) (va : W64) (k : Nat) (sel : Bool) (scope : Nat) (up : Bool) (wait : State → Out) : Out :=
  match s.buffer va .read kRead with
  | .out o => o
  | .skip s => s.stopAhead 2
  | .go s (c, b) => match s.headerRead va c b with
    | .out o => o
    | .skip s => s.stopAhead 2
    | .go s h =>
      let count := if sel then h.free else h.avail
      if h.cap < k then .next (s.endWait rd (cbStatus count sel false true))
      else if k ≤ count then .next ((s.acquire s.me scope).endWait rd (cbStatus count sel false false))
      else if up then .next (s.endWait rd (cbStatus count sel true false))
      else wait s

/-- CBWAIT (R356). -/
def execCbwait (sc : Sc) (rd rs1 rs2 : Reg) (p : BitVec 3) (s : State) : Out :=
  match s.ready sc true [rs1, rs2, rd] with
  | .out o => o
  | .skip s => s.stopAhead 2
  | .go s _ =>
    let va := s.hart.kx rs1
    let k := (s.hart.kx rd).toNat % 2 ^ 32
    let sel := (s.hart.kx rd).getLsbD 32
    let n := s.hart.kx rs2
    s.cbwaitRead rd va k sel p.toNat (decide (n = 0)) (fun s =>
      .next (((s.await (.cbwait rd va (BitVec.ofNat 64 k) sel p.toNat (waitUntil s.tick n))).postOnce
        (.cbwaitReturn s.hart.place)).postOnce (.cbwaitTimeout s.hart.place)))

/-- CBWAIT_RETURN (R356). -/
def execCbwaitReturn (place : Nat) (s : State) : Out :=
  match s.waiting place with
  | (t, some (.cbwait rd va k sel scope _)) =>
    (t.postOnce (.cbwaitReturn place)).cbwaitRead rd va k.toNat sel scope false .next
  | _ => .next s

/-- CBWAIT_TIMEOUT (R356). -/
def execCbwaitTimeout (place : Nat) (s : State) : Out :=
  match s.waiting place with
  | (t, some (.cbwait rd va k sel scope d)) =>
    let t := t.postOnce (.cbwaitTimeout place)
    if due t.tick d then t.cbwaitRead rd va k.toNat sel scope true .next else .next t
  | _ => .next s

/-! ## Bank mode changes (R357) -/

/-- SRCFG (R357): the request, then a wait for the transition it starts. -/
def execSrcfg (sc : Sc) (rd rs1 rs2 : Reg) (s : State) : Out :=
  match s.ready sc true [rs1, rs2] with
  | .out o => o
  | .skip s => s.stopAhead 2
  | .go s _ =>
    let va := s.hart.kx rs1
    let v := s.hart.kx rs2
    let bank : Flow (Nat × Nat) := match s.issueAt va 1 .write kWrite with
      | .out o => .out o
      | .skip s => .skip s
      | .go s (ia, _, win) => match win with
        | .sram c off => .go s (c, off / 2 ^ 19)
        | win => s.notBank va ia win .write kWrite
    match bank with
    | .out o => o
    | .skip s => s.stopAhead 2
    | .go s (c, b) =>
      let mode : BitVec 2 := if v.toNat < 4 then v.extractLsb' 0 2 else 3
      match s.bankRequest c b mode (some (s.hart.ctxid, s.hart.vfid.toNat)) with
      | (s, some n) => s.done rd (BitVec.ofNat 64 n)
      | (s, none) => .next (s.await (.srcfg rd c b))

end Sys2Proof.Machine
end

