-- ==== Sys2Proof/Machine/Engine.lean ====
section
/-! DEFINITION. What every engine operation does: reads and writes at homes and targets (R142, R505), completion signals (R162,
R347), and the issue of a command by a hart (R161, R196, R360). -/
namespace Sys2Proof.Machine

/-! ## Accesses -/

/-- The maker of an engine's accesses. -/
def engineWho (unit stack : Nat) (lvl : Level) (vf ctx : Nat) : Who :=
  { unit := unit, cluster := none, stack := stack, lvl := lvl, vf := vf, ctx := ctx }

/-- Registers of the 0xA window read in ascending order, 8 bytes at a time (R505). -/
def State.devRead (s : State) (w : Who) (k : Nat) : Nat → Nat → Nat → State × Got (List Taken)
  | 0, _, _ => (s, .ok [])
  | f + 1, ia, off =>
    match s.devLoad w k off 8 with
    | none => (s, .fault { code := 0x22, tval := 0, ia := ia })
    | some (s, v) => match State.devRead s w k f (ia + 8) (off + 8) with
      | (s, .ok l) => (s, .ok ((bytesLE 8 v).map (fun b => (b, none)) ++ l))
      | r => r

/-- Registers of the 0xA window written in ascending order, 8 bytes at a time (R505). One that must wait leaves the caller to take back
the whole extent, so that each is written once. -/
def State.devWrite (s : State) (w : Who) (k : Nat) : Nat → Nat → Nat → List Byte → State × Got Unit
  | 0, _, _, _ => (s, .ok ())
  | f + 1, ia, off, bytes =>
    match s.devStore w k off 8 (BitVec.ofNat 64 (ofBytesLE (bytes.take 8))) with
    | none => (s, .fault { code := 0x22, tval := 0, ia := ia })
    | some (s, false) => (s, .hold)
    | some (s, true) => State.devWrite s w k f (ia + 8) (off + 8) (bytes.drop 8)

/-! ### Accesses of more than 128 bytes while banks compute (R97) -/

/-- A record is of the access of `n` bytes at `ia` that an engine makes. -/
def PartAcc.mine (w : Who) (ia n : Nat) (wr : Bool) (q : PartAcc) : Bool :=
  decide (q.unit = w.unit) && decide (q.cmd = w.cmd) && decide (q.ia = ia) && decide (q.n = n) && decide (q.wr = wr)

/-- What a command has done of an access is kept while it waits, or forgotten. -/
def State.keepPart (s : State) (w : Who) (ia n : Nat) (wr : Bool) (done : Nat) (got : List Taken) : State :=
  if w.cmd = 0 ∨ (done = 0 ∧ s.parts = []) then s
  else
    let rest := s.parts.filter (fun q => !q.mine w ia n wr)
    { s with parts := if done = 0 then rest
                      else rest ++ [{ unit := w.unit, cmd := w.cmd, ctx := w.ctx, ia := ia, n := n, wr := wr, done := done, got := got }] }

/-- A command has ended: nothing of its accesses is kept. -/
def State.dropParts (s : State) (cmd : Nat) : State := if s.parts = [] then s else { s with parts := s.parts.filter (fun q => decide (q.cmd ≠ cmd)) }

/-- An access is moved in pieces, each in its own slot: where some bank computes, or some of it has been moved. -/
def State.inPieces (s : State) (w : Who) (ia n : Nat) (wr : Bool) : Bool :=
  decide (w.cmd ≠ 0) && ((decide (128 < n) && s.invs.any (fun v => v.st.active)) || s.parts.any (PartAcc.mine w ia n wr))

/-- The next piece after `done` bytes ends at a 128-byte boundary. -/
def pieceLen (ia n done : Nat) : Nat := min (n - done) (128 - (ia + done) % 128)

/-- The pieces of a read, in ascending order, from byte `done`. -/
def State.readOn (s : State) (w : Who) (ia n : Nat) : Nat → Nat → List Taken → State × Got (List Taken)
  | 0, _, got => (s.keepPart w ia n false 0 [], .ok got)
  | f + 1, done, got =>
    if n ≤ done then (s.keepPart w ia n false 0 [], .ok got)
    else match s.window 0 (ia + done) (pieceLen ia n done) 3 with
      | .error e => (s.keepPart w ia n false 0 [], .fault e)
      | .ok win => match s.loadAt w 0 (ia + done) (pieceLen ia n done) 3 win 4 .read with
        | (s, .hold) => (s.keepPart w ia n false done got, .hold)
        | (s, .fault e) => (s.keepPart w ia n false 0 [], .fault e)
        | (s, .ok l) => State.readOn s w ia n f (done + pieceLen ia n done) (got ++ l)

/-- A read of `n` bytes by an engine (R142). -/
def State.engineRead (s : State) (w : Who) (ia n : Nat) : State × Got (List Taken) :=
  match s.window 0 ia n 3 with
  | .error f => (s, .fault f)
  | .ok (.dev k off) => s.devRead w k (n / 8) ia off
  | .ok win =>
    if s.inPieces w ia n false then
      match s.parts.find? (PartAcc.mine w ia n false) with
      | some q => s.readOn w ia n (n / 128 + 2) q.done q.got
      | none => s.readOn w ia n (n / 128 + 2) 0 []
    else s.loadAt w 0 ia n 3 win 4 .read

/-- What an engine's write of `n` bytes needs before it is performed: its window and, for the translated window, its pieces, all ready. -/
def State.engineReady (s : State) (w : Who) (ia n : Nat) (tag : BitVec 32) : State × Got (Win × List Piece) :=
  match s.window 0 ia n 3 with
  | .error f => (s, .fault f)
  | .ok .trans => match s.pieces w 0 ia n .write with
    | (s, .fault f) => (s, .fault f)
    | (s, .hold) => (s, .hold)
    | (s, .ok ps) => match s.readyAll w tag ps with
      | (s, false) => (s, .hold)
      | (s, true) => (s, .ok (.trans, ps))
  | .ok (.dev k off) => (s, .ok (.dev k off, []))
  | .ok win => match s.winReady w 0 ia n win with
    | (s, .ok _) => (s, .ok (win, []))
    | (s, .fault f) => (s, .fault f)
    | (s, .hold) => (s, .hold)

/-- An engine's write that is ready (R142), with its tag; the words of the bytes at the IAs `bad` are written poisoned. An extent of the
0xA window that must wait is not begun. -/
def State.enginePut (s : State) (w : Who) (ia : Nat) (place : Win × List Piece) (bytes : List Byte) (tag : BitVec 32)
    (bad : List Nat := []) : State × Got Unit :=
  match place.1 with
  | .trans => (s.putAll w tag bad place.2 bytes, .ok ())
  | .dev k off => match s.devWrite w k (bytes.length / 8) ia off bytes with
    | (_, .hold) => (s, .hold)
    | r => r
  | win => (s.winPut ia win bytes tag bad, .ok ())

/-- A write is made as soon as it is ready. -/
def State.writeWhole (s : State) (w : Who) (ia : Nat) (bytes : List Byte) (tag : BitVec 32) (bad : List Nat) : State × Got Unit :=
  match s.engineReady w ia bytes.length tag with
  | (s, .fault f) => (s, .fault f)
  | (s, .hold) => (s, .hold)
  | (s, .ok p) => s.enginePut w ia p bytes tag bad

/-- The pieces of a write, in ascending order, from byte `done`. -/
def State.writeOn (s : State) (w : Who) (ia n : Nat) (tag : BitVec 32) (bad : List Nat) : Nat → Nat → List Byte → State × Got Unit
  | 0, _, _ => (s.keepPart w ia n true 0 [], .ok ())
  | f + 1, done, bytes =>
    if n ≤ done then (s.keepPart w ia n true 0 [], .ok ())
    else match s.writeWhole w (ia + done) (bytes.take (pieceLen ia n done)) tag bad with
      | (s, .hold) => (s.keepPart w ia n true done [], .hold)
      | (s, .fault e) => (s.keepPart w ia n true 0 [], .fault e)
      | (s, .ok _) => State.writeOn s w ia n tag bad f (done + pieceLen ia n done) (bytes.drop (pieceLen ia n done))

/-- A write of bytes by an engine (R142) with their tag; the words of the bytes at the IAs `bad` are written poisoned. Every piece is checked
before any is written (R35). -/
def State.engineWrite (s : State) (w : Who) (ia : Nat) (bytes : List Byte) (tag : BitVec 32) (bad : List Nat := []) :
    State × Got Unit :=
  if !s.inPieces w ia bytes.length true then s.writeWhole w ia bytes tag bad
  else match s.window 0 ia bytes.length 3 with
    | .error f => (s, .fault f)
    | .ok win =>
      let from_ := ((s.parts.find? (PartAcc.mine w ia bytes.length true)).map (·.done)).getD 0
      let go (s : State) : State × Got Unit := s.writeOn w ia bytes.length tag bad (bytes.length / 128 + 2) from_ (bytes.drop from_)
      (match win with
       | .trans => match s.pieces w 0 ia bytes.length .write with
         | (s, .ok _) => go s
         | (s, .fault f) => (s, .fault f)
         | (s, .hold) => (s, .hold)
       | .dev _ _ => s.writeWhole w ia bytes tag bad
       | _ => go s)

/-- What has been read stays read while the write that follows it waits. -/
def State.keepRead (s : State) (w : Who) (ia : Nat) (got : List Taken) : State :=
  if s.parts = [] ∧ !s.invs.any (fun v => v.st.active) then s else s.keepPart w ia got.length false got.length got

/-! ## Completion signals -/

/-- A command with the release flag may signal (R51, R162): each of its writes has been acknowledged and the dirty bytes of its hart's
cluster have reached their homes. False: it waits. -/
def State.cmdReleased (s : State) (rel : Bool) (place : Option Nat) (id : Nat) : State × Bool :=
  if !rel then (s, true)
  else if s.updates.any (fun u => decide (u.owner = id)) || s.stk.any (fun e => !e.2.biWait.isEmpty) then (s, false)
  else match place with
    | some p => if p < 8192 then s.cleanAll (clusterOf p) (s.getClu (clusterOf p)).dirtyLines else (s, true)
    | none => (s, true)

/-- A completion signal to a barrier cell is sent for a command (R347). -/
def State.signal (s : State) (ia d : Nat) (f : Bool) (w : Who) (tag : BitVec 32) (owner : Nat) : State :=
  let (id, s) := s.fresh
  let g : Signal := { id := id, ia := ia, d := d, f := f, lvl := w.lvl, vf := w.vf, ctx := w.ctx, stack := w.stack, unit := w.unit,
                      tag := tag, owner := owner }
  { s with signals := s.signals ++ [g] }.post (.barrierArrive id)

/-- A command's arrival is still on its way. -/
def State.signalled (s : State) (owner : Nat) : Bool := s.signals.any (fun g => decide (g.owner = owner))

/-- The completion of the command or node with this number goes on. -/
def State.wakeOwner (s : State) (id : Nat) : State :=
  if s.copies.any (fun c => decide (c.id = id)) then s.postOnce (.copyComplete id)
  else if s.mops.any (fun m => decide (m.id = id)) then s.postOnce (.matrixOpComplete id)
  else match s.bcmds.find? (fun b => decide (b.id = id)) with
    | some b => s.postOnce (if b.copy then .bkcopyComplete id else .bkopComplete id)
    | none => if s.nodes.any (fun n => decide (n.id = id)) then s.postOnce (.nodeComplete id) else s

/-- BARRIER_ARRIVE (R347): the arrival of a command at its cell. -/
def execBarrierArrive (id : Nat) (s : State) : Out :=
  match s.signals.find? (fun g => decide (g.id = id)) with
  | none => .next s
  | some g =>
    let tick := s.tick
    match s.engineCell (engineWho g.unit g.stack g.lvl g.vf g.ctx) g.ia (genMax g.tag (s.unitGen g.unit)) (fun b => (b.update 1 g.d g.f tick).word) with
    | (s, false) => .next (s.postOnce (.barrierArrive id))
    | (s, true) => .next ({ s with signals := s.signals.filter (fun q => decide (q.id ≠ id)) }.wakeOwner g.owner)

/-! ## Issue -/

/-- A symbolic load with acquire holds every later access of its stream (R172). -/
def State.acqHolds (s : State) : Bool :=
  s.hart.sym.toList.any (fun q => match q with | .pending p _ => p.acq | _ => false)

/-- The acquire flag of a command (R161): every earlier access of both streams is performed at its scope first. -/
def State.acquireCmd (s : State) (ord : BitVec 3) : Flow Unit :=
  if s.inAhead then .go s ()
  else if s.isLate ∨ s.acqHolds ∨ s.hart.hdep ≠ 0 then .out s.stall
  else if !ordAcq ord then .go s ()
  else if s.symPending ∨ s.hart.vq ≠ [] then .out s.stall
  else match s.releaseBoth s.me (ordScope ord) with
    | (s, true) => .go s ()
    | (s, false) => .out (.next s)

/-- A command waits for one of the 32 command numbers (R196). -/
def State.cmdFree (s : State) : Flow Nat :=
  match s.hart.cmdNumber with
  | some n => .go s n
  | none => if s.inAhead then .go s 0 else .out s.stall

/-- A command number is taken. -/
def State.takeCmd (s : State) (n : Nat) : State := s.upd (fun h => { h with cmds := nins n h.cmds })

/-- In run-ahead the unit of an operand extent's first byte is recorded if it faults with a batched cause (R39). -/
def State.extentAhead (s : State) (ia n : Nat) (acc : Acc) : Flow Unit :=
  if n = 0 ∨ 2 ^ 48 ≤ ia then .go s ()
  else match s.pieceAt s.me 0 ia ia 1 acc with
    | (s, .fault f) => if batched f.code then s.faulted f acc.engKind else .go s ()
    | (s, _) => .go s ()

/-- A command in run-ahead: the extents' first bytes, then nothing is sent (R39). -/
def State.commandAhead (s : State) (rd : Reg) : List (Nat × Nat × Acc) → Out
  | [] => s.doneX rd .unknown
  | (ia, n, acc) :: l => match s.extentAhead ia n acc with
    | .out o => o
    | .go s _ => State.commandAhead s rd l
    | .skip s => State.commandAhead s rd l

end Sys2Proof.Machine
end

