-- ==== Sys2Proof/Machine/Bank.lean ====
section
/-! DEFINITION. Bank instructions of a hart (R384 to R398): BKOP, BKLOCK, BKUNLOCK, BKFENCE, BKCOPY, WICKLOAD and BKCFG. -/
namespace Sys2Proof.Machine

/-- `x[rd]` of a bank instruction: a code in bits 3:0 (R390, R394). -/
def State.doneCode (s : State) (rd : Reg) (n : Nat) : Out := s.done rd (BitVec.ofNat 64 n)

/-- The probes of consecutive pages in run-ahead (R387): each batched fault is recorded. -/
def State.probesAhead (s : State) (rd : Reg) (acc : Acc) : Nat → W64 → Nat → Out
  | 0, _, _ => s.doneX rd .unknown
  | n + 1, va, ia => match s.probe s.me va ia acc with
    | (s, .hold) => .next s
    | (s, .ok _) => State.probesAhead s rd acc n (va + BitVec.ofNat 64 pageBytes) (ia + pageBytes)
    | (s, .fault f) => match s.faulted f acc.engKind with
      | .out o => o
      | .go s _ => State.probesAhead s rd acc n (va + BitVec.ofNat 64 pageBytes) (ia + pageBytes)
      | .skip s => State.probesAhead s rd acc n (va + BitVec.ofNat 64 pageBytes) (ia + pageBytes)

/-! ## BKOP (R388 to R392) -/

/-- A BKOP leaves the hart: with its probed pages, on hold for a symbol, or already failed. -/
def State.bkopLeaves (s : State) (rd : Reg) (xs : List XVal) (ord : BitVec 3) (plan : Option BankPlan) : Out :=
  match s.acquireCmd ord with
  | .out o => o
  | .skip s => .next s
  | .go s _ => match s.cmdFree with
    | .out o => o
    | .skip s => .next s
    | .go s cnum =>
      let (id, s) := s.fresh
      let s := s.takeCmd cnum
      let by_ : BankBy := { who := s.me, id := id, cnum := cnum, node := s.hart.node, rel := ordRel ord, tag := s.hart.gen }
      let bar : Option Nat := match xs.getD 2 .unknown with
        | .known v => s.barrierIf s.myCtx s.hart.level v
        | _ => none
      match plan with
      | some (.go pages b) => (s.sendBkop by_ b ((xs.getD 1 (.known 0)).val) pages).doneCode rd 0
      | some (.bad b) => (s.failBank by_ false b 4 0).doneCode rd 4
      | some .hold => .next s
      | some (.trap f) => (s.failBank by_ false bar 2 f.code).doneCode rd 0
      | none => match xs.findSome? (fun x => (s.poisonOf x).map (fun q => q.2.1)) with
        | some c => (s.failBank by_ false bar 3 c).doneCode rd 1
        | none =>
          let held : Held := { id := id, word := s.hart.iw, cnum := cnum, ops := xs, older := [], tag := s.hart.gen }
          (s.upd (fun h => { h with held := h.held ++ [held] })).doneCode rd 1

/-- A BKOP in run-ahead: translated and probed (R387). -/
def State.bkopAhead (s : State) (rd : Reg) (page msg bar : W64) : Out :=
  match s.extent s.myCtx s.hart.level page (fanOut msg * pageBytes) .both with
  | .error f => (match s.faulted f Acc.both.engKind with | .out o => o | .go s _ => s.doneX rd .unknown | .skip s => s.doneX rd .unknown)
  | .ok (ia, _) => match s.barrierOf s.myCtx s.hart.level bar with
    | .error f => (match s.faulted f Acc.both.engKind with | .out o => o | .go s _ => s.doneX rd .unknown | .skip s => s.doneX rd .unknown)
    | .ok _ => if page.toNat % pageBytes ≠ 0 then s.doneX rd .unknown else s.probesAhead rd .both (fanOut msg) page ia

/-- BKOP (R388). -/
def execBkop (sc : Sc) (rd rs1 rs2 : Reg) (o : BitVec 3) (s : State) : Out :=
  let regs := [rs1, rs1 + 1, rs2]
  match s.preface sc false with
  | some o => o
  | none => match s.badReg regs with
    | some r => s.parity r
    | none =>
      let xs := regs.map s.hart.rx
      if xs.any (fun x => match x with | .chain _ _ => true | _ => false) then s.block xs
      else if !s.inAhead && decide (s.hart.depOf regs ≠ 0) then s.stall
      else if !xs.all XVal.isKnown then (if s.inAhead then s.doneX rd .unknown else s.bkopLeaves rd xs o none)
      else
        let v (i : Nat) : W64 := (xs.getD i (.known 0)).val
        if s.inAhead then s.bkopAhead rd (v 0) (v 1) (v 2)
        else match s.planBkop s.me s.myCtx (v 0) (v 1) (v 2) with
          | (s, .hold) => .next s
          | (s, .trap f) => (match s.faulted f Acc.both.engKind with
            | .out o => o
            | .go s _ => s.doneX rd .unknown
            | .skip s => s.doneX rd .unknown)
          | (s, .go pages b) =>
            if s.windowFull s.hart.place (pages.map (fun q => keyDie q.2)) then s.stall else s.bkopLeaves rd xs o (some (.go pages b))
          | (s, p) => s.bkopLeaves rd xs o (some p)

/-! ## BKFENCE (R393) -/

/-- The bank commands of the hart that steps. -/
def State.myBank (s : State) (b : BankCmd) : Bool := decide (b.place = some s.hart.place) && decide (b.ctx = s.hart.ctxKey)

/-- Accesses of a bank command are still to come. -/
def State.bankBusy (s : State) (b : BankCmd) : Bool :=
  decide (b.code = 0) && ((b.copy && decide (b.moved < b.count)) || s.invs.any (fun v => decide (v.cmd = b.id) && decide (v.st ≠ .ended)))

/-- BKFENCE (R393, R169): every bank command before it has made its accesses; then an acquire. -/
def execBkfence (sc : Sc) (o : BitVec 3) (s : State) : Out :=
  match s.preface sc false with
  | some o => o
  | none =>
    if s.inAhead then .next s.retire
    else if s.hart.held.any Held.isBank || s.bcmds.any (fun b => s.myBank b && s.bankBusy b) then s.stall
    else .next (s.acquire s.me (ordScope o)).retire

/-! ## Row-locks (R394) -/

/-- The run of a row-run word: first row and count, or none where the word is bad. -/
def runOf (v : W64) : Option (Nat × Nat) :=
  let a := v.toNat % 1024
  let n := v.toNat / 2 ^ 11 % 1024 + 1
  if v &&& 0xffffffffffe00400#64 ≠ 0 ∨ 1024 < a + n then none else some (a, n)

/-- The page of a lock instruction (R384): its die, bank and subarray. -/
def State.lockPage (s : State) (va : W64) : Flow (Option Nat) :=
  match s.extent s.myCtx s.hart.level va pageBytes .write with
  | .error f => (s.faulted f kEngine).ofFault
  | .ok (ia, _) =>
    if va.toNat % pageBytes ≠ 0 then .go s none
    else match State.flow Acc.write.engKind (s.probe s.me va ia .write) with
      | .out o => .out o
      | .skip s => .skip s
      | .go s key => .go s (some key)

/-- A lock is on this page and run. -/
def RowLock.isRun (l : RowLock) (key a n : Nat) : Bool :=
  decide (l.die = keyDie key) && decide (l.bank = key / 2 ^ 26 % 64) && decide (l.sub = key / 2 ^ 20 % 64) && decide (l.row = a) &&
    decide (l.count = n)

/-- The key of the first byte of the rows of a lock. -/
def RowLock.base (l : RowLock) : Nat := 2 ^ 32 * l.die + 2 ^ 26 * l.bank + 2 ^ 20 * l.sub + 1024 * l.row

/-- Bytes at a key lie in the rows of a lock. -/
def RowLock.covers (l : RowLock) (key n : Nat) : Bool := decide (key < l.base + 1024 * l.count) && decide (l.base < key + n)

/-- What a lock that is only reserved waits for (R394): an invocation of another context that runs on its page, and a normal access of
another context to its rows of which a part has been made (R97). -/
def State.lockBlocked (s : State) (l : RowLock) : Bool :=
  s.waits.any (fun w => decide (w.ctx ≠ l.ctx) && decide (w.served ≠ 0) && !w.ready && l.covers w.key w.len) ||
  s.parts.any (fun p => decide (p.ctx ≠ l.ctx) && decide (p.done ≠ 0) && decide (p.done < p.n) &&
    (match s.peekKey p.ia with | some key => l.covers key (min p.n (2 ^ 20)) | none => false)) ||
  s.invs.any (fun v => decide (v.die = l.die) && decide (v.bank = l.bank) && decide (v.sub = l.sub) && decide (v.ctx ≠ l.ctx) && v.st.active)

def State.onLock (s : State) (id : Nat) (f : RowLock → RowLock) : State :=
  { s with locks := modList (fun l => decide (l.id = id)) f s.locks }

/-- A reserved lock is held from now (R394, R99). -/
def State.holdLock (s : State) (id : Nat) : State :=
  (s.onLock id (fun l => { l with isHeld := true, since := s.tick })).postOnce (.rowLockExpiry id)

/-- A lock counts while it is reserved or held. -/
def RowLock.live (l : RowLock) : Bool := !l.expired

/-- BKLOCK at the bank (R98, R394): refused, or reserved, and held as soon as it can be. -/
def State.lockRun (s : State) (rd : Reg) (key a n : Nat) : Out :=
  let die := keyDie key
  let bank := key / 2 ^ 26 % 64
  let sub := key / 2 ^ 20 % 64
  let me := s.hart.place
  match s.locks.find? (fun l => l.isRun key a n && decide (l.ctx = s.hart.ctxKey) && decide (l.waiter = some me)) with
  | some l => if l.isHeld || l.expired then (s.onLock l.id (fun q => { q with waiter := none })).doneCode rd 0 else s.stall
  | none =>
    let here := s.locks.filter (fun l => l.live && decide (l.die = die) && decide (l.bank = bank))
    if 8 ≤ here.length then s.doneCode rd 1
    else if here.any (fun l => decide (l.sub = sub) && decide (l.ctx ≠ s.hart.ctxKey) && decide (l.row < a + n) && decide (a < l.row + l.count)) then
      s.doneCode rd 2
    else
      let (id, s) := s.fresh
      let l : RowLock := { id := id, die := die, bank := bank, sub := sub, row := a, count := n, ctx := s.hart.ctxKey, isHeld := false,
                           expired := false, since := 0, waiter := some me }
      let s : State := { s with locks := s.locks ++ [l] }
      if s.lockBlocked l then .next (s.postOnce (.bklockHeld id))
      else ((s.holdLock id).onLock id (fun q => { q with waiter := none })).doneCode rd 0

/-- BKLOCK (R394). -/
def execBklock (sc : Sc) (rd rs1 rs2 : Reg) (s : State) : Out :=
  match s.ready sc false [rs1, rs2] with
  | .out o => o
  | .skip s => s.doneX rd .unknown
  | .go s _ => match s.lockPage (s.hart.kx rs1) with
    | .out o => o
    | .skip s => s.doneX rd .unknown
    | .go s key =>
      if s.inAhead then s.doneX rd .unknown
      else if s.isLate then s.stall
      else match key, runOf (s.hart.kx rs2) with
        | some key, some (a, n) => s.lockRun rd key a n
        | _, _ => s.doneCode rd 3

/-- A lock ends (R99): what waited on it goes on, and the die may start invocations. -/
def State.endLock (s : State) (l : RowLock) : State :=
  { s with locks := s.locks.filter (fun q => decide (q.id ≠ l.id)) }.postOnce (.invocationStart l.die)

/-- BKUNLOCK (R394, R170). -/
def execBkunlock (sc : Sc) (rd rs1 rs2 : Reg) (s : State) : Out :=
  match s.ready sc false [rs1, rs2] with
  | .out o => o
  | .skip s => s.doneX rd .unknown
  | .go s _ => match s.lockPage (s.hart.kx rs1) with
    | .out o => o
    | .skip s => s.doneX rd .unknown
    | .go s key =>
      if s.inAhead then s.doneX rd .unknown
      else match key, runOf (s.hart.kx rs2) with
        | some key, some (a, n) =>
          let ia := match issue s.myCtx s.hart.level (s.hart.kx rs1) pageBytes { Acc.write with eng := true } with
            | .ok (ia, _) => ia
            | .error _ => 0
          if s.isLate ∨ s.symBlocks (ia + 1024 * a) (1024 * n) then s.stall
          else
            let mine := s.locks.filter (fun l => l.isRun key a n && decide (l.ctx = s.hart.ctxKey) && l.waiter.isNone)
            (match mine.find? (·.isHeld) with
             | some l => (s.endLock l).doneCode rd 0
             | none => match mine.find? (·.expired) with
               | some l => (s.endLock l).doneCode rd 6
               | none => s.doneCode rd 5)
        | _, _ => s.doneCode rd 3

/-! ## BKCOPY (R395) -/

/-- The rows word of BKCOPY: source first row, destination first row, count. -/
def copyRows (v : W64) : Option (Nat × Nat × Nat) :=
  let a := v.toNat % 1024
  let b := v.toNat / 1024 % 1024
  let n := v.toNat / 2 ^ 20 % 1024 + 1
  if v.toNat / 2 ^ 30 ≠ 0 ∨ 1024 < a + n ∨ 1024 < b + n then none else some (a, b, n)

/-- BKCOPY once its pages are translated (R395, R390). -/
def State.bkcopyLeaves (s : State) (rd : Reg) (d r : Nat) (ok : Option (Nat × Nat × Nat)) (bar : Option Nat) (ord : BitVec 3) : Out :=
  match s.acquireCmd ord with
  | .out o => o
  | .skip s => .next s
  | .go s _ => match s.cmdFree with
    | .out o => o
    | .skip s => .next s
    | .go s cnum =>
      let (id, s) := s.fresh
      let s := s.takeCmd cnum
      let by_ : BankBy := { who := s.me, id := id, cnum := cnum, node := s.hart.node, rel := ordRel ord, tag := s.hart.gen }
      match ok with
      | none => (s.failBank by_ true bar 4 0).doneCode rd 4
      | some (a, b, n) =>
        let c := { bankCmd by_ true bar 0 0 0 with dst := d, src := r, row := a, drow := b, count := n }
        (({ s with bcmds := s.bcmds ++ [c] } : State).post (.bkcopyComplete id)).doneCode rd 0

/-- BKCOPY (R395). -/
def execBkcopy (sc : Sc) (rd rs1 rs2 : Reg) (o : BitVec 3) (s : State) : Out :=
  match s.ready sc false [rs1, rs1 + 1, rs2, rs2 + 1] with
  | .out o => o
  | .skip s => s.doneX rd .unknown
  | .go s _ =>
    let dv := s.hart.kx rs1
    let rv := s.hart.kx (rs1 + 1)
    match (match s.extent s.myCtx s.hart.level dv pageBytes .write with
      | .error f => ((s.faulted f kEngine).ofFault : Flow Nat)
      | .ok (ia, _) => .go s ia) with
    | .out o => o
    | .skip s => s.doneX rd .unknown
    | .go s d => match (match s.extent s.myCtx s.hart.level rv pageBytes .read with
        | .error f => ((s.faulted f kEngine).ofFault : Flow Nat)
        | .ok (ia, _) => .go s ia) with
      | .out o => o
      | .skip s => s.doneX rd .unknown
      | .go s r => match s.barrierOf s.myCtx s.hart.level (s.hart.kx (rs2 + 1)) with
        | .error f => (match s.faulted f kEngine with | .out o => o | .go s _ => s.doneX rd .unknown | .skip s => s.doneX rd .unknown)
        | .ok bar =>
          let rows := (copyRows (s.hart.kx rs2)).filter (fun q =>
            !(decide (d = r) && decide (q.1 < q.2.1 + q.2.2) && decide (q.2.1 < q.1 + q.2.2)))
          if dv.toNat % pageBytes ≠ 0 ∨ rv.toNat % pageBytes ≠ 0 ∨ rows = none then
            (if s.inAhead then s.doneX rd .unknown else s.bkcopyLeaves rd d r none bar o)
          else match State.flow Acc.write.engKind (s.probe s.me dv d .write) with
            | .out o => o
            | .skip s => if s.inAhead then s.probesAhead rd .read 1 rv r else s.doneX rd .unknown
            | .go s _ => match State.flow Acc.read.engKind (s.probe s.me rv r .read) with
              | .out o => o
              | .skip s => s.doneX rd .unknown
              | .go s _ => if s.inAhead then s.doneX rd .unknown else s.bkcopyLeaves rd d r rows bar o

/-! ## WICKLOAD (R396, R397) -/

/-- A row specifier is legal (R397). -/
def specOk (s : BitVec 6) : Bool := !(s.getLsbD 5 && decide (s.extractLsb' 3 2 ≠ 0))
/-- A data row specifier. -/
def specData (s : BitVec 6) : Bool := !s.getLsbD 5
/-- C0 or C1. -/
def specConst (s : BitVec 6) : Bool := decide (s = 38#6) || decide (s = 39#6)
/-- The DC row that a NOT uses (R401). -/
def notDc (d s : BitVec 6) : BitVec 6 := if d = 37#6 ∨ s = 37#6 then 37#6 else 36#6

/-- A microword breaks a rule of R397 by itself. -/
def microBad (w : Micro) : Bool :=
  let op := (w.extractLsb' 12 4).toNat
  let d := w.extractLsb' 6 6
  let s := w.extractLsb' 0 6
  if op = 0 then decide (w.extractLsb' 0 12 ≠ 0)
  else if op = 1 ∨ op = 3 ∨ op = 4 ∨ op = 5 then
    !specOk d || !specOk s || specConst d || (decide (op = 3) && decide (d = notDc d s))
  else if op = 2 then
    decide (d ≠ 0) || decide (w.extractLsb' 0 2 = w.extractLsb' 2 2) || decide (w.extractLsb' 0 2 = w.extractLsb' 4 2) ||
      decide (w.extractLsb' 2 2 = w.extractLsb' 4 2)
  else if op = 6 ∨ op = 7 then decide (d ≠ 0) || !specOk s || specConst s
  else if op = 8 then decide (d ≠ 0) || !specData s
  else if op = 9 then decide (w.extractLsb' 6 4 ≠ 0) || !specData s
  else if op = 10 then
    (decide (w.extractLsb' 10 2 = 0) && decide (w.extractLsb' 0 10 = 0)) || (decide (w.extractLsb' 10 2 = 1) && decide (w.extractLsb' 2 8 ≠ 0))
  else if op = 11 then decide (w.extractLsb' 4 8 ≠ 0)
  else if op = 12 then
    decide (w.extractLsb' 8 2 = 3) || (decide (w.extractLsb' 8 2 = 0) && decide (w.extractLsb' 2 6 ≠ 0))
  else if op = 14 then decide (w.extractLsb' 0 12 = 0)
  else false

/-- The microwords at which the pairing of LOOP and END breaks (R397): an END with no LOOP, a fifth level, a LOOP left open. -/
def loopBad : Nat → List Nat → List Micro → List Nat
  | _, st, [] => st
  | i, st, w :: l =>
    if w.extractLsb' 12 4 = 10 then (if 4 ≤ st.length then i :: loopBad (i + 1) (i :: st) l else loopBad (i + 1) (i :: st) l)
    else if w.extractLsb' 12 4 = 11 then
      match st with
      | [] => i :: loopBad (i + 1) [] l
      | _ :: st => loopBad (i + 1) st l
    else loopBad (i + 1) st l

/-- The index of the first invalid microword of an image, if any (R396, R397). -/
def imageBad (l : List Micro) : Option Nat :=
  let own := (upto l.length).filter (fun i => microBad (l.getD i 0))
  let last := if (l.getD (l.length - 1) 0).extractLsb' 12 4 = 15 then [] else [l.length - 1]
  match own ++ loopBad 0 [] l ++ last with
  | [] => none
  | i :: r => some (r.foldl min i)

/-- The microwords of an image, read by 2-byte loads. -/
def State.imageWords (s : State) : Nat → W64 → Flow (List Micro)
  | 0, _ => .go s []
  | n + 1, va => match s.loadVal va 2 0 with
    | .out o => .out o
    | .skip s => .skip s
    | .go s v => match State.imageWords s n (va + 2) with
      | .go s l => .go s (BitVec.ofNat 16 v :: l)
      | r => r

/-- The dies that a target word selects, as 16 × stack + die. -/
def targetDies (v : W64) : List Nat :=
  (upto 256).filter (fun d => bitOf v.toNat (32 + d / 16) && bitOf v.toNat (16 + d % 16))

/-- WICKLOAD (R396). -/
def execWickload (sc : Sc) (rd rs1 rs2 : Reg) (s : State) : Out :=
  if s.hart.level = .app then s.illegal
  else match s.ready sc true [rs1, rs2] with
    | .out o => o
    | .skip s => s.stopAhead 2
    | .go s _ =>
      let va := s.hart.kx rs1
      let t := s.hart.kx rs2
      let dies := targetDies t
      if va.toNat % 2 = 1 ∨ t &&& 0xffff00000000f000#64 ≠ 0 ∨ dies = [] then s.doneCode rd 2
      else match s.imageWords (t.toNat / 16 % 256 + 1) va with
        | .out o => o
        | .skip s => .next s
        | .go s l => match imageBad l with
          | some i => s.doneCode rd (1 + 256 * i)
          | none =>
            let good := dies.filter (fun d => !s.dieFenced d)
            let code := if good.length = dies.length then 0 else 3
            let slot := t.toNat % 16
            let me := s.hart.place
            let s := good.foldl (fun u d => (u.setDie d { u.getDie d with
              loading := (u.getDie d).loading ++ [(slot, me, l)] }).postOnce (.wickloadDieLoad d slot)) s
            if good = [] then s.doneCode rd code
            else .next (s.upd (fun h => { h with wait := some (.wickload rd (BitVec.ofNat 64 code) slot good) }))

/-! ## BKCFG (R398) -/

/-- BKCFG (R398). -/
def execBkcfg (sc : Sc) (rd rs1 rs2 : Reg) (s : State) : Out :=
  if s.hart.level = .app then s.illegal
  else match s.ready sc true [rs1, rs2] with
    | .out o => o
    | .skip s => s.stopAhead 2
    | .go s _ =>
      let sel := (s.hart.kx rs1).toNat
      let d := 16 * (sel / 16 % 16) + sel % 16
      let r := sel / 256 % 8
      if sel / 2 ^ 12 ≠ 0 ∨ 5 ≤ r ∨ s.dieFenced d then s.done rd (BitVec.allOnes 64)
      else
        let old := BitVec.ofNat 64 (s.devValue (d / 16) (.bank d r))
        let s := if bitOf sel 11 then s.bankRegPut d r (s.hart.kx rs2) else s
        s.done rd old

end Sys2Proof.Machine
end

