-- ==== Sys2Proof/Machine/Copy.lean ====
section
/-! DEFINITION. Copies at issue: CPY, CPY2, CPYG and CPYX (R360, R377 to R383). -/
namespace Sys2Proof.Machine

/-- The number of the copies of the hart that steps that are not complete (R164). -/
def State.myCopies (s : State) : List Nat :=
  (s.copies.filter (fun c => decide (c.place = some s.hart.place) && c.saved.isNone)).map (·.id) ++
    (s.hart.held.filter (fun c => !c.isBank)).map (·.id)

/-- The operands of a copy in the order of R215. -/
def copyRegs (kind : Nat) (rs1 rs2 : Reg) : List Reg :=
  [rs1, rs1 + 1, rs2, rs2 + 1] ++ (if kind = 1 then [rs2 + 2, rs2 + 3] else [])

/-- A CPYG list that its hart may not read now: older symbolic loads of its bytes (R172). -/
def State.listHold (s : State) (kind : Nat) (ops : List W64) : Bool :=
  decide (kind = 2) && (match issue s.myCtx s.hart.level (ops.getD 1 0) 8 .read with
    | .ok (ia, attr) => s.symBlocks ia (16 * (ops.getD 2 0).toNat) attr
    | .error _ => false)

/-- In run-ahead a list of device attribute or in a FIFO bank is not read (R39). -/
def State.listUnread (s : State) (kind : Nat) (ops : List W64) : Bool :=
  decide (kind = 2) && (match issue s.myCtx s.hart.level (ops.getD 1 0) 8 .read with
    | .ok (ia, attr) => decide (attr = 3) || (match s.window 0 ia 8 attr with | .ok w => s.fifoWin w | .error _ => false)
    | .error _ => false)

/-- The extents of a copy in run-ahead: first bytes of each side (R39). -/
def planExtents (kind : Nat) (segs : List (Nat × Nat × Nat)) : List (Nat × Nat × Acc) :=
  match segs with
  | [] => []
  | g :: _ => (if kind = 2 then segs.map (fun e => (e.2.1, e.2.2, Acc.read)) else [(g.2.1, g.2.2, Acc.read)]) ++ [(g.1, g.2.2, Acc.write)]

/-- The hart gives a copy a command number, a number and, unless `rd` is `x0`, a status symbol (R186, R196, R377). -/
def State.takeCopy (s : State) (rd : Reg) (cnum : Nat) (ord : BitVec 3) (slot : Option Nat) : State :=
  let s := s.takeCmd cnum
  match slot with
  | none => s
  | some k => s.upd (fun h =>
      let h := (h.setSlot k (.copyStatus cnum)).wx rd (rawForm k)
      if ordRel ord then { h with acqOn := h.acqOn ++ [(rd.toNat, ordScope ord)] } else h)

/-- The poison that an operand's symbol carries, if any (R192). -/
def State.poisonCause (s : State) (xs : List XVal) : Option Nat := xs.findSome? (fun x => (s.poisonOf x).map (fun q => q.2.1))

/-- A copy leaves the hart: with its plan, on hold for a symbol, or already failed. -/
def State.copyLeaves (s : State) (rd : Reg) (kind : Nat) (xs : List XVal) (ordered : Bool) (ord : BitVec 3)
    (plan : Option Plan) : Out :=
  match s.acquireCmd ord with
  | .out o => o
  | .skip s => .next s
  | .go s _ => match s.cmdFree with
    | .out o => o
    | .skip s => .next s
    | .go s cnum =>
      if rd ≠ 0 ∧ s.hart.openSlot = none then s.stall
      else
        let slot := if rd = 0 then none else s.hart.openSlot
        let (id, s) := s.fresh
        let older := s.myCopies
        let s := s.takeCopy rd cnum ord slot
        let by_ : CopyBy := { who := s.me, id := id, cnum := cnum, slot := slot, node := s.hart.node, cls := s.hart.cls,
                              rel := ordRel ord, ordered := ordered, older := older, tag := s.hart.gen, kind := kind }
        let bar : Option Nat := match xs.getD (barrierOp kind) .unknown with
          | .known v => s.barrierIf s.myCtx s.hart.level v
          | _ => none
        match plan with
        | some (.go segs b) => .next (s.sendCopy by_ segs b 0 0).retire
        | some (.bad b) => .next (s.sendCopy by_ [] b 4 0).retire
        | some .hold => .next s
        | some (.trap f) => .next (s.sendCopy by_ [] bar 2 f.code).retire
        | none => match s.poisonCause xs with
          | some c => .next (s.sendCopy by_ [] bar 3 c).retire
          | none =>
            let held : Held := { id := id, word := s.hart.iw, cnum := cnum, ops := xs, older := older, tag := s.hart.gen }
            .next (s.upd (fun h => { h with held := h.held ++ [held] })).retire

/-- A copy instruction (R360): operands, checks, and what leaves the hart. -/
def State.copyIssue (s : State) (sc : Sc) (rd : Reg) (kind : Nat) (rs1 rs2 : Reg) (ordered : Bool) (ord : BitVec 3) : Out :=
  let regs := copyRegs kind rs1 rs2
  match s.preface sc false with
  | some o => o
  | none => match s.badReg regs with
    | some r => s.parity r
    | none =>
      let xs := regs.map s.hart.rx
      if xs.any (fun x => match x with | .chain _ _ => true | _ => false) then s.block xs
      else if !xs.all XVal.isKnown then
        (if s.inAhead then s.doneX rd .unknown else if s.hart.depOf regs ≠ 0 then s.stall else s.copyLeaves rd kind xs ordered ord none)
      else
        let ops := xs.map XVal.val
        if !s.inAhead && (decide (s.hart.depOf regs ≠ 0) || s.listHold kind ops) then s.stall
        else if s.inAhead && s.listUnread kind ops then s.doneX rd .unknown
        else match s.planCopy s.me s.myCtx kind ops with
          | (s, .hold) => .next s
          | (s, .trap f) => (match s.faulted f kRead with
            | .out o => o
            | .go s _ => s.doneX rd .unknown
            | .skip s => s.doneX rd .unknown)
          | (s, .go segs b) =>
            if s.inAhead then s.commandAhead rd (planExtents kind segs) else s.copyLeaves rd kind xs ordered ord (some (.go segs b))
          | (s, .bad b) =>
            if s.inAhead then s.doneX rd .unknown else s.copyLeaves rd kind xs ordered ord (some (.bad b))

/-- CPY (R377). -/
def execCpy (sc : Sc) (rd rs1 rs2 : Reg) (q : BitVec 1) (o : BitVec 3) (s : State) : Out := s.copyIssue sc rd 0 rs1 rs2 (q = 1) o
/-- CPY2 (R378). -/
def execCpy2 (sc : Sc) (rd rs1 rs2 : Reg) (q : BitVec 1) (o : BitVec 3) (s : State) : Out := s.copyIssue sc rd 1 rs1 rs2 (q = 1) o
/-- CPYG (R379). -/
def execCpyg (sc : Sc) (rd rs1 rs2 : Reg) (q : BitVec 1) (o : BitVec 3) (s : State) : Out := s.copyIssue sc rd 2 rs1 rs2 (q = 1) o

/-- CPYX on the copy with a command number of this hart (R383): the code, and what becomes of the copy. -/
def State.abortCopy (s : State) (cnum : Nat) : State × Nat :=
  match s.hart.held.find? (fun c => decide (c.cnum = cnum) && !c.isBank) with
  | some c =>
    let s := s.upd (fun h => { h with held := h.held.filter (fun q => decide (q.id ≠ c.id)) })
    let bar : Option Nat := match c.ops.getD (barrierOp c.kind) .unknown with
      | .known v => s.barrierIf s.myCtx s.hart.level v
      | _ => none
    (s.sendCopy (s.copyBy c) [] bar 1 0, 0)
  | none => match s.copies.find? (fun c => decide (c.place = some s.hart.place) && c.saved.isNone && decide (c.cnum = cnum)) with
    | none => (s, 1)
    | some c =>
      if c.st = .finishing ∨ c.st = .ended then (s, 1)
      else
        let s := { s with copies := modList (fun q => decide (q.id = c.id)) (fun q => { q with code := 1, cause := 0 }) s.copies }
        (if c.st = .waiting then s.postOnce (.copyBufferReady c.id) else if c.st = .moving then s.postOnce (.copyClassRound c.stack) else s, 0)

/-- CPYX (R383). -/
def execCpyx (sc : Sc) (rd rs1 : Reg) (s : State) : Out :=
  match s.preface sc false with
  | some o => o
  | none => match s.badReg [rs1] with
    | some r => s.parity r
    | none =>
      if s.inAhead then s.doneX rd .unknown
      else if s.isLate then s.stall
      else match s.hart.rx rs1 with
        | .form k _ _ => (match s.hart.slot k with
          | .copyStatus cnum => let (s, n) := s.abortCopy cnum; s.done rd (BitVec.ofNat 64 n)
          | _ => s.done rd 2)
        | _ => s.done rd 2

end Sys2Proof.Machine
end

