-- ==== Sys2Proof/Machine/EvCopy.lean ====
section
/-! DEFINITION. The copy engines: acceptance and arming (R347), buffer ends (R380), class rounds (R422), chunks and takes
(R381), and completion (R382). -/
namespace Sys2Proof.Machine

/-! ## Records -/

def State.copyAt (s : State) (id : Nat) : Option Copy := s.copies.find? (fun c => decide (c.id = id))
def State.onCopy (s : State) (id : Nat) (f : Copy → Copy) : State :=
  { s with copies := modList (fun c => decide (c.id = id)) f s.copies }

/-- The engine unit that serves a copy. -/
def Copy.unit (c : Copy) : Nat := unitCopy (4 * c.stack + c.id % 4)
def Copy.who (c : Copy) : Who := { engineWho c.unit c.stack c.lvl c.vf c.ctx with cmd := c.id }

/-- The tag of a copy's writes (R117). -/
def State.copyTag (s : State) (c : Copy) : BitVec 32 := genMax c.tag (s.unitGen c.unit)

/-- A piece of a chunk: destination, source, length. -/
abbrev CPiece := Nat × Nat × Nat

def chunkLen (l : List CPiece) : Nat := (l.map (fun p => p.2.2)).sum

/-- The chunks in flight. -/
def Copy.inFlight (c : Copy) : Nat := c.issued - c.done.length - c.failed

/-- The bytes of the longest prefix of completed chunks (R381). -/
def Copy.prefixLen (c : Copy) : Nat :=
  let n := ((upto c.chunks.length).takeWhile (fun i => nmem i c.done)).length
  ((c.chunks.take n).map chunkLen).sum

/-! ## Buffer ends (R380) -/

/-- A side that begins at offset 0 of a bank in FIFO mode: the bank, as 32 × cluster + bank. -/
def State.bufferEnd (s : State) (ia : Nat) : Option Nat :=
  match winOf s.ownPart ia with
  | some (.sram c off) =>
    if off % 2 ^ 19 = 0 ∧ (s.getBank c (off / 2 ^ 19)).mode = 2 ∧ (s.getBank c (off / 2 ^ 19)).busy = false then
      some (32 * c + off / 2 ^ 19)
    else none
  | _ => none

/-- The length rules of a buffer end. -/
def Header.takes (h : Header) (n : Nat) : Bool := h.legal && decide (n % h.rsize = 0) && decide (n ≤ h.cap * h.rsize)

/-- A ring of records: the IA of its bank, its size in bytes and where the first byte lies. -/
structure Ring where
  bank : Nat
  size : Nat
  pos : Nat

/-- `n` bytes from byte `lin` of a run, wrapping (R64). -/
def Ring.pieces (r : Ring) (lin n : Nat) : List (Nat × Nat) :=
  let x := (r.pos + lin) % r.size
  if n ≤ r.size - x then [(r.bank + 256 + x, n)] else [(r.bank + 256 + x, r.size - x), (r.bank + 256, n - (r.size - x))]

/-- A side of a segment: its own bytes, or those of a ring. -/
def sidePieces (r : Option Ring) (ia lin n : Nat) : List (Nat × Nat) :=
  match r with
  | none => [(ia, n)]
  | some r => r.pieces lin n

/-- Two sides of equal length cut where either is cut. -/
def zipSides : Nat → List (Nat × Nat) → List (Nat × Nat) → List CPiece
  | 0, _, _ => []
  | f + 1, (d, m) :: ds, (r, n) :: rs =>
    if m < n then (d, r, m) :: zipSides f ds ((r + m, n - m) :: rs)
    else if n < m then (d, r, n) :: zipSides f ((d + n, m - n) :: ds) rs
    else (d, r, m) :: zipSides f ds rs
  | _, _, _ => []

/-- A piece cut at the 128-byte lines of its destination. -/
def cutLines : Nat → CPiece → List CPiece
  | 0, _ => []
  | f + 1, (d, r, n) =>
    if n = 0 then []
    else
      let m := min n (128 - d % 128)
      (d, r, m) :: cutLines f (d + m, r + m, n - m)

/-- Neighbouring pieces of one destination line are one chunk. -/
def joinLines : List CPiece → List (List CPiece)
  | [] => []
  | p :: l => match joinLines l with
    | (q :: qs) :: rest => if p.1 / 128 = q.1 / 128 ∧ p.1 + p.2.2 = q.1 then (p :: q :: qs) :: rest else [p] :: (q :: qs) :: rest
    | rest => [p] :: rest

/-- An IA lies in the 0xA window. -/
def inDev (ia : Nat) : Bool := decide (ia / 2 ^ 48 = 10)

/-- A copy with a side in the 0xA window: its accesses there are made in order, each once (R505). -/
def Copy.dev (c : Copy) : Bool := c.segs.any (fun g => inDev g.1 || inDev g.2.1)

/-- A piece of the 0xA window cut into its registers (R505). -/
def cutWords (p : CPiece) : List (List CPiece) := (upto (p.2.2 / 8)).map (fun i => [(p.1 + 8 * i, p.2.1 + 8 * i, 8)])

/-- The chunks of segments, in order (R381); a segment with a side in the 0xA window is moved register by register (R505). -/
def chunksOf (push pop : Option Ring) : Nat → List CPiece → List (List CPiece)
  | _, [] => []
  | lin, (d, r, n) :: l =>
    let ps := zipSides 8 (sidePieces push d lin n) (sidePieces pop r lin n)
    (if inDev d || inDev r then ps.flatMap cutWords else joinLines (ps.flatMap (fun p => cutLines (p.2.2 / 128 + 2) p))) ++
      chunksOf push pop (lin + n) l

/-- The IA of a bank. -/
def bankIA (b : Nat) : Nat := 0x9000000000000 + 2 ^ 24 * (b / 32) + 2 ^ 19 * (b % 32)

/-- The ring of a bank from one of its indexes. -/
def Header.ring (h : Header) (b at_ : Nat) : Ring := { bank := bankIA b, size := h.cap * h.rsize, pos := at_ % h.cap * h.rsize }

/-- `prod` or `cons` moves on by the whole records moved (R380). -/
def State.advance (s : State) (bank : Option (Nat × Nat)) (o moved : Nat) : State :=
  match bank with
  | none => s
  | some (b, rsize) =>
    if moved / rsize = 0 ∨ (s.getBank (b / 32) (b % 32)).mode ≠ 2 then s
    else s.bankStore (b / 32) (b % 32) o (bytesLE 4 (s.bankNat (b / 32) (b % 32) o 4 + moved / rsize))

/-! ## From acceptance to completion -/

/-- A copy moves no more bytes: its buffers' fields advance, and its completion signals follow. -/
def State.finishCopy (s : State) (c : Copy) : State :=
  let m := c.prefixLen
  let s := (s.advance c.pushBank 0 m).advance c.popBank 4 m
  (s.onCopy c.id (fun q => { q with st := .finishing, moved := m })).postOnce (.copyComplete c.id)

/-- A copy starts to move chunks. -/
def State.startChunks (s : State) (c : Copy) (push pop : Option Ring) : State :=
  let l := chunksOf push pop 0 c.segs
  let c := { c with chunks := l, st := CopyState.moving }
  let s := s.onCopy c.id (fun _ => c)
  if l = [] then s.finishCopy c else s.postOnce (.copyClassRound c.stack)

/-- An armed copy begins (R380): its buffer ends are found and their length rules checked. -/
def State.beginCopy (s : State) (c : Copy) : State :=
  let fail (n : Nat) : State := (s.onCopy c.id (fun q => { q with code := BitVec.ofNat 4 n })).finishCopy c
  if c.code ≠ 0 then s.finishCopy c
  else match c.segs with
    | [] => s.startChunks c none none
    | (d, r, _) :: _ =>
      let push := if c.kind = 1 then none else s.bufferEnd d
      let pop := if c.kind = 0 then s.bufferEnd r else none
      let ok (b : Option Nat) : Bool := match b with
        | none => true
        | some b => (s.header (b / 32) (b % 32)).takes c.total
      if push = none ∧ pop = none then s.startChunks c none none
      else if !(ok push && ok pop) then fail 4
      else
        let withSize (b : Option Nat) : Option (Nat × Nat) := b.map (fun b => (b, (s.header (b / 32) (b % 32)).rsize))
        (s.onCopy c.id (fun q => { q with st := .waiting, pushBank := withSize push, popBank := withSize pop })).postOnce
          (.copyBufferReady c.id)

/-- COPY_ACCEPT (R347): an engine accepts a copy, which arms its barrier and begins. -/
def execCopyAccept (copy : Nat) (s : State) : Out :=
  match s.copyAt copy with
  | none => .next s
  | some c =>
    if c.st ≠ .sent ∨ c.arr ≠ 0 then .next s
    else if c.code ≠ 0 then .next (s.finishCopy c)
    else
      let (n, s) := s.fresh
      let c := { c with arr := n }
      let s := ({ s with copies := s.copies.filter (fun q => decide (q.id ≠ copy)) ++ [c] } : State).adoptTag c.tag c.unit
      match c.barrier with
      | some _ => .next (s.postOnce (.barrierArm copy))
      | none => .next ((s.onCopy copy (fun q => { q with armed := true })).beginCopy { c with armed := true })

/-- BARRIER_ARM (R347): the cell of an accepted copy receives its bytes. -/
def execBarrierArm (copy : Nat) (s : State) : Out :=
  match s.copyAt copy with
  | none => .next s
  | some c => match c.barrier with
    | none => .next s
    | some ia =>
      if c.armed ∨ c.arr = 0 then .next s
      else match s.engineCell c.who ia (s.copyTag c) (fun b => b.arm c.total) with
        | (s, false) => .next (s.postOnce (.barrierArm copy))
        | (s, true) => .next ((s.onCopy copy (fun q => { q with armed := true })).beginCopy { c with armed := true })

/-- COPY_BUFFER_READY (R380): a copy with buffer ends waits for room and records, as CBPUSH and CBPOP count them. -/
def execCopyBufferReady (copy : Nat) (s : State) : Out :=
  match s.copyAt copy with
  | none => .next s
  | some c =>
    if c.st ≠ .waiting then .next s
    else if c.code ≠ 0 then .next (s.finishCopy { c with pushBank := none, popBank := none })
    else
      let hd (b : Option (Nat × Nat)) : Option Header := b.map (fun b => s.header (b.1 / 32) (b.1 % 32))
      let isFifo (b : Option (Nat × Nat)) : Bool := match b with
        | none => true
        | some b => decide ((s.getBank (b.1 / 32) (b.1 % 32)).mode = 2) && !(s.getBank (b.1 / 32) (b.1 % 32)).busy
      let room := match c.pushBank, hd c.pushBank with
        | some b, some h => decide (c.total / b.2 ≤ h.free)
        | _, _ => true
      let recs := match c.popBank, hd c.popBank with
        | some b, some h => decide (c.total / b.2 ≤ h.avail)
        | _, _ => true
      if !(isFifo c.pushBank && isFifo c.popBank) then
        .next ((s.onCopy copy (fun q => { q with code := 2, cause := 0x30 })).finishCopy
          { c with pushBank := none, popBank := none })
      else if !(room && recs) then .next (s.postOnce (.copyBufferReady copy))
      else
        let ringOf (b : Option (Nat × Nat)) (at_ : Header → Nat) : Option Ring := match b, hd b with
          | some b, some h => some (h.ring b.1 (at_ h))
          | _, _ => none
        .next (s.startChunks c (ringOf c.pushBank (·.prod)) (ringOf c.popBank (·.cons)))

/-! ## Rounds (R422) -/

/-- A copy may be given a chunk. -/
def Copy.eligible (c : Copy) (k cls : Nat) : Bool :=
  decide (c.st = .moving) && decide (c.stack = k) && decide (c.cls = cls) && decide (c.code = 0) && decide (c.issued < c.chunks.length) &&
    decide (c.inFlight < 16)

/-- The stack whose controller drains a block: that of its frame in stacked memory, else its home (R113, R132). -/
def State.drainStack (s : State) (b : Nat) : Nat :=
  match s.peekLeaf (b * 65536) with
  | some (k, e, size) =>
    let key := keyUnder e size (b * 65536)
    if key < keySecond then key / 2 ^ 36 % 16 else k
  | none => s.sequencer

/-- The drains of a stack (R132): slots whose next block it drains, each with its place in class 3 and the block. -/
def State.drains (s : State) (k : Nat) : List (Nat × Nat × Nat) :=
  [0, 1].filterMap (fun i =>
    let g := s.gens.slot i
    match g.visit with
    | some b => if g.state = 2 ∧ s.drainStack b = k then some (g.arr, i, b) else none
    | none => none)

/-- The chunks of 128 bytes of a drain record (R133). -/
def recordChunks : Nat := 513

/-- One chunk of a drain: with the last of its record, the block is recorded. -/
def State.drainChunk (s : State) (k i b : Nat) : State :=
  let t := s.getStk k
  if recordChunks ≤ t.drained + 1 then
    ((s.setStk k { t with drained := 0 }).setGSlot i { s.gens.slot i with visit := none }).postOnce (.drainVisit i b)
  else s.setStk k { t with drained := t.drained + 1 }

/-- The number that follows `p` in the order of acceptance, or the first one. -/
def nextArr (p : Nat) (l : List Nat) : Option Nat :=
  match (l.filter (fun a => decide (p < a))).min? with
  | some a => some a
  | none => l.min?

/-- Chunks for one class: the pointer runs on over its copies, and in class 3 the drains, in acceptance order. -/
def State.classShare (s : State) (k cls : Nat) : Nat → State
  | 0 => s
  | n + 1 =>
    let t := s.getStk k
    let el := s.copies.filter (fun c => c.eligible k cls)
    let dr := if cls = 3 then s.drains k else []
    match nextArr (sget 0 t.cePtr cls) (el.map (·.arr) ++ dr.map (·.1)) with
    | none => s
    | some a =>
      let s := s.setStk k { t with cePtr := sset 0 t.cePtr cls a }
      State.classShare (match el.find? (fun c => decide (c.arr = a)), dr.find? (fun q => decide (q.1 = a)) with
        | some c, _ => (s.onCopy c.id (fun q => { q with issued := q.issued + 1 })).post (.copyChunkComplete c.id c.issued)
        | none, some (_, i, b) => s.drainChunk k i b
        | none, none => s) k cls n

/-- The weight of a class; 0 acts as 1. -/
def Stack.weight (t : Stack) (cls : Nat) : Nat := max 1 (t.cewgt.toNat / 2 ^ (8 * cls) % 256)

/-- COPY_CLASS_ROUND (R422): one round over the four classes. A stopped copy with nothing in flight is finished. -/
def execCopyClassRound (stack : Nat) (s : State) : Out :=
  let s := (upto 4).foldl (fun t cls => t.classShare stack cls ((t.getStk stack).weight cls)) s
  let ended := s.copies.filter (fun c => decide (c.st = .moving) && decide (c.stack = stack) && decide (c.inFlight = 0) &&
    (decide (c.code ≠ 0) || decide (c.issued = c.chunks.length)))
  let s := ended.foldl (fun t c => t.finishCopy c) s
  .next (if s.copies.any (fun c => decide (c.st = .moving) && decide (c.stack = stack) && decide (c.code = 0) &&
    decide (c.issued < c.chunks.length)) || !(s.drains stack).isEmpty then s.postOnce (.copyClassRound stack) else s)

/-! ## Chunks (R381) -/

/-- The pieces of a chunk are read at their sources. -/
def State.readPieces (s : State) (w : Who) : List CPiece → State × Got (List (List Taken))
  | [] => (s, .ok [])
  | (_, r, n) :: l => match s.engineRead w r n with
    | (s, .hold) => (s, .hold)
    | (s, .fault f) => (s, .fault f)
    | (s, .ok a) => match State.readPieces s w l with
      | (s, .ok b) => (s, .ok (a :: b))
      | q => q

/-- The pieces of a chunk are written at their destinations; poisoned source words are written poisoned. -/
def State.writePieces (s : State) (w : Who) (tag : BitVec 32) : List CPiece → List (List Taken) → State × Got Unit
  | (d, _, _) :: l, a :: b =>
    let bad := ((upto a.length).zip a).filterMap (fun q => q.2.2.map (fun _ => d + q.1))
    match s.engineWrite w d (a.map (·.1)) tag bad with
    | (s, .ok _) => State.writePieces s w tag l b
    | r => r
  | _, _ => (s, .ok ())

/-- A copy with nothing in flight and nothing to issue is finished. With the release flag no signal comes before that (R162). -/
def State.afterChunk (s : State) (id : Nat) : State :=
  match s.copyAt id with
  | none => s
  | some c =>
    let s := if c.barrier.isSome ∧ !c.rel ∧ 4096 ≤ c.prefixLen - c.taken then s.postOnce (.barrierTake id) else s
    if c.inFlight = 0 ∧ (c.code ≠ 0 ∨ c.issued = c.chunks.length) then s.finishCopy c else s

/-- A register of the 0xA window moved (R505): the destination is made ready first, so that a source register is read once. -/
def State.moveDev (s : State) (w : Who) (tag : BitVec 32) (p : CPiece) : State × Got (List (List Taken)) :=
  match s.engineReady w p.1 p.2.2 tag with
  | (s, .fault f) => (s, .fault f)
  | (s, .hold) => (s, .hold)
  | (s, .ok at_) => match s.engineRead w p.2.1 p.2.2 with
    | (t, .fault f) => (t, .fault f)
    | (t, .hold) => (t, .hold)
    | (t, .ok a) =>
      let bad := ((upto a.length).zip a).filterMap (fun q => q.2.2.map (fun _ => p.1 + q.1))
      match t.enginePut w p.1 at_ (a.map (·.1)) tag bad with
      | (t, .ok _) => (t, .ok [a])
      | (t, .fault f) => (t, .fault f)
      | (_, .hold) => (s, .hold)

/-- The pieces of a chunk are moved: read at their sources, then written at their destinations (R381), with the tag that the copy has once
its engine has adopted what it read (R116, R117). -/
def State.movePieces (s : State) (c : Copy) (l : List CPiece) : State × Got (List (List Taken)) :=
  match s.readPieces c.who l with
  | (s, .ok got) => (match s.writePieces c.who (s.copyTag c) l got with
    | (s, .ok _) => (s, .ok got)
    | (s, .fault f) => (s, .fault f)
    | (s, .hold) => ((l.zip got).foldl (fun t q => t.keepRead c.who q.1.2.1 q.2) s, .hold))
  | r => r

/-- The bytes of a chunk are moved. -/
def State.moveChunk (s : State) (c : Copy) (chunk : Nat) : State × Got (List (List Taken)) :=
  match c.chunks.getD chunk [] with
  | [p] => if inDev p.1 || inDev p.2.1 then s.moveDev c.who (s.copyTag c) p else s.movePieces c [p]
  | l => s.movePieces c l

/-- COPY_CHUNK_COMPLETE (R381): one chunk is moved, or meets a fault, after which no further chunk is issued. The registers of a copy with
a side in the 0xA window are moved in ascending order, and none after a failure (R505). -/
def execCopyChunkComplete (copy chunk : Nat) (s : State) : Out :=
  match s.copyAt copy with
  | none => .next s
  | some c =>
    if c.st ≠ .moving ∨ c.issued ≤ chunk ∨ nmem chunk c.done then .next s
    else
      let again (s : State) : Out := .next (s.postOnce (.copyChunkComplete copy chunk))
      let lost (s : State) (f : Flt) : Out :=
        .next ((s.onCopy copy (fun q => { q with failed := q.failed + 1, code := if q.code = 0 then 2 else q.code,
                                                 cause := if q.code = 0 then f.code else q.cause })).afterChunk copy)
      if c.dev && decide (c.code = 2) then lost s { code := c.cause, tval := 0 }
      else if c.dev && (upto chunk).any (fun i => !nmem i c.done) then again s
      else match s.moveChunk c chunk with
      | (s, .hold) => again s
      | (s, .fault f) => lost s f
      | (s, .ok got) =>
        let psn := got.any (fun a => a.any (fun b => b.2.isSome))
        .next ((s.onCopy copy (fun q => { q with done := nins chunk q.done, psn := q.psn || psn })).afterChunk copy)

/-- A copy with `.o` whose earlier copies have completion signals to make (R164). -/
def State.behindCopies (s : State) (c : Copy) : Bool :=
  c.ordered && (s.copies.any (fun q => nmem q.id c.older) ||
    (s.hart :: s.harts).any (fun h => h.held.any (fun q => nmem q.id c.older)) ||
    s.saved.any (fun a => a.ids.any (fun q => nmem q.2 c.older)))

/-- BARRIER_TAKE (R347, R381): completed bytes are taken from the cell, at most 4 KiB at a time. -/
def execBarrierTake (copy : Nat) (s : State) : Out :=
  match s.copyAt copy with
  | none => .next s
  | some c => match c.barrier with
    | none => .next s
    | some ia =>
      let d := min 4096 (c.prefixLen - c.taken)
      if d = 0 ∨ c.sent then .next s
      else if s.behindCopies c then .next (s.postOnce (.barrierTake copy))
      else if c.rel && decide (c.st = .moving) then .next s
      else match s.cmdReleased c.rel c.place c.id with
      | (s, false) => .next (s.postOnce (.barrierTake copy))
      | (s, true) =>
        let tick := s.tick
        match s.engineCell c.who ia (s.copyTag c) (fun b => (b.update 0 d false tick).word) with
        | (s, false) => .next (s.postOnce (.barrierTake copy))
        | (s, true) =>
          let s := s.onCopy copy (fun q => { q with taken := q.taken + d })
          .next (if c.taken + d < c.prefixLen then s.postOnce (.barrierTake copy) else s)

/-! ## Completion (R382) -/

/-- The status word of a copy. -/
def Copy.status (c : Copy) : W64 :=
  BitVec.ofNat 64 (c.code.toNat + 16 * b2n c.psn + 256 * c.cause + 2 ^ 16 * c.moved)

/-- A node ends, once (R416): what it ends with is set, and its completion begins. -/
def State.endNode (s : State) (n : Nat) (f : Node → Node) : State :=
  ({ s with nodes := modList (fun q => decide (q.id = n)) (fun q => if q.phase = 0 then { f q with st := .running, bind := none, phase := 1 } else q) s.nodes } :
    State).postOnce (.nodeComplete n)

/-- A node that runs on an engine completes with its operation (R197, R416): OK, or ENGERR with the engine's code. -/
def State.engineNode (s : State) (node : Option Nat) (code : BitVec 4) : State :=
  match node with
  | none => s
  | some n => s.endNode n (fun q => { q with code := if code = 0 then 0 else 1, ecode := code })

/-- Where a copy's status goes: to the slot of its hart, or to the completion record of its saved context (R216). None: it
must wait. -/
def State.bindCopy (s : State) (c : Copy) : Option State :=
  match c.saved with
  | some ia => match s.engineWrite { c.who with queued := true } (ia + 0x340 + 8 * (32 + c.cnum)) (bytesLE 8 (c.status.toNat + 2 ^ 63)) (s.copyTag c) with
    | (_, .hold) => none
    | (s, _) => some s
  | none => match c.place, c.slot with
    | some p, some k => s.resolve p k c.status
    | _, _ => some s

/-- COPY_COMPLETE (R381, R382): the remainder is taken and the arrival sent; then the status is bound and the number freed. -/
def execCopyComplete (copy : Nat) (s : State) : Out :=
  match s.copyAt copy with
  | none => .next s
  | some c =>
    let again (s : State) : Out := .next (s.postOnce (.copyComplete copy))
    if c.st ≠ .finishing then .next s
    else if !c.sent then
      (if s.behindCopies c then again s
       else match s.cmdReleased c.rel c.place c.id with
       | (s, false) => again s
       | (s, true) => match c.barrier with
        | none => again (s.onCopy copy (fun q => { q with sent := true }))
        | some ia =>
          if c.taken < c.moved then again (s.postOnce (.barrierTake copy))
          else again ((s.onCopy copy (fun q => { q with sent := true })).signal ia (if c.armed then c.total - c.moved else 0)
            (decide (c.code ≠ 0)) c.who (s.copyTag c) copy))
    else if s.signalled copy then again s
    else match s.bindCopy c with
      | none => again s
      | some s =>
        let s : State := { s with copies := s.copies.filter (fun q => decide (q.id ≠ copy)) }.dropParts copy
        .next (match c.place with
          | some p => if c.saved.isSome then s else s.freeCmd p c.cnum
          | none => s.engineNode c.node c.code)

end Sys2Proof.Machine
end

