-- ==== Sys2Proof/Machine/Micro.lean ====
section
/-! DEFINITION. Wick micro-ops (R89, R399 to R404): rows and their check bits, budgets, and the effect of each of the sixteen. -/
namespace Sys2Proof.Machine

/-! ## Invocations -/

def State.invAt (s : State) (id : Nat) : Option Inv := s.invs.find? (fun v => decide (v.id = id))
def State.onInv (s : State) (id : Nat) (f : Inv → Inv) : State := { s with invs := modList (fun v => decide (v.id = id)) f s.invs }

/-- A micro-op's invocation goes on with its next microword. -/
def State.nextMicro (s : State) (id : Nat) : State := s.postAct (.micro id)

/-- The bank of an invocation, as 64 × die + bank. -/
def Inv.bankNo (v : Inv) : Nat := 64 * v.die + v.bank

/-- The key of the first byte of an invocation's page (R83). -/
def Inv.base (v : Inv) : Nat := 2 ^ 32 * v.die + 2 ^ 26 * v.bank + 2 ^ 20 * v.sub

/-- The locks that are only reserved are looked at again, and the die looks for an invocation to start. -/
def State.afterEnd (s : State) (die : Nat) : State :=
  ((s.locks.filter (fun l => decide (l.die = die) && l.live && !l.isHeld)).foldl (fun t l => t.postOnce (.bklockHeld l.id)) s).postOnce
    (.invocationStart die)

/-- An invocation ends (R403): its error, the die's count of budget halts, the tag its response carries (R118), and its command once
all have ended (R391). -/
def State.endInv (s : State) (v : Inv) (ecode row : Nat) : State :=
  let s := s.onInv v.id (fun q => { q with st := .ended, ecode := BitVec.ofNat 4 ecode, errRow := BitVec.ofNat 10 row, cpy := none })
  let d := s.getDie v.die
  let s := s.setDie v.die { d with queue := d.queue.filter (fun i => decide (i ≠ v.id)),
                                   bhalt := if ecode = 2 then satAdd d.bhalt 1 else d.bhalt }
  let s := if s.invs.any (fun q => decide (q.cmd = v.cmd) && decide (q.st ≠ .ended)) then s else s.postOnce (.bkopComplete v.cmd)
  s.afterEnd v.die

/-! ## Rows -/

/-- The data row a specifier names, or none for a compute row (R399). -/
def Inv.row (v : Inv) (s : BitVec 6) : Option Nat :=
  if s.getLsbD 5 then none else some (((v.b[(s.extractLsb' 3 2).toNat]?).getD 0).toNat + (s.extractLsb' 0 3).toNat)

/-- The key of a data row. -/
def Inv.rowKey (v : Inv) (r : Nat) : Nat := v.base + 1024 * r

/-- The 8,192 columns at a row's key: bit k of byte j is column 8j + k (R83). -/
def State.rowAt (s : State) (key : Nat) : Row := BitVec.ofNat 8192 (ofBytesLE ((upFrom key 1024).map s.byteAt))

/-- The words of a row with bad symbols. -/
def State.rowErrors (s : State) (key : Nat) : List Nat :=
  ((upto 32).map (fun i => key + 32 * i)).filter (fun w => decide (sget 0 s.ecc w ≠ 0))

/-- The words of a row that are poisoned. -/
def State.rowPoison (s : State) (key : Nat) : Bool := (upto 32).any (fun i => nmem (key + 32 * i) s.psn)

/-- The contents of a row by its specifier (R88): an error in a stale row passes undetected (R104). -/
def State.readRow (s : State) (v : Inv) (p : BitVec 6) : State × Row :=
  match v.row p with
  | some r =>
    let s := (s.rowErrors (v.rowKey r)).foldl (fun t w => t.corruptWord w Config.rawError) s
    (s, s.rowAt (v.rowKey r))
  | none =>
    let i := (p.extractLsb' 0 3).toNat
    (s, if i < 6 then (v.t[i]?).getD 0 else if i = 6 then 0 else BitVec.allOnes 8192)

/-- Whether the page of an invocation is gen-tracked, with the home of the page (R106). -/
def State.pageLeaf (s : State) (v : Inv) : Nat × Bool :=
  match s.peekLeaf v.ia with
  | some (k, e, _) => (k, pteTracked e)
  | none => (v.die / 16, false)

/-- A data row of a page written whole with a tag (R122), its stale flag set or cleared (R103). -/
def State.putRow (s : State) (home : Nat) (tracked : Bool) (ia key : Nat) (val : Row) (stale : Bool) (tag : BitVec 32) : State :=
  let bytes := bytesLE 1024 val.toNat
  let s := if tracked then
      s.applyTracked (ia / 65536) ((upto 1024).zip (bytes) |>.map (fun e => (ia % 65536 + e.1, key + e.1, e.2))) [] tag none home
    else s.storeKeys ((upFrom key 1024).zip bytes) home ia
  { s with ecc := s.ecc.filter (fun q => decide (q.1 < key) || decide (key + 1024 ≤ q.1))
           stale := if stale then nins (key / 1024) s.stale else nrem (key / 1024) s.stale }

/-- A row written by its specifier; C0 and C1 are read only. -/
def State.writeRowOf (s : State) (v : Inv) (p : BitVec 6) (val : Row) (stale : Bool) : State :=
  match v.row p with
  | some r =>
    let (home, tracked) := s.pageLeaf v
    s.putRow home tracked (v.ia + 1024 * r) (v.rowKey r) val stale v.tag
  | none => s.onInv v.id (fun q => { q with t := q.t.setIfInBounds (p.extractLsb' 0 3).toNat val })

/-! ## What every micro-op goes through -/

/-- A data row of these specifiers lies beyond row 1,023 (R399). -/
def Inv.outOfRange (v : Inv) (ps : List (BitVec 6)) : Bool := ps.any (fun p => match v.row p with | some r => decide (1023 < r) | none => false)

/-- The invocation whose micro-op runs, with the checks before it: its die (R111), an access slot of its bank open or due (R97), its rows (R399), its
budget (R93). -/
def State.microStart (s : State) (cost : Nat) (ps : List (BitVec 6)) : State ⊕ (State × Inv) :=
  match s.invAt s.cur with
  | none => .inl s
  | some v =>
    if v.st ≠ .running then .inl s
    else if s.dieFenced v.die then .inl (s.endInv v 7 0)
    else if s.holdsOps v.bankNo then .inl ((s.nextMicro v.id).postOnce (.accessSlot v.bankNo))
    else if v.outOfRange ps then .inl (s.endInv v 5 0)
    else if 2560 < v.cycles + cost then .inl (s.endInv v 2 0)
    else .inr (s, v)

/-- The syndromes of a source data row that is not stale (R102): clean, or the micro-op is abandoned. -/
def State.syndromes (s : State) (v : Inv) (p : BitVec 6) : Option State :=
  match v.row p with
  | none => none
  | some r =>
    let key := v.rowKey r
    if nmem (key / 1024) s.stale then none
    else if s.rowPoison key then some (s.endInv v 4 r)
    else if s.rowErrors key = [] then none
    else some ((s.onInv v.id (fun q => { q with st := .correcting, errRow := BitVec.ofNat 10 r })).postOnce (.syndromeCorrection v.id))

/-- A micro-op has completed: its cycles count, and the next microword follows. -/
def State.microDone (s : State) (v : Inv) (cost : Nat) (f : Inv → Inv) : State :=
  let d := s.getDie v.die
  let s := s.setDie v.die { d with counts := sset 0 d.counts v.bank (sget 0 d.counts v.bank + cost), energy := d.energy + cost }
  (s.onInv v.id (fun q => f { q with cycles := q.cycles + cost, pc := q.pc + 1 })).nextMicro v.id

/-- A micro-op on a source and a destination row; `stale` says whether a data destination becomes stale. -/
def State.rowOp (s : State) (cost : Nat) (d p : BitVec 6) (f : State → Inv → Row → State) : Out :=
  match s.microStart cost [d, p] with
  | .inl s => .next s
  | .inr (s, v) => match s.syndromes v p with
    | some s => .next s
    | none =>
      let (s, x) := s.readRow v p
      .next ((f s v x).microDone v cost id)

/-- A micro-op that touches no row. -/
def State.ctlOp (s : State) (cost : Nat) (f : Inv → Inv) : Out :=
  match s.microStart cost [] with
  | .inl s => .next s
  | .inr (s, v) => .next (s.microDone v cost f)

/-! ## The micro-ops (R89, R401) -/

/-- WNOP (R401). -/
def execUNop (s : State) : Out := s.ctlOp 1 id

/-- AAP (R401): the check bits of a clean data row are copied with it (R103). -/
def execUAap (d p : BitVec 6) (s : State) : Out :=
  s.rowOp 10 d p (fun s v x =>
    s.writeRowOf v d x (match v.row p with | some r => nmem (v.rowKey r / 1024) s.stale | none => true))

/-- The bitwise majority of three rows. -/
def majority (a b c : Row) : Row := (a &&& b) ||| (a &&& c) ||| (b &&& c)

/-- AP3 (R401): each of three T rows becomes their majority. -/
def execUAp3 (z y x : BitVec 2) (s : State) : Out :=
  match s.microStart 10 [] with
  | .inl s => .next s
  | .inr (s, v) =>
    let t (i : BitVec 2) : Row := (v.t[i.toNat]?).getD 0
    let m := majority (t x) (t y) (t z)
    .next (s.microDone v 10 (fun q => { q with
      t := ((q.t.setIfInBounds x.toNat m).setIfInBounds y.toNat m).setIfInBounds z.toNat m }))

/-- NOT (R401): through a DC row, which holds the source afterwards. -/
def execUNot (d p : BitVec 6) (s : State) : Out :=
  s.rowOp 20 d p (fun s v x => (s.writeRowOf v (notDc d p) x true).writeRowOf v d (~~~x) true)

/-- SHL (R401). -/
def execUShl (d p : BitVec 6) (s : State) : Out := s.rowOp 12 d p (fun s v x => s.writeRowOf v d (x <<< 1) true)
/-- SHR (R401). -/
def execUShr (d p : BitVec 6) (s : State) : Out := s.rowOp 12 d p (fun s v x => s.writeRowOf v d (x >>> 1) true)

/-- A row set to one value. -/
def State.fillRow (s : State) (d : BitVec 6) (x : Row) : Out :=
  match s.microStart 10 [d] with
  | .inl s => .next s
  | .inr (s, v) => .next ((s.writeRowOf v d x true).microDone v 10 id)

/-- ZR (R401). -/
def execUZr (d : BitVec 6) (s : State) : Out := s.fillRow d 0
/-- ON (R401). -/
def execUOn (d : BitVec 6) (s : State) : Out := s.fillRow d (BitVec.allOnes 8192)

/-- ECR (R401, R103). -/
def execUEcr (d : BitVec 6) (s : State) : Out :=
  match s.microStart 12 [d] with
  | .inl s => .next s
  | .inr (s, v) => .next ((match v.row d with | some r => s.ecr (v.rowKey r / 1024) | none => s).microDone v 12 id)

/-- The VF and the page of a subarray's owner tag (R386). -/
def State.ownerOf (s : State) (sub : Nat) : Option (Nat × Nat) :=
  let v := sget 0 s.owners sub
  if v = 0 then none else some ((v - 1) % 128, v / 128)

/-- A bank has received a CPYB write within the last 48 unit-clock cycles (R105). -/
def State.cpyRecent (s : State) (die bank : Nat) : Bool :=
  let d := s.getDie die
  d.cpyAt.any (fun q => decide (q.1 = bank) && decide ((s.tick - q.2).toNat < 192 * (d.div.toNat + 1)))

/-- CPYB (R105, R404): the row and its check bits leave for the same row of another bank of the group. -/
def execUCpyb (n : BitVec 2) (p : BitVec 6) (s : State) : Out :=
  match s.microStart 0 [p] with
  | .inl s => .next s
  | .inr (s, v) =>
    let db := v.bank / 4 * 4 + n.toNat
    let sub := 4096 * v.die + 64 * db + v.sub
    match v.row p with
    | none => .next (s.microDone v 0 id)
    | some r =>
      if db = v.bank then .next (s.endInv v 9 0)
      else if 2560 < v.cycles + 48 then .next (s.endInv v 2 0)
      else match s.syndromes v p with
        | some s => .next s
        | none =>
          let mine := match s.ownerOf sub with | some (f, _) => decide (f = v.vf) | none => false
          if !mine || s.rowLocked (2 ^ 20 * sub + 1024 * r) 1024 v.ctx then .next (s.endInv v 6 0)
          else
            let stale := nmem (v.rowKey r / 1024) s.stale
            let (s, x) := s.readRow v p
            let wait := s.computing (64 * v.die + db) || s.cpyRecent v.die db
            let s := (s.onInv v.id (fun q => { q with st := .cpyWait, cpy := some (2 ^ 20 * sub + 1024 * r, x.toNat, b2n stale), waits := wait })).postOnce
              (.cpybDestWrite v.id)
            .next (if wait then s.postOnce (.budgetExpiry v.id) else s)

/-- The repeats of a LOOP (R402). -/
def Inv.repeats (v : Inv) (e : BitVec 2) (n : BitVec 10) : Nat :=
  if e = 0 then n.toNat else if e = 1 then ((v.p[(n.extractLsb' 0 2).toNat]?).getD 0).toNat
  else if e = 2 then (v.arg.extractLsb' 0 6).toNat else (v.arg.extractLsb' 6 6).toNat

/-- The index after the END that matches a LOOP, from the microword after it. -/
def afterEndOf : Nat → Nat → List Micro → Nat
  | i, _, [] => i
  | i, dp, w :: l =>
    if w.extractLsb' 12 4 = 10 then afterEndOf (i + 1) (dp + 1) l
    else if w.extractLsb' 12 4 = 11 then (if dp = 0 then i + 1 else afterEndOf (i + 1) (dp - 1) l)
    else afterEndOf (i + 1) dp l

/-- LOOP (R402). -/
def execULoop (e : BitVec 2) (n : BitVec 10) (s : State) : Out :=
  s.ctlOp 1 (fun q =>
    let k := q.repeats e n
    if k = 0 then { q with pc := afterEndOf q.pc 0 (q.code.drop q.pc) } else { q with loops := (q.pc, k) :: q.loops })

/-- The base registers after an END's increments (R402). -/
def Inv.bump (v : Inv) (k : BitVec 4) : Vector (BitVec 11) 4 := Vector.ofFn (fun i => v.b[i] + (if k.getLsbD i.val then 1 else 0))

/-- END (R402). -/
def execUEnd (k : BitVec 4) (s : State) : Out :=
  s.ctlOp 1 (fun q =>
    let q := { q with b := q.bump k }
    match q.loops with
    | [] => q
    | (top, n) :: l => if 1 < n then { q with pc := top, loops := (top, n - 1) :: l } else { q with loops := l })

/-- PAR (R401). -/
def execUPar (r m : BitVec 2) (v : BitVec 8) (s : State) : Out :=
  s.ctlOp 1 (fun q =>
    let old := (q.b[r.toNat]?).getD 0
    let new : BitVec 11 :=
      if m = 0 then ((q.p[(v.extractLsb' 0 2).toNat]?).getD 0).setWidth 11
      else if m = 1 then old + v.signExtend 11
      else if m = 2 then v.setWidth 11 else old
    { q with b := q.b.setIfInBounds r.toNat new })

/-- SIG (R401). -/
def execUSig (v : BitVec 12) (s : State) : Out := s.ctlOp 1 (fun q => { q with status := v })

/-- WAIT (R401). -/
def execUWait (k : BitVec 12) (s : State) : Out := s.ctlOp k.toNat id

/-- HALT (R401). -/
def execUHalt (v : BitVec 12) (s : State) : Out :=
  match s.microStart 1 [] with
  | .inl s => .next s
  | .inr (s, q) =>
    let s := s.onInv q.id (fun i => { i with status := v, cycles := i.cycles + 1 })
    .next (s.endInv { q with status := v } 0 0)

end Sys2Proof.Machine
end

