-- ==== Sys2Proof/Machine/EvBank.lean ====
section
/-! DEFINITION. The bank plane between micro-ops: probes (R384), arrival and start of invocations (R94, R106, R118), budgets (R93),
access slots (R97), corrections (R102), CPYB writes (R105), the scrubber (R103), row-locks (R99, R394), handler loads (R91), and
completion (R391, R395). -/
namespace Sys2Proof.Machine

/-! ## Records -/

def State.bcmdAt (s : State) (id : Nat) : Option BankCmd := s.bcmds.find? (fun b => decide (b.id = id))
def State.onBcmd (s : State) (id : Nat) (f : BankCmd → BankCmd) : State :=
  { s with bcmds := modList (fun b => decide (b.id = id)) f s.bcmds }

/-- Who makes the accesses of a bank command. -/
def BankCmd.who (c : BankCmd) : Who := { engineWho (unitCopy (4 * c.stack + c.id % 4)) c.stack .app c.vf c.ctx with cmd := c.id }

/-- What the invocations of a command carry. -/
def BankCmd.by_ (c : BankCmd) : BankBy :=
  { who := { c.who with place := c.place }, id := c.id, cnum := c.cnum, node := c.node, rel := c.rel, tag := c.tag }

/-! ## Probes of a wick node (R384, R419) -/

/-- BANK_PROBE (R384): the next page of a command that no hart issued is probed at its home. -/
def execBankProbe (cmd : Nat) (s : State) : Out :=
  match s.bcmdAt cmd with
  | none => .next s
  | some c => match c.pages[c.probed.length]? with
    | none => .next s
    | some ia =>
      if c.code ≠ 0 ∨ c.invs ≠ [] then .next s
      else match s.probe c.who 0 ia .both with
        | (s, .hold) => .next (s.postOnce (.bankProbe cmd))
        | (s, .fault f) => .next ((s.onBcmd cmd (fun q => { q with code := 2, cause := f.code })).postOnce (.bankProbeAnswer cmd))
        | (s, .ok key) =>
          .next ((s.onBcmd cmd (fun q => { q with probed := q.probed ++ [(ia, BitVec.ofNat 64 key)] })).postOnce (.bankProbeAnswer cmd))

/-- A node ends with a code and a cause (R416). -/
def State.nodeEnds (s : State) (n : Nat) (code cause : Nat) : State :=
  s.endNode n (fun q => { q with code := BitVec.ofNat 4 code, cause := cause })

/-- BANK_PROBE_ANSWER (R384, R419): a fault completes the node with FAULT; the last answer lets the invocations leave. -/
def execBankProbeAnswer (cmd : Nat) (s : State) : Out :=
  match s.bcmdAt cmd with
  | none => .next s
  | some c =>
    if c.invs ≠ [] ∨ c.pages = [] ∨ c.sent then .next s
    else if c.code ≠ 0 then
      let s : State := { s with bcmds := s.bcmds.filter (fun q => decide (q.id ≠ cmd)) }
      .next (match c.node with | some n => s.nodeEnds n 3 c.cause | none => s)
    else if c.probed.length < c.pages.length then .next (s.postOnce (.bankProbe cmd))
    else if s.windowFull (invFrom c.place c.stack) (c.probed.map (fun q => keyDie q.2.toNat)) then .next (s.postOnce (.bankProbeAnswer cmd))
    else
      let (s, ids) := s.sendInvs c.by_ c.msg 0 (c.probed.map (fun q => (q.1, q.2.toNat)))
      .next (s.onBcmd cmd (fun q => { q with total := ids.length, invs := ids }))

/-! ## Arrival (R94, R423) -/

/-- The sender of an invocation to its die: the hart or lamplighter that issued it, and the die. -/
def State.invSender (s : State) (v : Inv) : Nat :=
  match s.bcmdAt v.cmd with
  | some c => (invFrom c.place c.stack * 256 + v.die) * 2
  | none => (8192 * 256 + v.die) * 2

/-- The sender of decrements from one stack to another (R414). -/
def decSender (src dst : Nat) : Nat := (16 * src + dst) * 2 + 1

/-- The stack whose record a sender's replay is kept in (R423). -/
def senderStack (key : Nat) : Nat := if 2 ^ 80 ≤ key then key % 16 else if key % 2 = 0 then stackOf (key / 512) else key / 32

def State.getSender (s : State) (k key : Nat) : Sender := sget {} (s.getStk k).senders key
def State.setSender (s : State) (k key : Nat) (v : Sender) : State :=
  s.setStk k { s.getStk k with senders := sset {} (s.getStk k).senders key v }

/-- INVOCATION_ARRIVAL (R94, R389, R423): the invocation enters its die's queue in its sender's order, or finds the queue full. -/
def execInvocationArrival (inv : Nat) (s : State) : Out :=
  match s.invAt inv with
  | none => .next s
  | some v =>
    let key := s.invSender v
    let k := senderStack key
    if v.st ≠ .sent ∨ (s.getSender k key).waiting then .next s
    else if s.dieFenced v.die then .next (s.endInv v 7 0)
    else if s.invs.any (fun q => decide (q.st = .sent) && decide (q.id < inv) && decide (q.die = v.die) && decide (s.invSender q = key)) then
      .next (s.postOnce (.invocationArrival inv))
    else
      let d := s.getDie v.die
      if 256 ≤ d.queue.length then .next (s.postOnce (.nakReceived key))
      else
        let s := (s.setDie v.die { d with queue := d.queue ++ [inv] }).setSender k key {}
        .next (((s.onInv inv (fun q => { q with st := .queued })).adoptTag v.tag (unitHbm (v.die / 16))).postOnce (.invocationStart v.die))

/-! ## Start (R94, R106, R118, R389) -/

/-- A row copy of the same hart that came first still has to reach the invocation's subarray (R395). -/
def State.behindBkcopy (s : State) (v : Inv) : Bool :=
  match s.bcmdAt v.cmd with
  | none => false
  | some c => s.bcmds.any (fun q => q.copy && decide (q.place = c.place) && decide (q.ctx = v.ctx) && decide (q.id < v.id) &&
      decide (q.code = 0) && decide (q.moved < q.count) && (decide (s.peekKey q.dst = some v.base) || decide (s.peekKey q.src = some v.base)))

/-- A VF computes on as many subarrays of a die as it may (R469). -/
def State.vfFull (s : State) (v : Inv) : Bool :=
  decide (bitsOf (s.getVf v.vf).qos.toNat 32 24 ≤ (s.invs.filter (fun q => decide (q.vf = v.vf) && decide (q.die = v.die) && q.st.active)).length)

/-- An invocation may start (R94, R91, R98, R109, R469). -/
def State.mayStart (s : State) (v : Inv) (older : List Inv) : Bool :=
  let here (q : Inv) : Bool := decide (q.base = v.base)
  !s.invs.any (fun q => here q && q.st.active) && !older.any here && !s.vfFull v && decide (s.activeOn v.die < (s.getDie v.die).allowed) &&
    !s.locks.any (fun l => l.live && decide (l.ctx ≠ v.ctx) && decide (l.die = v.die) && decide (l.bank = v.bank) && decide (l.sub = v.sub)) &&
    !(s.getDie v.die).loading.any (fun q => decide (q.1 = v.h)) && !s.behindBkcopy v

/-- The oldest invocation of a queue that may start. -/
def State.firstStart (s : State) (older : List Inv) : List Inv → Option Inv
  | [] => none
  | v :: l => if s.mayStart v older then some v else State.firstStart s (older ++ [v]) l

/-- The newest last write of the 16 gen-blocks of a page, with the issue tag (R118). -/
def State.pageTag (s : State) (ia : Nat) (tag : BitVec 32) : BitVec 32 :=
  (upFrom (ia / 65536) 16).foldl (fun t b => genMax (BitVec.ofNat 32 (sget 0 s.gens.lasts b)) t) tag

/-- The preservations an invocation needs before its first micro-op (R106). -/
def State.preparePage (s : State) (tag : BitVec 32) : List Nat → State × Bool
  | [] => (s, true)
  | b :: l => match s.prepareBlock b ((upto 64).map (1024 * ·)) tag with
    | (s, true) => State.preparePage s tag l
    | (s, false) => (s, false)

/-- An invocation counts as a write of each gen-block of its page (R106). -/
def State.wrotePage (s : State) (ia : Nat) (tag : BitVec 32) : State :=
  { s with gens := { s.gens with lasts := (upFrom (ia / 65536) 16).foldl (fun m b =>
      sset 0 m b (genMax (BitVec.ofNat 32 (sget 0 m b)) tag).toNat) s.gens.lasts } }

/-- An invocation starts: its slot's micro-ops as loaded now, its compute rows undefined (R88, R389), and the
slot count of a bank that enters compute mode 0 (R486). -/
def State.startInv (s : State) (v : Inv) : State :=
  let (home, tracked) := s.pageLeaf v
  let tag := if tracked then s.pageTag v.ia v.tag else v.tag
  match (if tracked then s.preparePage tag (upFrom (v.ia / 65536) 16) else (s, true)) with
  | (s, false) => s
  | (s, true) =>
    let code := sget [] (s.getDie v.die).slots v.h
    if code = [] then s.endInv v 1 0
    else
      let s := if tracked then s.wrotePage v.ia tag else s
      let s := match s.peekLeaf v.ia with
        | some (k, e, _) => s.setMod k v.ia e
        | none => s
      let d := s.getDie v.die
      let s := (s.setDie v.die { d with queue := d.queue.filter (fun i => decide (i ≠ v.id))
                                        counts := if s.computing v.bankNo then d.counts else sset 0 d.counts v.bank 0 }).adoptTag tag (unitHbm home)
      (s.onInv v.id (fun q => { q with st := .running, tag := tag, code := code, pc := 0,
                                       t := Vector.ofFn (fun i => Config.computeRow v.id i.val) })).nextMicro v.id

/-- INVOCATION_START (R94): the oldest invocation of the die's queue that meets every condition starts; on a fenced die all end. -/
def execInvocationStart (die : Nat) (s : State) : Out :=
  let q := (s.getDie die).queue.filterMap s.invAt
  if s.dieFenced die then .next (q.foldl (fun t v => t.endInv v 7 0) s)
  else
    let s := match s.firstStart [] q with
      | some v => s.startInv v
      | none => s
    .next (if (s.getDie die).queue = [] then s else s.postOnce (.invocationStart die))

/-! ## While invocations run -/

/-- The destination bank of a CPYB, as 64 × die + bank. -/
def Inv.destBank (v : Inv) : Nat := match v.cpy with | some (k, _, _) => k / 2 ^ 26 | none => 0

/-- BUDGET_EXPIRY (R93): the budget runs out while a CPYB waits for its destination bank. -/
def execBudgetExpiry (inv : Nat) (s : State) : Out :=
  match s.invAt inv with
  | none => .next s
  | some v => .next (if v.st = .cpyWait ∧ v.waits then s.endInv v 2 0 else s)

/-- ACCESS_SLOT (R97): once the bank has computed for `slotn` periods, a slot opens for the oldest access that waits. One that has not taken its
slot by the bank's next turn has gone (log 90). -/
def execAccessSlot (bank : Nat) (s : State) : Out :=
  if !s.computing bank then .next s
  else if s.slotOpen bank then .next { s with waits := s.waits.filter (fun q => !(decide (q.bank = bank) && q.ready)) }
  else match s.oldestWait bank with
    | none => .next s
    | some q =>
      if !s.slotCounted bank then .next (s.postOnce (.accessSlot bank))
      else
        let d := s.getDie (bank / 64)
        let s := s.setDie (bank / 64) { d with counts := sset 0 d.counts (bank % 64) 0 }
        .next ({ s with waits := modList (fun e => q.same e) (fun e => { e with served := e.served + 1 }) s.waits }.postOnce (.accessSlot bank))

/-- REFRESH (R100): it changes no row and only adds time. -/
def execRefresh (_bank : Nat) (s : State) : Out := .next s

/-- SYNDROME_CORRECTION (R102, R403): the controller corrects the row, and the micro-op runs again, or the invocation halts. -/
def execSyndromeCorrection (inv : Nat) (s : State) : Out :=
  match s.invAt inv with
  | none => .next s
  | some v =>
    if v.st ≠ .correcting then .next s
    else
      let row := v.errRow.toNat
      let ws := s.rowErrors (v.rowKey row)
      let s := ws.foldl (fun t w => t.decodeWord w true) s
      let n := v.corrections + (ws.filter (fun w => !nmem w s.psn)).length
      let v := { v with corrections := n }
      let s := s.onInv inv (fun q => { q with corrections := n, st := .running })
      .next (if ws.any (fun w => nmem w s.psn) then s.endInv v 4 row
        else if 17 ≤ n then s.endInv v 3 0 else s.nextMicro inv)

/-- CPYB_DEST_WRITE (R98, R105, R404): the row is written at its destination, with what a write needs (R122), and the micro-op ends; a row that another
context has locked meanwhile ends the invocation. -/
def execCpybDestWrite (inv : Nat) (s : State) : Out :=
  match s.invAt inv with
  | none => .next s
  | some v => match v.cpy with
    | none => .next s
    | some (key, val, stale) =>
      if v.st ≠ .cpyWait then .next s
      else if s.rowLocked key 1024 v.ctx then .next (s.endInv v 6 0)
      else
        let again (s : State) : Out :=
          .next (((s.onInv inv (fun q => { q with waits := true })).postOnce (.cpybDestWrite inv)).postOnce (.budgetExpiry inv))
        if s.cpyRecent v.die (v.destBank % 64) then again s else
        let ia := (match s.ownerOf (key / 2 ^ 20) with | some (_, p) => p * 2 ^ 20 | none => 0) + key % 2 ^ 20
        let leaf := s.peekLeaf ia
        let (home, tracked) := match leaf with
          | some (k, e, _) => (k, pteTracked e)
          | none => (key / 2 ^ 36, false)
        match (if tracked then s.prepareBlock (ia / 65536) [ia % 65536] v.tag else (s, true)) with
        | (s, false) => again s
        | (s, true) =>
          let busy := s.computing v.destBank
          let wait := if v.waits || busy then min (Config.cycles s.moves) (2560 - 48 - v.cycles) else 0
          let s := s.putRow home tracked ia key (BitVec.ofNat 8192 val) (decide (stale = 1)) v.tag
          let d := s.getDie v.die
          let s := s.setDie v.die { d with counts := if busy then sset 0 d.counts (v.destBank % 64) 0 else d.counts,
                                           cpyAt := d.cpyAt.filter (fun q => decide (q.1 ≠ v.destBank % 64)) ++ [(v.destBank % 64, s.tick)] }
          let s := match leaf with
            | some (k, e, _) => s.setMod k ia e
            | none => s
          .next (s.microDone v (48 + wait) (fun q => { q with st := .running, cpy := none, waits := false }))

/-- SCRUBBER_VISIT (R103, R46): a stale row gets its check bits and each word is decoded, as by a normal access; the frame's count of
corrections starts anew after its last row. A row is named by its address divided by 1,024. -/
def execScrubberVisit (row : Nat) (s : State) : Out :=
  let key := 1024 * row
  if keySecond ≤ key ∨ s.dieFenced (keyDie key) then .next s
  else match s.turnTaken { unit := 2 ^ 40, cmd := 0, key := key, len := 1024, ctx := 2 ^ 40 } with
    | (s, false) => .next (s.postOnce (.scrubberVisit row))
    | (s, true) =>
      let s := s.touch (upFrom key 1024)
      let k := key / 2 ^ 36
      .next (if row % 64 = 63 then s.setStk k { s.getStk k with corrFrames := sset 0 (s.getStk k).corrFrames (row / 64) 0 } else s)

/-! ## Row-locks -/

/-- The longest hold of a row-lock (R107). -/
def Die.lockTicks (d : Die) : Nat := max 1000 (min 1000000 d.lkmax.toNat)

/-- ROW_LOCK_EXPIRY (R99). -/
def execRowLockExpiry (lock : Nat) (s : State) : Out :=
  match s.locks.find? (fun l => decide (l.id = lock)) with
  | none => .next s
  | some l =>
    let d := s.getDie l.die
    if !l.isHeld then .next s
    else if s.tick.toNat < l.since.toNat + d.lockTicks then .next (s.postOnce (.rowLockExpiry lock))
    else
      .next (((s.setDie l.die { d with lkexp := satAdd d.lkexp 1 }).onLock lock (fun q => { q with isHeld := false, expired := true })).postOnce
        (.invocationStart l.die))

/-- BKLOCK_HELD (R394): a reserved lock is held once no invocation of another context runs on its page. -/
def execBklockHeld (lock : Nat) (s : State) : Out :=
  match s.locks.find? (fun l => decide (l.id = lock)) with
  | none => .next s
  | some l =>
    if l.isHeld ∨ l.expired then .next s
    else .next (if s.lockBlocked l then s.postOnce (.bklockHeld lock) else s.holdLock lock)

/-! ## Registers of a die -/

/-- BPCTL_WRITE (R107, R108). -/
def execBpctlWrite (die : Nat) (val : W64) (s : State) : Out := .next ((s.bankRegPut die 0 val).postOnce (.invocationStart die))

/-- The cycles of row operations that the bank-compute cap allows the package in 10 µs: 320 W are 7.5 × 10¹¹ row operations of 10 cycles a
second (R110). -/
def State.capCycles (s : State) : Nat := 234375 * s.plat.capBank.toNat

/-- ENERGY_TELEMETRY_TICK (R110): the firmware reads the die's energy and sets its divider, to keep the package within the cap: a higher one, if there
is one, while the last interval of all dies was above it. By what rule it sets it otherwise the spec leaves open (log 17). -/
def execEnergyTelemetryTick (die : Nat) (s : State) : Out :=
  let d := s.getDie die
  let s := s.setDie die { d with lastEnergy := d.energy, energy := 0 }
  let total := ((upto 256).map (fun e => (s.getDie e).lastEnergy)).sum
  let free := Config.divider die total
  let div := if s.capCycles < total then BitVec.ofNat 3 (min 7 (max (d.div.toNat + 1) free.toNat)) else free
  .next ((s.setDie die { s.getDie die with div := div }).postOnce (.invocationStart die))

/-! ## Handler loads (R91, R396) -/

/-- A die that has finished the load of a hart; the last one ends the hart's wait. -/
def Hart.loadDone (die slot place : Nat) (h : Hart) : Hart :=
  match h.wait with
  | some (.wickload rd code sl dies) =>
    if sl ≠ slot ∨ h.place ≠ place then h
    else
      let left := dies.filter (fun d => decide (d ≠ die))
      if left ≠ [] then { h with wait := some (.wickload rd code sl left) }
      else { (h.wx rd (.known code)) with wait := none, pc := h.pc + 4, instret := h.instret + 1 }
  | _ => h

/-- WICKLOAD_DIE_LOAD (R91): the oldest load of the slot waits until no invocation of the slot runs on the die. -/
def execWickloadDieLoad (die slot : Nat) (s : State) : Out :=
  let d := s.getDie die
  match d.loading.find? (fun q => decide (q.1 = slot)) with
  | none => .next s
  | some (_, place, code) =>
    if s.invs.any (fun v => decide (v.die = die) && decide (v.h = slot) && v.st.active) then .next (s.postOnce (.wickloadDieLoad die slot))
    else
      let left := d.loading.eraseIdx (d.loading.findIdx (fun q => decide (q.1 = slot)))
      let s := s.setDie die { d with slots := sset [] d.slots slot code, loading := left }
      let s : State := { s with hart := s.hart.loadDone die slot place, harts := s.harts.map (Hart.loadDone die slot place) }
      let s := if left.any (fun q => decide (q.1 = slot)) then s.postOnce (.wickloadDieLoad die slot) else s
      .next (s.postOnce (.invocationStart die))

/-! ## Completion (R391, R395) -/

/-- The bank status word (R391). -/
def bankStatus (code op cause nerr first ecode row sval : Nat) : W64 :=
  BitVec.ofNat 64 (code + 16 * op + 256 * cause + 2 ^ 16 * min nerr 255 + 2 ^ 24 * first + 2 ^ 32 * ecode + 2 ^ 36 * row + 2 ^ 46 * sval)

/-- The status of a BKOP from its invocations, in the order of their index. -/
def State.bkopStatus (s : State) (c : BankCmd) : W64 :=
  if c.code ≠ 0 then bankStatus c.code.toNat 0 c.cause 0 0 0 0 0
  else
    let vs := s.invs.filter (fun v => decide (v.cmd = c.id))
    let errs := vs.filter (fun v => decide (v.ecode ≠ 0))
    match errs with
    | [] => bankStatus 0 0 0 0 0 0 0 (((vs.find? (fun v => decide (v.idx = 0))).map (fun v => v.status.toNat)).getD 0)
    | e :: _ =>
      let reset := errs.any (fun v => decide (v.ecode = 8))
      let sv := if reset then ((vs.find? (fun v => decide (v.idx = 0))).map (fun v => v.status.toNat)).getD 0 else e.status.toNat
      bankStatus (if reset then 5 else 1) 0 0 errs.length e.idx e.ecode.toNat (if e.ecode = 4 then e.errRow.toNat else 0) sv

/-- The status word is written into the slot of the command's cell and its arrival is sent (R391, R347), behind the release that the command
carries (R162). A write that faults is dropped and logged with the cell's IA (R348). False: it must wait. -/
def State.bankArrives (s : State) (c : BankCmd) (w : W64) (tag : BitVec 32) : State × Bool :=
  let told (s : State) : State := (s.dropParts c.id).onBcmd c.id (fun q => { q with word := w, sent := true })
  match s.cmdReleased c.rel c.place c.id with
  | (s, false) => (s, false)
  | (s, true) => match c.barrier with
    | none => (told s, true)
    | some ia => match s.engineWrite c.who (ia + 16) (bytesLE 8 w.toNat) tag with
      | (s, .hold) => (s, false)
      | (s, .fault _) => ((told (s.logEvent c.stack 6 0 0 ia)).signal ia 0 (decide (w.toNat % 16 ≠ 0)) c.who tag c.id, true)
      | (s, .ok _) => ((told s).signal ia 0 (decide (w.toNat % 16 ≠ 0)) c.who tag c.id, true)

/-- A bank command has made its arrival: its number is free, or its node completes. -/
def State.bankEnds (s : State) (c : BankCmd) : State :=
  let s : State := { s with bcmds := s.bcmds.filter (fun q => decide (q.id ≠ c.id)), invs := s.invs.filter (fun v => decide (v.cmd ≠ c.id)) }
  match c.place with
  | some p => s.freeCmd p c.cnum
  | none => s.engineNode c.node (c.word.extractLsb' 0 4)

/-- BKOP_COMPLETE (R391). Its responses carry the newest tag of its invocations (R118). -/
def execBkopComplete (cmd : Nat) (s : State) : Out :=
  match s.bcmdAt cmd with
  | none => .next s
  | some c =>
    if c.copy then .next s
    else if c.sent then .next (if s.signalled cmd then s.postOnce (.bkopComplete cmd) else s.bankEnds c)
    else if c.code = 0 ∧ (c.invs = [] ∨ s.invs.any (fun v => decide (v.cmd = cmd) && decide (v.st ≠ .ended))) then .next s
    else
      let tag := (s.invs.filter (fun v => decide (v.cmd = cmd))).foldl (fun t v => genMax t v.tag) c.tag
      match s.bankArrives c (s.bkopStatus c) tag with
      | (s, false) => .next (s.postOnce (.bkopComplete cmd))
      | (s, true) =>
        let s := match c.place with | some p => s.adoptTag tag p | none => s
        .next (s.postOnce (.bkopComplete cmd))

/-- An invocation that the same hart sent earlier to one of a row copy's subarrays has not ended (R395). -/
def State.behindInvs (s : State) (c : BankCmd) : Bool :=
  s.invs.any (fun v => decide (v.id < c.id) && decide (v.st ≠ .ended) && decide (v.ctx = c.ctx) &&
    decide (((s.bcmdAt v.cmd).bind (·.place)) = c.place) && (decide (s.peekKey c.dst = some v.base) || decide (s.peekKey c.src = some v.base)))

/-- One row of a BKCOPY: a normal read at the source, a normal write at the destination (R395). -/
def State.bkcopyRow (s : State) (c : BankCmd) : State :=
  let again (s : State) : State := s.postOnce (.bkcopyComplete c.id)
  let lost (s : State) (cause : Nat) : State := again (s.onBcmd c.id (fun q => { q with code := 2, cause := cause }))
  match s.engineRead c.who (c.src + 1024 * (c.row + c.moved)) 1024 with
  | (s, .hold) => again s
  | (s, .fault f) => lost s f.code
  | (s, .ok l) =>
    if l.any (fun b => b.2.isSome) then lost s 0x40
    else match s.engineWrite c.who (c.dst + 1024 * (c.drow + c.moved)) (l.map (·.1)) (genMax c.tag (s.unitGen c.who.unit)) with
      | (s, .hold) => again (s.keepRead c.who (c.src + 1024 * (c.row + c.moved)) l)
      | (s, .fault f) => lost s f.code
      | (s, .ok _) => again (s.onBcmd c.id (fun q => { q with moved := q.moved + 1 }))

/-- BKCOPY_COMPLETE (R395, R391): the rows in ascending order, then the completion. -/
def execBkcopyComplete (cmd : Nat) (s : State) : Out :=
  match s.bcmdAt cmd with
  | none => .next s
  | some c =>
    if !c.copy then .next s
    else if c.sent then .next (if s.signalled cmd then s.postOnce (.bkcopyComplete cmd) else s.bankEnds c)
    else if c.code = 0 ∧ c.moved < c.count then
      .next (if s.behindInvs c then s.postOnce (.bkcopyComplete cmd) else s.bkcopyRow c)
    else
      let w := bankStatus c.code.toNat 4 c.cause 0 0 0 (if c.code = 2 then c.row + c.moved else 0) 0
      match s.bankArrives c w (genMax c.tag (s.unitGen c.who.unit)) with
      | (s, _) => .next (s.postOnce (.bkcopyComplete cmd))

end Sys2Proof.Machine
end

