-- ==== Sys2Proof/Machine/MatMath.lean ====
section
/-! DEFINITION. The arithmetic of the Lantern bays: exact totals and accumulation (R235 to R241), checksums (R372) and their
verification (R373). -/
namespace Sys2Proof.Machine

/-! ## Exact totals (R238, R239) -/

/-- The sum of finite values at their least exponent. -/
def exactTotal (l : List FV) : Int × Int :=
  let e0 := l.foldl (fun (m : Int) v => match v with | .fin _ k e => if k = 0 then m else min m e | _ => m) 0
  (l.foldl (fun (a : Int) v => match v with | .fin n k e => if k = 0 then a else a + scaled n k e e0 | _ => a) 0, e0)

/-- The exact total of values: NaN with a NaN or infinities of both signs, an infinity, or the exact sum; a zero sum is −0 where
every addend is negative (R228). Infinities of both signs set `nv`, beside a NaN too (R239). -/
def FV.total (l : List FV) : FV × Nat :=
  let pos := l.any (fun v => decide (v = .inf false))
  let neg := l.any (fun v => decide (v = .inf true))
  if pos && neg then (.nan false, fNv)
  else if l.any FV.isNan then (.nan false, 0)
  else if pos || neg then (.inf neg, 0)
  else
    let (v, e) := exactTotal l
    (.fin (if v = 0 then l.all (fun x => match x with | .fin n _ _ => n | _ => false) else decide (v < 0)) v.natAbs e, 0)

/-- Flags of several results. -/
def orFlags (l : List Nat) : Nat := l.foldl (· ||| ·) 0

/-- An operand of a matrix operation: the value of an element, with its flags (R237), and of a block's scale exponent, none for
a NaN scale; unscaled operands have exponent 0. -/
structure Operand where
  el : Nat → Nat → FV × Nat
  sc : Nat → Nat → Option Int

/-- The total of a group of products A[m][k] × B[k][n], scaled (R238, R239). -/
def groupTotal (a b : Operand) (m n g j : Nat) : FV × Nat :=
  let ks := upFrom (g * j) g
  let ps := ks.map (fun k => product (a.el m k).1 (b.el k n).1)
  let (t, fl) := FV.total (ps.map (·.1))
  let fl := orFlags (fl :: ps.map (·.2) ++ ks.map (fun k => (a.el m k).2 ||| (b.el k n).2))
  match a.sc m (g * j / 32), b.sc (g * j / 32) n with
  | some x, some y => (t.scale (x + y), fl)
  | _, _ => (.nan false, fl)

/-- A total added to an FP32 accumulator with one rounding (R238), with the overflow of R235 and, in SAT mode, the accumulator
that stays at its maximum (R239); a zero total, which overflows nothing, leaves it there without a flag (log 94). -/
def accumulate (ieee : Bool) (acc : Nat) (t : FV) : Nat × Nat :=
  match t with
  | .fin n m _ =>
    if !ieee && decide (m ≠ 0) && decide (acc = (if n then fp32.sign else 0) + fp32.maxCode) then (acc, fOf + fNx)
    else fp32.sum 0 (!ieee) (fp32.decode acc) t
  | t => fp32.sum 0 (!ieee) (fp32.decode acc) t

/-- One element of an MMA over `k` columns in groups of `g` (R238). -/
def mmaElement (a b : Operand) (ieee : Bool) (m n g k acc : Nat) : Nat × Nat :=
  (upto (k / g)).foldl (fun (q : Nat × Nat) j =>
    let (t, f1) := groupTotal a b m n g j
    let (c, f2) := accumulate ieee q.1 t
    (c, q.2 ||| f1 ||| f2)) (acc, 0)

/-! ## Checksums (R372) -/

/-- The scaled product A[m][k] × B[k][n]. -/
def scaledProduct (a b : Operand) (m n k : Nat) : FV :=
  match a.sc m (k / 32), b.sc (k / 32) n with
  | some x, some y => (product (a.el m k).1 (b.el k n).1).1.scale (x + y)
  | _, _ => .nan false

/-- An FP32 code: an exact total rounded RNE. -/
def roundTotal (l : List FV) : Nat := (fp32.put 0 false (FV.total l).1).1

/-- A prediction after an MMA whose own terms are `l` (R372). -/
def predict (p : Nat) (l : List FV) : Nat := (fp32.sum 0 false (fp32.decode p) (FV.total l).1).1

/-! ## Verification (R373) -/

/-- An exact number: value × 2^exponent. -/
abbrev Exact := Int × Int

def exactOf (c : Nat) : Exact :=
  match fp32.decode c with
  | .fin n m e => (if n then -m else m, e)
  | _ => (0, 0)

def exactAdd (a b : Exact) : Exact :=
  let e := min a.2 b.2
  (a.1 * 2 ^ (a.2 - e).toNat + b.1 * 2 ^ (b.2 - e).toNat, e)

def exactNeg (a : Exact) : Exact := (-a.1, a.2)
def exactAbs (a : Exact) : Exact := (a.1.natAbs, a.2)
def exactLt (a b : Exact) : Bool := decide ((exactAdd a (exactNeg b)).1 < 0)

/-- A code is finite. -/
def fpFinite (c : Nat) : Bool := match fp32.decode c with | .fin _ _ _ => true | _ => false

/-- t × ulp(x) for a code x that is no NaN (R373). -/
def tolerance (t x : Nat) : Exact :=
  match fp32.decode x with
  | .fin _ m e => if m = 0 then (t, -149) else (t, max (Nat.log2 m + e) (-126) - 23)
  | _ => (t, 104)

/-- A line of the tile: its sum, its sum of magnitudes and its prediction. -/
structure SumLine where
  s : Nat
  q : Nat
  p : Nat
  deriving DecidableEq, Repr

/-- A line whose sum or prediction is not finite, and differs. -/
def SumLine.odd (l : SumLine) : Bool := !(fpFinite l.s && fpFinite l.p) && decide (l.s ≠ l.p)
def SumLine.diff (l : SumLine) : Exact := exactAdd (exactOf l.s) (exactNeg (exactOf l.p))
/-- A finite mismatch. -/
def SumLine.off (t : Nat) (l : SumLine) : Bool :=
  fpFinite l.s && fpFinite l.p && exactLt (tolerance t l.q) (exactAbs l.diff)
def SumLine.bad (t : Nat) (l : SumLine) : Bool := l.odd || l.off t

/-- The sum line of the FP32 codes `l` with prediction `p`. -/
def sumLine (l : List Nat) (p : Nat) : SumLine :=
  { s := roundTotal (l.map fp32.decode), q := roundTotal (l.map (fun c => fp32.decode (c % 2 ^ 31))), p := p }

/-- What MVER finds (R373): its code (0 OK, 1 CORRECTED, 2 FAIL), the mismatching rows and columns, and the element it locates
with its corrected value. -/
structure Verdict where
  code : Nat
  rows : Nat
  cols : Nat
  m : Nat
  n : Nat
  val : Nat
  deriving DecidableEq, Repr

/-- The verification of a tile of `tm` × `tn` elements with tolerance `t`. -/
def verify (el : Nat → Nat → Nat) (pr pc : Nat → Nat) (tm tn t : Nat) : Verdict :=
  let row (m : Nat) : SumLine := sumLine ((upto tn).map (el m)) (pr m)
  let col (n : Nat) : SumLine := sumLine ((upto tm).map (fun m => el m n)) (pc n)
  let rs := (upto tm).filter (fun m => (row m).bad t)
  let cs := (upto tn).filter (fun n => (col n).bad t)
  let v : Verdict := { code := 2, rows := rs.length, cols := cs.length, m := 0, n := 0, val := 0 }
  match rs, cs with
  | [], [] => { v with code := 0 }
  | [m], [n] =>
    let r := row m
    let c := col n
    if r.off t && c.off t &&
        !exactLt (exactAdd (tolerance t r.q) (tolerance t c.q)) (exactAbs (exactAdd r.diff (exactNeg c.diff))) then
      let d := exactNeg r.diff
      let x := fp32.decode (el m n)
      { v with code := 1, m := m, n := n, val := (fp32.sum 0 false x (.fin (decide (d.1 < 0)) d.1.natAbs d.2)).1 }
    else { v with m := m, n := n }
  | _, _ => v

end Sys2Proof.Machine
end

