-- ==== Sys2Proof/Machine/Vector.lean ====
section
/-! DEFINITION. What every vector instruction does around its own effect: register groups (R201, R310), what makes it illegal
(R312), blocking sources (R313), the element loop (R308), poisoned elements (R446), shadow execution (R332 to R335), flags
(R314), shape tags (R202, R309) and composition over symbols (R313). -/
namespace Sys2Proof.Machine

/-! ## Types and groups -/

/-- SEW in bits. -/
def Hart.sew (h : Hart) : Nat := sewBits h.vsew

/-- Eight times the group multiplier of a `vlmul` code (R208). -/
def lmul8 (c : BitVec 3) : Nat := if c.toNat ≤ 3 then 2 ^ (c.toNat + 3) else if c.toNat ≤ 4 then 0 else 2 ^ (c.toNat - 5)

/-- Eight times LMUL. -/
def Hart.lm8 (h : Hart) : Nat := lmul8 h.vlmul

/-- Eight times the EMUL of an operand of element width `w` whose element count is that of SEW at LMUL (R310). -/
def Hart.em8 (h : Hart) (w : Nat) : Nat := h.lm8 * w / h.sew

/-- VLMAX (R208). -/
def Hart.vlmax (h : Hart) : Nat := h.vgrant * h.lm8 / (8 * h.sew)

/-- Registers of a group. -/
def groupLen (e8 : Nat) : Nat := max 1 (e8 / 8)
def groupRegs (r : Reg) (e8 : Nat) : List Nat := upFrom r.toNat (groupLen e8)

/-- A group's EMUL is legal and its register aligned (R310). -/
def groupOk (r : Reg) (e8 : Nat) : Bool := decide (1 ≤ e8) && decide (e8 ≤ 64) && decide (r.toNat % groupLen e8 = 0)

/-- Two groups share a register (R311). -/
def groupsMeet (a : Reg) (ea : Nat) (b : Reg) (eb : Nat) : Bool :=
  decide (a.toNat < b.toNat + groupLen eb) && decide (b.toNat < a.toNat + groupLen ea)

/-- An element width that a register may have (R208). -/
def widthOk (w : Nat) : Bool := decide (2 ≤ w) && decide (w ≤ 64)

/-! ## Elements -/

def Hart.vreg (h : Hart) (r : Nat) : VReg := (h.v[r]?).getD {}

/-- Element `i` of the group at register `r`, at width `w` (R201). -/
def Hart.vel (h : Hart) (r w i : Nat) : Nat :=
  ((h.vreg (r + w * i / h.vgrant)).data.extractLsb' (w * i % h.vgrant) w).toNat

/-- An element holds poison (R445); a packed FP6 element may reach into the next register (R323). -/
def Hart.velPsn (h : Hart) (r w i : Nat) : Bool :=
  let k := r + w * i / h.vgrant
  let p := w * i % h.vgrant
  decide ((h.vreg k).psn.extractLsb' p (min w (h.vgrant - p)) ≠ 0) ||
    (decide (h.vgrant < p + w) && decide ((h.vreg (k + 1)).psn.extractLsb' 0 (p + w - h.vgrant) ≠ 0))

/-- The mask of `w` bits from bit `p` of a register. -/
def bitField (w p : Nat) : BitVec 4096 := (BitVec.ofNat 4096 (2 ^ w - 1)) <<< p

/-- An element written: any write clears its poison (R445). -/
def Hart.putEl (h : Hart) (r w i v : Nat) : Hart :=
  let k := r + w * i / h.vgrant
  let p := w * i % h.vgrant
  let q := h.vreg k
  let q : VReg := { q with data := mergeMask q.data (BitVec.ofNat 4096 v <<< p) (bitField w p), psn := q.psn &&& ~~~(bitField w p) }
  { h with v := h.v.setIfInBounds k q }

/-- An element poisoned (R445). -/
def Hart.poisonEl (h : Hart) (r w i : Nat) : Hart :=
  let k := r + w * i / h.vgrant
  let q := h.vreg k
  let q : VReg := { q with psn := q.psn ||| bitField w (w * i % h.vgrant) }
  { h with v := h.v.setIfInBounds k q }

/-- Tag G: the register holds its elements, and no compact state (R201). -/
def VReg.asG (q : VReg) : VReg := { q with tag := .G, vsew := 0, base := 0, stride := 0, sy := none, sypsn := none }

def Hart.onRegs (h : Hart) (rs : List Nat) (f : VReg → VReg) : Hart :=
  rs.foldl (fun h r => { h with v := h.v.setIfInBounds r (f (h.vreg r)) }) h

/-- Elements written into a group, which takes tag G (R309). -/
def Hart.putEls (h : Hart) (r : Reg) (w e8 : Nat) (l : List (Nat × Nat)) : Hart :=
  if l = [] then h
  else l.foldl (fun h e => h.putEl r.toNat w e.1 e.2) (h.onRegs (groupRegs r e8) VReg.asG)

/-- Elements poisoned in a group, which takes tag G. -/
def Hart.poisonEls (h : Hart) (r : Reg) (w e8 : Nat) (l : List Nat) : Hart :=
  if l = [] then h
  else l.foldl (fun h i => h.poisonEl r.toNat w i) (h.onRegs (groupRegs r e8) VReg.asG)

/-! ## Masks (R204) -/

def Hart.mreg (h : Hart) (m : Nat) : BitVec 16384 := (h.m[m]?).getD 0

/-- Bit `i` of a mask register as a source; `m0` reads all ones. -/
def Hart.mbit (h : Hart) (m i : Nat) : Bool := decide (m = 0) || (h.mreg m).getLsbD i

/-- Element `i` is active (R308). -/
def Hart.active (h : Hart) (vm : BitVec 3) (i : Nat) : Bool := h.mbit vm.toNat i

/-- A mask register with bits written. -/
def setBits (m : BitVec 16384) (l : List (Nat × Nat)) : BitVec 16384 :=
  l.foldl (fun m e => if e.2 = 0 then m &&& ~~~(1#16384 <<< e.1) else m ||| (1#16384 <<< e.1)) m

/-- Bits of a mask register written. -/
def Hart.putBits (h : Hart) (m : Nat) (l : List (Nat × Nat)) : Hart :=
  { h with m := h.m.setIfInBounds m (setBits (h.mreg m) l) }

/-- The active elements from `vstart` to `vl` − 1 (R308). -/
def Hart.actives (h : Hart) (vm : BitVec 3) : List Nat :=
  (upFrom h.vstart.toNat (h.vl - h.vstart.toNat)).filter (h.active vm)

/-- The active elements from 0, whatever `vstart` is. -/
def Hart.actives0 (h : Hart) (vm : BitVec 3) : List Nat := (upto h.vl).filter (h.active vm)

/-- The conditions of R202 but for the multiplier: the group is written whole. -/
def Hart.whole (h : Hart) (vm : BitVec 3) : Bool :=
  decide (h.vstart = 0) && decide (vm = 0) && decide (h.vl = h.vlmax) && decide (8 ≤ h.lm8)

/-! ## Sources that are not ready (R184, R189, R313) -/

/-- A register whose late load data has not arrived (R340). -/
def Hart.loading (h : Hart) (r : Nat) : Bool :=
  h.vq.any (fun e => e.load && e.elems.any (fun x => decide (e.vd + e.sew * x.idx / h.vgrant = r)))

/-- What stands in the way of reading a register. -/
def VReg.state (q : VReg) : XVal :=
  if q.unk then .unknown
  else match q.sy, q.sypsn with
    | some (s, a), _ => .form s a q.base
    | none, some (s, c, va) => .poisoned s c va
    | none, none => .known q.base

/-- A destination blocks while it is flagged; one over a poisoned symbol only where it is not written whole (R313). -/
def VReg.dstState (whole : Bool) (q : VReg) : XVal :=
  match q.sy, q.sypsn with
  | some (s, a), _ => .form s a q.base
  | none, some (s, c, va) => if whole then .known 0 else .poisoned s c va
  | none, none => if q.unk && !whole then .unknown else .known 0

/-- A vector instruction that cannot execute yet takes its place in the vector queue with the operands it captures, and the scalar stream
goes on (R183, R185, R189); a scalar destination waits for it (R184). In run-ahead, where the queue is empty, it stays where it is. -/
def State.vdefer (s : State) (xd : Option Reg) : Out :=
  if s.inAhead then s.stall
  else
    let (id, s) := s.fresh
    let l : Late := { id := id, place := s.hart.place, word := s.hart.iw, ck := s.hart }
    let s : State := { s with lates := s.lates ++ [l] }
    let e : VQEntry := { load := true, vd := 0, sew := 8, bytes := 1, scope := 0, elems := [], free := false, strict := true, tp := true,
                         late := some id }
    let s := s.upd (fun h => { h with vq := h.vq ++ [e] })
    match xd with
    | some rd => s.doneX rd (.late id)
    | none => .next s.retire

/-- What every vector instruction goes through once it is legal: a place in the queue (R183), behind instructions that wait there and
late loads, parity (R451), unknown values (R39) and blocking uses, for which it waits in the queue (R189). `cu` names the CSRs it reads, as
the bits of `cUnk`; `xd` is its scalar destination. -/
def State.vready (s : State) (sc : Sc) (xs : List Reg) (vs ds ms : List Nat) (cu : BitVec 3) (whole : Bool) (xd : Option Reg := none) :
    Flow Unit :=
  match s.preface sc false with
  | some o => .out o
  | none =>
    let h := s.hart
    if 16 ≤ h.vq.length then .out s.stall
    else if s.isLate ∨ (vs ++ ds).any h.loading then .out (s.vdefer xd)
    else match s.badReg xs with
      | some r => .out (s.parity r)
      | none =>
        let all := xs.map h.rx ++ vs.map (fun r => (h.vreg r).state) ++ ds.map (fun r => (h.vreg r).dstState whole)
        if all.any (fun x => decide (x = .unknown)) || ms.any (fun m => h.mUnk.getLsbD m) || decide (h.cUnk &&& cu ≠ 0) then .skip s
        else if all.all XVal.isKnown then .go (s.acquireOn xs) ()
        else .out (if s.inAhead || (all.findSome? s.poisonOf).isSome then s.block all else s.vdefer xd)

/-- An instruction of majors 0x20 to 0x2F or 0x30 to 0x37 that breaks a rule of execution is illegal (R312, R342), once the drain of `sc` 11
before it is over (R245). In run-ahead an unknown type decides nothing. -/
def State.vlegal (s : State) (sc : Sc) (ok : Bool) (k : Out) : Out :=
  match s.preface sc false with
  | some o => o
  | none => if !s.hart.cUnk.getLsbD 0 && (s.hart.vill || !ok) then s.illegal else k

/-- The mask registers a mask field reads. -/
def maskOf (vm : BitVec 3) : List Nat := if vm = 0 then [] else [vm.toNat]

/-- A destination group left unknown (R39). -/
def Hart.unkGroup (h : Hart) (r : Reg) (e8 : Nat) : Hart := h.onRegs (groupRegs r e8) (fun q => { q with unk := true })

/-- A mask register left unknown. -/
def Hart.unkMask (h : Hart) (m : Nat) : Hart := { h with mUnk := h.mUnk ||| (1#8 <<< m) }

/-- A mask register written whole is known again. -/
def Hart.knownMask (h : Hart) (m : Nat) (whole : Bool) : Hart := if whole then { h with mUnk := h.mUnk &&& ~~~(1#8 <<< m) } else h

/-! ## The element loop -/

/-- Where an instruction stops: an element that reads poison, with the register and element it read; an element group whose
results never agreed. -/
inductive VStop where
  | poison (i r e : Nat)
  | shadow (i g : Nat)
  deriving DecidableEq, Repr

/-- What the loop comes to: the elements committed in order, their flags, the value carried on, and where it stopped. -/
structure VRes where
  writes : List (Nat × Nat)
  fl : Nat
  carry : Nat
  stop : Option VStop
  deriving DecidableEq, Repr

/-- The first poisoned element of those read. -/
def Hart.readsPoison (h : Hart) (l : List (Nat × Nat × Nat)) : Option (Nat × Nat) :=
  (l.find? (fun e => h.velPsn e.1 e.2.1 e.2.2)).map (fun e => (e.1, e.2.2))

/-- A group of eight elements that shadow execution will give up (R334). -/
def Hart.upsetAt (h : Hart) (g : Nat) : Bool := h.upset.any (fun u => decide (u.group = g) && u.hard)

/-- Elements in order (R308): each has what it reads, and a value, flags and the next carry from the carry before. -/
def vloop (h : Hart) (reads : Nat → List (Nat × Nat × Nat)) (f : Nat → Nat → Nat × Nat × Nat) : List Nat → Nat → VRes
  | [], c => { writes := [], fl := 0, carry := c, stop := none }
  | i :: l, c =>
    if h.upsetAt (i / 8) then { writes := [], fl := 0, carry := c, stop := some (.shadow i (i / 8)) }
    else match h.readsPoison (reads i) with
      | some (r, e) => { writes := [], fl := 0, carry := c, stop := some (.poison i r e) }
      | none =>
        let (v, fl, c') := f i c
        let q := vloop h reads f l c'
        { q with writes := (i, v) :: q.writes, fl := fl ||| q.fl }

/-! ## Ending -/

/-- Corrected votes of the groups worked on are logged, and every disagreement found is used up (R333, R443). -/
def State.votes (s : State) (gs : List Nat) : State :=
  if s.hart.upset = [] then s
  else
    let hit := s.hart.upset.filter (fun u => nmem u.group gs)
    let k := stackOf s.hart.place
    let s := (hit.filter (fun u => !u.hard)).foldl (fun t u =>
      t.logEvent k 0 (clusterOf s.hart.place % 2) (s.hart.place % 256) (u.group % 65536 + 65536 * (u.lane % 256))) s
    s.upd (fun h => { h with upset := h.upset.filter (fun u => !nmem u.group gs) })

/-- A vector instruction completes with flags `fl` (R314): `fflags` accrues, and a newly set flag that `fen` enables raises the
FP trap after it. -/
def State.vdone (s : State) (fl : Nat) : Out :=
  let f : BitVec 7 := BitVec.ofNat 7 fl
  let new := f &&& ~~~s.hart.fflags &&& s.hart.fen
  let t := (s.upd (fun h => { h with fflags := h.fflags ||| f })).retire
  if new = 0 then .next t
  else if s.inAhead then s.stopAhead 4
  else .next (t.trap (causeOf 8) (f.setWidth 64) t.hart.pc)

/-- The fault indices of a one-dimensional instruction that traps at element `i` (R182). -/
def Hart.trapsAt (h : Hart) (i : Nat) : Hart := { h with didx := #v[BitVec.ofNat 64 i, 0, 0] }

/-- `vstart` and the fault indices of a one-dimensional instruction that stops at element `i` (R182). -/
def Hart.stopAt (h : Hart) (i : Nat) : Hart := { h.trapsAt i with vstart := BitVec.ofNat 14 i }

/-- The trap value of an element that read poison (R446). -/
def poisonTval (r e : Nat) : W64 := BitVec.ofNat 64 (2 ^ 63 + 65536 * (r % 32) + e % 16384)

/-- A machine check at the present instruction, in run-ahead its end (R40). -/
def State.vcheck (s : State) (code : Nat) (tval : W64) : Out := if s.inAhead then s.stopAhead 4 else s.trapHere code tval

/-- An uncorrectable group: log entry and cause 0x41 (R444). -/
def State.vmachine (s : State) (g : Nat) : Out :=
  if s.inAhead then s.stopAhead 4
  else (s.logEvent (stackOf s.hart.place) 6 (clusterOf s.hart.place % 2) (s.hart.place % 256) g).trapHere 0x41
    (s.hart.vstart.setWidth 64)

/-! ## An element-wise instruction -/

/-- An element-wise instruction once it is known to be legal: its operands, its elements and what each does, how results are
written, what becomes of the value carried (at a stop, with the element it stops at), what is poisoned or left unknown. `whole`: R202's conditions hold. `at0`: it must restart at element 0 (R312). -/
structure VIns where
  sc : Sc
  xs : List Reg := []
  vs : List Nat := []
  ds : List Nat := []
  ms : List Nat := []
  cu : BitVec 3 := 1
  whole : Bool := false
  els : List Nat
  reads : Nat → List (Nat × Nat × Nat)
  comp : Nat → Nat → Nat × Nat × Nat
  carry : Nat := 0
  put : Hart → List (Nat × Nat) → Hart
  keep : Hart → Nat → Option Nat → Hart := fun h _ _ => h
  fin : Hart → Hart := id
  psn : Hart → List Nat → Hart := fun h _ => h
  unk : Hart → Hart
  at0 : Bool := false

/-- The elements of a group from `i` on that are among those worked on. -/
def groupTail (els : List Nat) (i g : Nat) : List Nat := els.filter (fun j => decide (i ≤ j) && decide (j / 8 = g))

/-- An element-wise instruction (R308, R334, R446). -/
def State.vrun (s : State) (v : VIns) : Out :=
  match s.vready v.sc v.xs v.vs v.ds v.ms v.cu v.whole with
  | .out o => o
  | .skip s => .next ((s.upd (fun h => { v.unk h with vstart := 0 })).retire)
  | .go s _ =>
    let h := s.hart
    let r := vloop h v.reads v.comp v.els v.carry
    match r.stop with
    | none =>
      let known (h : Hart) : Hart := if v.whole then h.onRegs v.ds (fun q => { q with unk := false }) else h
      let s := s.upd (fun _ => { v.fin (known (v.keep (v.put h r.writes) r.carry none)) with vstart := 0, vdep := h.vdep ||| h.depOf v.xs })
      (s.votes (v.els.map (· / 8))).vdone r.fl
    | some (.poison i g e) =>
      if v.at0 then (s.upd (fun h => h.trapsAt e)).vcheck 0x40 (poisonTval g e)
      else
        let s := s.upd (fun _ => { (v.keep (v.put h r.writes) r.carry (some i)).stopAt i with fflags := h.fflags ||| BitVec.ofNat 7 r.fl })
        (s.votes (r.writes.map (fun w => w.1 / 8))).vcheck 0x40 (poisonTval g e)
    | some (.shadow i g) =>
      let from_ := max (8 * g) h.vstart.toNat
      let bad (h : Hart) : Hart := if v.at0 then h else v.psn h (groupTail v.els i g)
      let s := s.upd (fun _ =>
        let k := bad (v.keep (v.put h r.writes) r.carry (some from_))
        { (if v.at0 then { k.trapsAt (8 * g) with vstart := 0 } else k.stopAt from_) with fflags := h.fflags ||| BitVec.ofNat 7 r.fl })
      (s.votes (g :: r.writes.map (fun w => w.1 / 8))).vmachine g

/-! ## An instruction with one result -/

/-- A reduction, VEXT, VINS, MPOPC or MFIRST once legal (R327, R329, R330, R335): what it reads in order, each element with the
group and element it names in a trap; its effect and flags; `vs0`: it ends with `vstart` 0; `xd` its scalar destination, if it has one. -/
structure VOne where
  sc : Sc
  xs : List Reg := []
  vs : List Nat := []
  ds : List Nat := []
  ms : List Nat := []
  cu : BitVec 3 := 1
  reads : List (Nat × Nat × Nat)
  eff : Hart → Hart × Nat
  unk : Hart → Hart
  vs0 : Bool := true
  xd : Option Reg := none

/-- An instruction with one result. -/
def State.vone (s : State) (v : VOne) : Out :=
  let z (h : Hart) : Hart := if v.vs0 then { h with vstart := 0 } else h
  match s.vready v.sc v.xs v.vs v.ds v.ms v.cu false v.xd with
  | .out o => o
  | .skip s => .next ((s.upd (fun h => z (v.unk h))).retire)
  | .go s _ =>
    match s.hart.readsPoison v.reads with
    | some (g, e) => (s.upd (fun h => (z h).trapsAt e)).vcheck 0x40 (poisonTval g e)
    | none =>
      if s.hart.upsetAt 0 then ((s.upd (fun h => (z h).trapsAt (z h).vstart.toNat)).votes [0]).vmachine 0
      else
        let (h, fl) := v.eff s.hart
        let dep := s.hart.vdep ||| s.hart.depOf v.xs
        let h := match v.xd with
          | some rd => { h with xdep := h.xdep.set rd.toNat (if rd = 0 then 0 else dep) }
          | none => { h with vdep := dep }
        ((s.upd (fun _ => z h)).votes [0]).vdone fl

/-! ## Two-source operands (R310) -/

/-- Operand A of the V format: a register group, a scalar, or an immediate. -/
inductive VA where
  | vv (r : Reg)
  | vx (r : Reg)
  | vi (r : Reg)
  deriving DecidableEq, Repr

/-- The form of majors 0x20 to 0x22. -/
def vaForm (g : Nat) (r : Reg) : VA := if g = 0 then .vv r else if g = 1 then .vx r else .vi r

def VA.xs : VA → List Reg
  | .vx r => [r]
  | _ => []

def VA.regs (e8 : Nat) : VA → List Nat
  | .vv r => groupRegs r e8
  | _ => []

def VA.ok (e8 : Nat) : VA → Bool
  | .vv r => groupOk r e8
  | _ => true

/-- Element `i` of operand A at width `w`. `sh`: an immediate is an unsigned shift amount. -/
def Hart.va (h : Hart) (a : VA) (w : Nat) (sh : Bool) (i : Nat) : Nat :=
  match a with
  | .vv r => h.vel r.toNat w i
  | .vx r => (h.kx r).toNat % 2 ^ w
  | .vi r => if sh then r.toNat else (r.signExtend 64).toNat % 2 ^ w

/-- What element `i` of A reads of the vector file. -/
def VA.reads (w : Nat) (a : VA) (i : Nat) : List (Nat × Nat × Nat) :=
  match a with
  | .vv r => [(r.toNat, w, i)]
  | _ => []

/-! ## Shape tags (R202, R309) -/

/-- Which sources let the destination be compact: never; all U; each U or A; at most one A; the first U. -/
inductive TagRule where
  | never | allU | affine | scaled | shifted
  deriving DecidableEq, Repr

/-- A register's tag as an instruction at a width sees it: at another width it is G (R201). -/
def VReg.tagAt (q : VReg) (sew : BitVec 3) : Tag := if q.vsew = sew then q.tag else .G

/-- The tag of member `k` of operand A. -/
def Hart.vaTag (h : Hart) (a : VA) (sew : BitVec 3) (k : Nat) : Tag :=
  match a with
  | .vv r => (h.vreg (r.toNat + k)).tagAt sew
  | _ => .U

/-- Whether the rule gives a compact destination for these source tags. -/
def TagRule.holds (t : TagRule) (l : List Tag) : Bool :=
  match t with
  | .never => false
  | .allU => l.all (fun x => decide (x = .U))
  | .affine => l.all (fun x => decide (x ≠ .G))
  | .scaled => l.all (fun x => decide (x ≠ .G)) && decide ((l.filter (fun x => decide (x = .A))).length ≤ 1)
  | .shifted => l.all (fun x => decide (x ≠ .G)) && decide (l.head? = some .U)

/-- A register's compact state read off the elements it holds: U where they do not change, else A. -/
def VReg.asUA (q : VReg) (sew : BitVec 3) : VReg :=
  let w := sewBits sew
  let b := (q.data.extractLsb' 0 w).toNat
  let d := ((q.data.extractLsb' w w).toNat + 2 ^ w - b) % 2 ^ w
  { q with tag := if d = 0 then .U else .A, vsew := sew, base := BitVec.ofNat 64 b, stride := BitVec.ofNat 64 d, unk := false }

/-- Members of a destination group retagged, where the rule holds for the tags of their sources in `old`. -/
def Hart.retag (h : Hart) (r : Reg) (e8 : Nat) (sew : BitVec 3) (comp : Nat → Bool) : Hart :=
  (upto (groupLen e8)).foldl (fun h k => if comp k then h.onRegs [r.toNat + k] (fun q => q.asUA sew) else h) h

/-! ## The usual shapes -/

/-- An element-wise instruction on A, B and, where `useD`, the destination's old elements, all of width SEW (R310). -/
def State.vbin (s : State) (sc : Sc) (d : Reg) (a : VA) (b : Reg) (vm : BitVec 3) (rule : TagRule) (sh useB useD : Bool)
    (cu : BitVec 3) (f : Nat → Nat → Nat → Nat × Nat) : Out :=
  let h := s.hart
  let w := h.sew
  let e8 := h.lm8
  let comp (k : Nat) : Bool :=
    rule.holds ([h.vaTag a h.vsew k] ++ (if useB then [(h.vreg (b.toNat + k)).tagAt h.vsew] else []) ++
      (if useD then [(h.vreg (d.toNat + k)).tagAt h.vsew] else []))
  s.vrun { sc := sc, xs := a.xs, vs := a.regs e8 ++ (if useB then groupRegs b e8 else []) ++ (if useD then groupRegs d e8 else []),
           ds := groupRegs d e8, ms := maskOf vm, cu := cu, whole := h.whole vm, els := h.actives vm,
           reads := fun i => a.reads w i ++ (if useB then [(b.toNat, w, i)] else []) ++ (if useD then [(d.toNat, w, i)] else []),
           comp := fun i _ =>
             let (v, fl) := f (h.va a w sh i) (if useB then h.vel b.toNat w i else 0) (if useD then h.vel d.toNat w i else 0)
             (v, fl, 0),
           put := fun h l => h.putEls d w e8 l,
           fin := fun k => if h.whole vm then k.retag d e8 h.vsew comp else k,
           psn := fun h l => h.poisonEls d w e8 l,
           unk := fun h => h.unkGroup d e8 }

/-- A comparison of A and B into a mask register (R308, R317, R318). -/
def State.vcompare (s : State) (sc : Sc) (d : Reg) (a : VA) (b : Reg) (vm : BitVec 3) (cu : BitVec 3) (f : Nat → Nat → Bool × Nat) : Out :=
  let h := s.hart
  let w := h.sew
  let e8 := h.lm8
  s.vrun { sc := sc, xs := a.xs, vs := a.regs e8 ++ groupRegs b e8, ms := maskOf vm, cu := cu, els := h.actives vm,
           reads := fun i => a.reads w i ++ [(b.toNat, w, i)],
           comp := fun i _ => let (v, fl) := f (h.va a w false i) (h.vel b.toNat w i); (b2n v, fl, 0),
           put := fun h l => h.putBits d.toNat l,
           fin := fun k => k.knownMask d.toNat (h.whole vm),
           unk := fun h => h.unkMask d.toNat }

/-- The second operand of chain element `i`: none where it is `vd[i − 1]` as it stands, else from the carry or `vseed` (R194). -/
inductive ChainSrc where
  | seed | stands | carry
  deriving DecidableEq, Repr

def Hart.chainSrc (h : Hart) (vm : BitVec 3) (i : Nat) : ChainSrc :=
  let n := (h.dlen[0]).toNat
  if i = h.vstart.toNat ∨ (n ≠ 0 ∧ n < h.vl ∧ i % n = 0) then .seed
  else if h.active vm (i - 1) then .carry else .stands

/-- The second operand of chain element `i`, with `c` the result before (R194). -/
def Hart.chainArg (h : Hart) (d : Reg) (vm : BitVec 3) (i c : Nat) : Nat :=
  match h.chainSrc vm i with
  | .seed => h.vseed.toNat % 2 ^ h.sew
  | .stands => h.vel d.toNat h.sew (i - 1)
  | .carry => c

/-- A chain instruction (R194, R195, R331): `f` of A and the second operand. -/
def State.vchain (s : State) (sc : Sc) (d : Reg) (a : VA) (vm : BitVec 3) (f : Nat → Nat → Nat × Nat) : Out :=
  let h := s.hart
  let w := h.sew
  let e8 := h.lm8
  s.vrun { sc := sc, xs := a.xs, vs := a.regs e8 ++ groupRegs d e8, ds := groupRegs d e8, ms := maskOf vm, cu := 7, whole := h.whole vm,
           els := h.actives vm,
           reads := fun i => a.reads w i ++ (if h.chainSrc vm i = .stands then [(d.toNat, w, i - 1)] else []),
           comp := fun i c => let (v, fl) := f (h.va a w false i) (h.chainArg d vm i c); (v, fl, v),
           put := fun h l => h.putEls d w e8 l,
           keep := fun k c n => match n with
             | some n => { k with vseed := BitVec.ofNat 64 (h.chainArg d vm n c) }
             | none => if h.actives vm = [] then k else { k with vseed := BitVec.ofNat 64 c },
           psn := fun h l => h.poisonEls d w e8 l,
           unk := fun h => { h.unkGroup d e8 with cUnk := h.cUnk ||| 4 } }

/-! ## Composition over symbols (R313) -/

/-- A member register of an operand as a form, its tag and stride. -/
structure VForm where
  x : XVal
  tag : Tag
  stride : W64

/-- Member `k` of operand A. -/
def Hart.vaForm (h : Hart) (a : VA) (k : Nat) : VForm :=
  match a with
  | .vv r => let q := h.vreg (r.toNat + k); { x := q.state, tag := q.tagAt h.vsew, stride := if q.tag = .A then q.stride else 0 }
  | .vx r => { x := h.rx r, tag := .U, stride := 0 }
  | .vi r => { x := .known (r.signExtend 64), tag := .U, stride := 0 }

/-- The operations that compose. -/
inductive VSymOp where
  | add | sub | mul
  deriving DecidableEq, Repr

/-- A member of the destination (R313): its base as a form, and its stride; none where it must wait. -/
def VSymOp.apply (o : VSymOp) (a b : VForm) : Option (XVal × W64) :=
  if a.tag = .G ∨ b.tag = .G then none
  else match o with
    | .add => (symAdd a.x b.x).map (fun x => (x, a.stride + b.stride))
    | .sub => (symSub b.x a.x).map (fun x => (x, b.stride - a.stride))
    | .mul =>
      if a.x.isKnown && decide (a.tag = .U) then (symMul a.x b.x).map (fun x => (x, a.x.val * b.stride))
      else if b.x.isKnown && decide (b.tag = .U) then (symMul a.x b.x).map (fun x => (x, b.x.val * a.stride))
      else none

/-- A register written from a form at a width. -/
def vregOf (vlen : Nat) (sew : BitVec 3) (x : XVal) (stride : W64) : VReg :=
  let st := BitVec.ofNat 64 (stride.toNat % 2 ^ sewBits sew)
  let t : Tag := if st = 0 then .U else .A
  match x with
  | .form s a b => { tag := t, vsew := sew, base := b, stride := st, sy := some (s, a) }
  | .poisoned s c va => { tag := t, vsew := sew, stride := st, sypsn := some (s, c, va) }
  | x =>
    let b := BitVec.ofNat 64 (x.val.toNat % 2 ^ sewBits sew)
    { tag := t, vsew := sew, base := b, stride := st, data := expand vlen sew b st }

/-- The members of the destination, all of which must compose. -/
def Hart.symMembers (h : Hart) (o : VSymOp) (a : VA) (b : Reg) : List Nat → Option (List VReg)
  | [] => some []
  | k :: l =>
    match o.apply (h.vaForm a k) (h.vaForm (.vv b) k) with
    | none => none
    | some (x, st) => (Hart.symMembers h o a b l).map (fun m => vregOf h.vgrant h.vsew x st :: m)

/-- Some operand is symbolic or poisoned: its base is no known value. -/
def Hart.symbolicIn (h : Hart) (a : VA) (regs : List Nat) : Bool :=
  (regs.any (fun r => !(h.vreg r).state.isKnown)) || (a.xs.any (fun r => !(h.rx r).isKnown))

/-- The registers from `r` on replaced. -/
def Hart.setMembers (h : Hart) (r : Nat) : List VReg → Hart
  | [] => h
  | q :: l => Hart.setMembers { h with v := h.v.setIfInBounds r q } (r + 1) l

/-- VADD, VSUB or VMUL over a symbol without waiting (R313); none where the case does not hold. -/
def State.vcompose (s : State) (sc : Sc) (o : VSymOp) (d : Reg) (a : VA) (b : Reg) (vm : BitVec 3) : Option Out :=
  let h := s.hart
  let e8 := h.lm8
  let regs := a.regs e8 ++ groupRegs b e8
  if !(h.whole vm && h.symbolicIn a regs) || (a.xs.any (fun r => decide (h.rx r = .unknown))) || (regs.any (fun r => (h.vreg r).unk)) then none
  else match s.preface sc false, s.badReg a.xs with
    | none, none =>
      if 16 ≤ h.vq.length then some s.stall
      else if s.isLate ∨ (regs ++ groupRegs d e8).any h.loading then none
      else (h.symMembers o a b (upto (groupLen e8))).map (fun l =>
        let dep := if l.all (fun q => q.sy.isSome) then 0
          else slotsOver (a.xs.map h.rx ++ regs.map (fun r => (h.vreg r).state))
        .next ((s.upd (fun h => { h.setMembers d.toNat l with vstart := 0, vdep := h.vdep ||| h.depOf a.xs ||| dep })).retire))
    | _, _ => none

end Sys2Proof.Machine
end

