-- ==== Sys2Proof/Machine/Matrix.lean ====
section
/-! DEFINITION. Matrix instructions at issue (R359 to R376): shapes, operand words, extents, and the operations that go to the
granted bay. -/
namespace Sys2Proof.Machine

/-! ## Operations and tiles -/

/-- The key of tile n of the hart at a place. -/
def tileKey (place n : Nat) : Nat := 8 * place + n

/-- Two operations name one tile of one hart (R363). -/
def MOp.sameTile (a b : MOp) : Bool := decide (a.place = b.place) && decide (a.acc = b.acc) && decide (a.sub ≠ 1) && decide (b.sub ≠ 1)

def State.onMOp (s : State) (id : Nat) (f : MOp → MOp) : State :=
  { s with mops := modList (fun m => decide (m.id = id)) f s.mops }

/-- The status word of a matrix operation (R376). -/
def matWord (code op flags : Nat) (held : Bool) (cause rows cols m n npsn : Nat) : W64 :=
  BitVec.ofNat 64 (code + 16 * op + 256 * flags + 2 ^ 15 * b2n held + 2 ^ 16 * cause + 2 ^ 24 * min rows 255 +
    2 ^ 32 * min cols 255 + 2 ^ 40 * m + 2 ^ 48 * n + 2 ^ 56 * min npsn 255)

/-- Every operation on the tile issued before has finished; a held MSTA counts as finished (R363, R374). -/
def State.tileFree (s : State) (o : MOp) : Bool :=
  !s.mops.any (fun m => m.sameTile o && decide (m.id < o.id) &&
    (decide (m.st = .running) || decide (m.st = .waiting) || decide (m.st = .deferred)))

/-- The MMAs that have arrived and whose tile is free become ready, those that do together in order of arrival (R363). -/
def State.markReady (s : State) : State :=
  let due := s.mops.filter (fun m => decide (8 ≤ m.sub) && decide (m.st = .waiting) && decide (m.arr ≠ 0) && decide (m.rdy = 0) && s.tileFree m)
  let sorted := due.foldl (fun l m => l.filter (fun q => decide (q.arr < m.arr)) ++ [m] ++ l.filter (fun q => decide (m.arr ≤ q.arr))) []
  sorted.foldl (fun t m => let (n, t) := t.fresh; t.onMOp m.id (fun q => { q with rdy := n })) s

/-- A matrix operation ends with a status word: it joins the end of the order of ended operations (R376), and MMAs behind it may become
ready (R363). -/
def State.endM (s : State) (o : MOp) (w : W64) : State :=
  (({ s with mops := s.mops.filter (fun m => decide (m.id ≠ o.id)) ++ [{ o with st := .ended, word := w }] } : State).markReady).postOnce
    (.matrixOpComplete o.id)

/-- Each held or deferred MSTA among these ends with DROPPED (R362, R372, R374). -/
def State.dropMstas (s : State) (p : MOp → Bool) : State :=
  (s.mops.filter (fun m => p m && (decide (m.st = .heldS) || decide (m.st = .deferred)))).foldl
    (fun t m => t.endM m (matWord 9 3 0 true 0 0 0 0 0 0)) s

/-- A tile as MMAZ sets it (R364). -/
def Tile.clear (t : Tile) : Tile := { t with elems := [], psn := [], pr := [], pcs := [] }

/-- An operation waits behind a deferred MSTA of its tile (R374). -/
def State.behindDeferred (s : State) (o : MOp) : Bool :=
  s.mops.any (fun m => decide (m.st = .deferred) && m.sameTile o && decide (m.id < o.id))

/-! ## TSHAPE (R362) -/

/-- The shape granted to a request. -/
def grantShape (r : W64) : Nat × Nat × Nat :=
  let m := r.toNat % 65536
  let n := r.toNat / 65536 % 65536
  let k := r.toNat / 2 ^ 32 % 65536
  (if m ≤ 16 then 16 else if m ≤ 32 then 32 else if m ≤ 64 then 64 else 128,
   if n ≤ 64 then 64 else if n ≤ 128 then 128 else 256,
   min 32768 (max 32 (cdiv k 32 * 32)))

/-- TSHAPE (R362). -/
def execTshape (sc : Sc) (rd rs1 : Reg) (s : State) : Out :=
  match s.ready sc true [rs1] with
  | .out o => o
  | .skip s => s.stopAhead 2
  | .go s _ =>
    let r := s.hart.kx rs1
    let (tm, tn, tk) := grantShape r
    let me := s.hart.place
    let new := decide (tm ≠ s.hart.tm) || decide (tn ≠ s.hart.tn)
    let s := if new then s.dropMstas (fun m => decide (m.place = me)) else s
    let waits := s.mops.any (fun m => decide (m.place = me) && !(decide (m.st = .heldS) || decide (m.st = .deferred) ||
      (decide (m.st = .waiting) && s.behindDeferred m)))
    if waits then s.stall
    else
      let s := s.upd (fun h => { h with tm := tm, tn := tn, tk := tk })
      let s := if new then
          (upto s.hart.nacc.toNat).foldl (fun t n => t.setTile (tileKey me n) { (t.getTile (tileKey me n)).clear with chk := false }) s
        else s
      let same := decide (tm + 65536 * tn + 2 ^ 32 * tk = r.toNat % 2 ^ 48)
      s.done rd (BitVec.ofNat 64 (tm + 65536 * tn + 2 ^ 32 * tk + (if same then 0 else 2 ^ 63)))

/-! ## Issue -/

/-- The barrier address of an operand word (R361). -/
def wordBarrier (v : W64) : W64 := v &&& 0xffffffffffe0#64

/-- The position of the hart on the vertical bus of its bay (R76, R370). -/
def Hart.busPos (h : Hart) : Nat :=
  if !h.lamp && decide (clusterOf h.place = 2 * stackOf h.place + h.bay.toNat / 32) && decide (h.place % 256 / 8 = h.bay.toNat % 32) then
    h.place % 8
  else 8

/-- An operation with what every one captures at issue (R362, R363). -/
def State.newMOp (s : State) (sub acc : Nat) (barrier : Option Nat) (ord : BitVec 3) : MOp :=
  let h := s.hart
  { id := 0, hid := h.hid, place := h.place, stack := stackOf h.place, bay := h.bay.toNat, cnum := 0, sub := sub, acc := acc, fmt := 0, slot := 0,
    units := 0, mx := false, m := h.tm, n := h.tn, k := h.tk, tctl := h.tctl, ia := 0, pitch := 0, ofmt := 0, on := false, tol := 0,
    sa := [], saBad := [], ctx := h.ctxKey, vf := h.vfid.toNat, lvl := h.level, barrier := barrier, rel := ordRel ord, tag := h.gen,
    st := .waiting, pos := h.busPos }

/-- The bay event of an operation, by its `sub`. -/
def MOp.event (o : MOp) : Instr :=
  if o.sub = 1 then .mldwBay o.id else if o.sub = 2 then .mmazBay o.id else if o.sub = 3 then .mstaBay o.id
  else if o.sub = 4 then .mchkBay o.id else if o.sub = 5 then .mverBay o.id else .mmaBay o.id

/-- A checked command leaves the hart (R196, R360, R161), or, with a value failure, completes at once with BADOPND. -/
def State.sendMatrix (s : State) (o : MOp) (bad : Bool) (ord : BitVec 3) (ext : List (Nat × Nat × Acc)) : Out :=
  if s.inAhead then s.commandAhead 0 ext
  else match s.acquireCmd ord with
    | .out o => o
    | .skip s => .next s
    | .go s _ => match s.cmdFree with
      | .out o => o
      | .skip s => .next s
      | .go s cnum =>
        let (id, s) := s.fresh
        let o := { o with id := id, cnum := cnum, tag := s.hart.gen }
        let s := (s.takeCmd cnum).retire
        .next (if bad then s.endM o (matWord 7 o.sub 0 false 0 0 0 0 0 0)
          else ({ s with mops := s.mops ++ [o] } : State).post o.event)

/-- The granted bay and accumulators allow a matrix instruction that names tile `acc` (R206, R362, R363). -/
def Hart.matLegal (h : Hart) (acc : Nat) : Bool := h.bv && decide (acc < h.nacc.toNat)

/-- The checks of a barrier that an operand word names (R348, R361). -/
def State.wordCell (s : State) (v : W64) : Flow (Option Nat) :=
  match s.barrierOf s.myCtx s.hart.level (wordBarrier v) with
  | .error f => (s.faulted f kEngine).ofFault
  | .ok b => .go s b

/-- The extent of an operand (R37). -/
def State.extentFlow (s : State) (va : W64) (n : Nat) (acc : Acc) : Flow (Nat × Bool) :=
  match s.extent s.myCtx s.hart.level va n acc with
  | .error f => (s.faulted f kEngine).ofFault
  | .ok e => .go s e

/-- A command whose operands are unknown is passed over in run-ahead (R39). -/
def Flow.orPass {α : Type} (r : Flow α) (f : State → α → Out) : Out :=
  match r with
  | .out o => o
  | .skip s => .next s.retire
  | .go s a => f s a

/-- The formats that may carry block scales (R367, R369). -/
def mxFormat (k : Nat) : Bool := (decide (3 ≤ k) && decide (k ≤ 7)) || (decide (0x10 ≤ k) && decide (k ≤ 0x12))

/-- The bytes of a layer-load (R367). -/
def loadExtent (k n fmt : Nat) (mx : Bool) : Nat := k * n * formatBits fmt / 8 + (if mx then n * k / 32 else 0)

/-- MLDW (R367). -/
def execMldw (sc : Sc) (rs1 rs2 : Reg) (o : BitVec 3) (k : BitVec 5) (s : State) : Out :=
  (s.ready sc false [rs1, rs2]).orPass fun s _ =>
    let h := s.hart
    let v := h.kx rs2
    let mx := v.getLsbD 54
    let slot := v.toNat / 2 ^ 48 % 64
    let e := loadExtent h.tk h.tn k.toNat mx
    let u := cdiv e 65536
    if !h.bv || decide (h.tm = 0) || (mx && !mxFormat k.toNat) || decide (64 < slot + u) then s.illegal
    else (s.extentFlow (h.kx rs1) e .read).orPass fun s x => (s.wordCell v).orPass fun s b =>
      let op := s.newMOp 1 0 b o
      s.sendMatrix { op with fmt := k.toNat, slot := slot, units := u, mx := mx, ia := x.1, beats := cdiv e 64 }
        (decide (v &&& 0xff8000000000001f#64 ≠ 0)) o [(x.1, e, .read)]

/-- MMAZ (R364). -/
def execMmaz (sc : Sc) (n : BitVec 5) (s : State) : Out :=
  (s.ready sc false []).orPass fun s _ =>
    if !s.hart.matLegal n.toNat then s.illegal else s.sendMatrix (s.newMOp 2 n.toNat none 0) false 0 []

/-- The size of an output element (R371). -/
def outSize (ofmt : Nat) : Nat := if ofmt = 0 then 4 else 2

/-- MSTA (R371). -/
def execMsta (sc : Sc) (rs1 rs2 : Reg) (o : BitVec 3) (n : BitVec 5) (s : State) : Out :=
  (s.ready sc false [rs1, rs2]).orPass fun s _ =>
    let h := s.hart
    let v := h.kx rs2
    if !h.matLegal n.toNat || decide (h.tm = 0) then s.illegal
    else
      let ofmt := v.toNat % 4
      let row := h.tn * outSize ofmt
      let p := v.toNat / 2 ^ 48 * 8
      let q := if p = 0 then row else p
      let len := (h.tm - 1) * q + row
      (s.extentFlow (h.kx rs1) len .write).orPass fun s x => (s.wordCell v).orPass fun s b =>
        let op := s.newMOp 3 n.toNat b o
        s.sendMatrix { op with ia := x.1, pitch := q, ofmt := ofmt, on := v.getLsbD 2, beats := cdiv (h.tm * row) 64 }
          (decide (ofmt = 3) || decide (q < row) || decide (v &&& 0x18#64 ≠ 0) ||
            (x.2 && (decide (x.1 % 8 ≠ 0) || decide (q % 8 ≠ 0) || decide (row % 8 ≠ 0)))) o [(x.1, len, .write)]

/-- MCHK (R372). -/
def execMchk (sc : Sc) (rs2 : Reg) (n : BitVec 5) (s : State) : Out :=
  (s.ready sc false [rs2]).orPass fun s _ =>
    let h := s.hart
    let v := h.kx rs2
    if !h.matLegal n.toNat || decide (h.tm = 0) then s.illegal
    else (s.wordCell v).orPass fun s b =>
      let op := s.newMOp 4 n.toNat b 0
      s.sendMatrix { op with on := v.getLsbD 48 } (decide (v &&& 0xfffe00000000001f#64 ≠ 0)) 0 []

/-- MVER (R373). -/
def execMver (sc : Sc) (rs2 : Reg) (o : BitVec 3) (n : BitVec 5) (s : State) : Out :=
  (s.ready sc false [rs2]).orPass fun s _ =>
    let h := s.hart
    let v := h.kx rs2
    if !h.matLegal n.toNat || decide (h.tm = 0) then s.illegal
    else (s.wordCell v).orPass fun s b =>
      let op := s.newMOp 5 n.toNat b o
      s.sendMatrix { op with tol := v.toNat / 2 ^ 48 } (decide (v &&& 0x1f#64 ≠ 0)) o []

/-- MSTAT (R365): the last status of a tile. -/
def execMstat (sc : Sc) (rd : Reg) (n : BitVec 5) (s : State) : Out :=
  (s.ready sc false []).orPass fun s _ =>
    if s.hart.nacc.toNat ≤ n.toNat then s.illegal else s.done rd (s.getTile (tileKey s.hart.place n.toNat)).last

/-- MREL (R368): it waits for this hart's operations on the slot. -/
def execMrel (sc : Sc) (rs1 : Reg) (s : State) : Out :=
  (s.ready sc false [rs1]).orPass fun s _ =>
    if !s.hart.bv then s.illegal
    else if s.inAhead then .next s.retire
    else if s.isLate then s.stall
    else
      let slot := (s.hart.kx rs1).toNat % 64
      let me := s.hart.place
      if s.mops.any (fun m => decide (m.place = me) && (decide (m.sub = 1) || decide (m.sub = 8) || decide (m.sub = 9)) &&
          decide (m.slot = slot) && decide (m.st ≠ .ended)) then s.stall
      else
        let k := slotKey (stackOf me) s.hart.bay.toNat slot
        let d := s.getSlot k
        .next ((if d.wby = s.hart.hid then s.setSlot k { d with valid := false } else s).retire)

/-! ## MMA (R369) -/

/-- The beats of an MMA's A operand (R370). -/
def mmaBeats (m row apitch : Nat) : Nat := if apitch = 0 then cdiv (m * row) 64 else m * cdiv row 64

/-- An MMA or MMA.mx once its scale bytes are captured. -/
def State.mmaIssue (s : State) (sub : Nat) (rs1 : Reg) (v : W64) (o : BitVec 3) (fmt : Nat) (sa : List Byte) (saBad : List Nat) : Out :=
  let h := s.hart
  let row := h.tk * formatBits fmt / 8
  let ap := v.toNat / 2 ^ 56
  let p := if ap = 0 then row else 64 * ap
  let len := (h.tm - 1) * p + row
  (s.extentFlow (h.kx rs1) len .read).orPass fun s x => (s.wordCell v).orPass fun s b =>
    let inSram := match winOf s.ownPart x.1 with | some (.sram _ _) => true | _ => false
    let op := s.newMOp sub (v.toNat % 8) b o
    s.sendMatrix { op with fmt := fmt, slot := v.toNat / 2 ^ 48 % 64, mx := decide (sub = 9), ia := x.1, pitch := p, sa := sa,
                           saBad := saBad, beats := mmaBeats h.tm row ap }
      (decide (p < row) || !inSram || (decide (sub = 8) && decide (v.toNat / 2 ^ 54 % 4 ≠ 0)) || decide (v &&& 0x18#64 ≠ 0)) o
      [(x.1, len, .read)]

/-- MMA (R369). -/
def execMma (sc : Sc) (rs1 rs2 : Reg) (o : BitVec 3) (k : BitVec 5) (s : State) : Out :=
  (s.ready sc false [rs1, rs2]).orPass fun s _ =>
    let v := s.hart.kx rs2
    if !s.hart.matLegal (v.toNat % 8) || decide (s.hart.tm = 0) then s.illegal else s.mmaIssue 8 rs1 v o k.toNat [] []

/-- MMA.mx (R369): the A scale bytes are captured from a group of eight vector registers. A poisoned one poisons its row (R236). -/
def execMmaMx (sc : Sc) (rs1 rs2 : Reg) (o : BitVec 3) (k : BitVec 5) (s : State) : Out :=
  (s.ready sc false [rs1, rs2]).orPass fun s _ =>
    let h := s.hart
    let v := h.kx rs2
    let r := 8 * (v.toNat / 2 ^ 54 % 4)
    let n := h.tm * h.tk / 32
    if !h.matLegal (v.toNat % 8) || decide (h.tm = 0) || !mxFormat k.toNat || decide (h.vgrant < n) then s.illegal
    else if !s.inAhead && (s.isLate || (upFrom r 8).any h.loading || decide (h.vdep ≠ 0)) then s.stall
    else
      let xs := (upFrom r 8).map (fun i => (h.vreg i).state)
      if xs.any (fun x => decide (x = .unknown)) then .next s.retire
      else if !xs.all XVal.isKnown then s.block xs
      else s.mmaIssue 9 rs1 v o k.toNat ((upto n).map (fun i => BitVec.ofNat 8 (h.vel r 8 i))) ((upto n).filter (h.velPsn r 8))

end Sys2Proof.Machine
end

