-- ==== Sys2Proof/Machine/EvMatrix.lean ====
section
/-! DEFINITION. The Lantern bays: arrival, vertical-bus beats (R76, R370), layer-loads (R367), MMA (R369), epilogue stores
(R371, R374), checksums (R372, R373) and completion (R376). -/
namespace Sys2Proof.Machine

/-! ## Turns -/

/-- The maker of a bay's accesses for an operation. -/
def MOp.who (o : MOp) : Who := { engineWho (unitLantern o.stack) o.stack o.lvl o.vf o.ctx with cmd := o.id }

/-- The tag of a write that a matrix operation makes: the newer of its own tag (the hart's generation at issue, or at the commit of a held
store) and the generation of the unit that sends it (R115, R117). -/
def State.mopTag (s : State) (o : MOp) : BitVec 32 := genMax o.tag (s.unitGen (unitLantern o.stack))

/-- The operation with a number that its bay still works on. -/
def State.mopLive (s : State) (id : Nat) (st : MOpState → Bool) : Option MOp := s.mops.find? (fun m => decide (m.id = id) && st m.st)


/-- An operation arrives at its bay; its beats begin to cross the bus (R370). -/
def State.arriveBay (s : State) (o : MOp) : State × MOp :=
  if o.arr ≠ 0 then (s, o)
  else
    let (n, s) := s.fresh
    let o := { o with arr := n }
    let s := (s.onMOp o.id (fun _ => o)).markReady
    (if o.beats = 0 then s else s.postOnce (.vbusBeatGrant o.stack o.bay), ((s.mops.find? (fun m => decide (m.id = o.id))).getD o))

/-- MVER, and MCHK that ends the mode: what a deferred MSTA is overtaken by (R374). -/
def MOp.overtakes (o : MOp) : Bool := decide (o.sub = 5) || (decide (o.sub = 4) && !o.on)

/-- The operations on one tile run in issue order (R363); one that overtakes runs in the place of a deferred MSTA (R374). -/
def State.tileTurn (s : State) (o : MOp) : Bool :=
  let before := s.mops.filter (fun m => m.sameTile o && decide (m.id < o.id))
  !before.any (fun m => decide (m.st = .running)) &&
    (!before.any (fun m => decide (m.st = .waiting) || decide (m.st = .deferred)) ||
      (o.overtakes && before.any (fun m => decide (m.st = .deferred)) &&
        !before.any (fun m => decide (m.st = .waiting) && m.overtakes)))

/-- A bay runs one MMA at a time, and tiles are read and written between MMAs (R363). -/
def State.bayBusy (s : State) (o : MOp) : Bool :=
  s.mops.any (fun m => decide (m.stack = o.stack) && decide (m.bay = o.bay) && decide (8 ≤ m.sub) && decide (m.st = .running) &&
    decide (m.id ≠ o.id))

/-- A layer-load to a slot has arrived and is not finished (R369). -/
def State.loadingSlot (s : State) (o : MOp) : Bool :=
  s.mops.any (fun m => decide (m.sub = 1) && decide (m.stack = o.stack) && decide (m.bay = o.bay) && decide (m.slot = o.slot) &&
    (decide (m.st = .running) || (decide (m.st = .waiting) && decide (m.arr ≠ 0) && decide (m.arr < o.arr))))

/-- An MMA of the bay became ready earlier and may start (R363). One that waits for a layer-load lets those behind it pass (log 87). -/
def State.readyAhead (s : State) (o : MOp) : Bool :=
  s.mops.any (fun m => decide (8 ≤ m.sub) && decide (m.stack = o.stack) && decide (m.bay = o.bay) && decide (m.st = .waiting) &&
    decide (m.rdy ≠ 0) && decide (m.rdy < o.rdy) && !s.loadingSlot m)

/-- The units that an MMA reads: those of its slot's descriptor, and of the layer-loads before it. -/
def State.unitsRead (s : State) (o : MOp) : Nat :=
  let d := s.getSlot (slotKey o.stack o.bay o.slot)
  (s.mops.filter (fun m => decide (m.sub = 1) && decide (m.stack = o.stack) && decide (m.bay = o.bay) && decide (m.slot = o.slot) &&
    m.st.open_ && decide (m.arr ≠ 0) && decide (m.arr < o.arr))).foldl (fun n m => max n m.units) (if d.valid then d.units else 0)

/-! ## Beats (R76) -/

/-- One beat slot: the first requester after the last winner (R76). -/
def State.beatSlot (s : State) (k bus : Nat) : State :=
  let last := sget 8 (s.getStk k).buses bus
  match (upto 9).findSome? (fun i => s.beatAt k bus ((last + 1 + i) % 9)) with
  | none => s
  | some m =>
    let t := s.getStk k
    (s.setStk k { t with buses := sset 8 t.buses bus m.pos }).onMOp m.id (fun q => { q with beats := q.beats - 1 })

/-- VBUS_BEAT_GRANT: the two beat slots of a core cycle (R76). -/
def execVbusBeatGrant (stack bus : Nat) (s : State) : Out :=
  let s := (s.beatSlot stack bus).beatSlot stack bus
  .next (if (upto 9).any (fun i => (s.beatAt stack bus i).isSome) then s.postOnce (.vbusBeatGrant stack bus) else s)

/-! ## Layer-loads (R367) -/

/-- The valid bit of every descriptor whose units overlap a run. -/
def State.dropSlots (s : State) (o : MOp) : State :=
  (upto 64).foldl (fun t j =>
    let k := slotKey o.stack o.bay j
    let d := t.getSlot k
    if d.valid ∧ j < o.slot + o.units ∧ o.slot < j + d.units then t.setSlot k { d with valid := false } else t) s

/-- The key of the first byte of a slot. -/
def MOp.slotBase (o : MOp) : Nat := keyLantern + 2 ^ 28 * o.stack + 2 ^ 22 * o.bay + 65536 * o.slot

/-- The IA of the first byte of a slot. -/
def MOp.slotIA (o : MOp) : Nat := 0x8000000000000 + 2 ^ 32 * o.stack + 2 ^ 22 * o.bay + 65536 * o.slot

/-- The next bytes of a layer-load: at most two beats, to the next 128-byte boundary of the source. -/
def State.loadChunk (s : State) (o : MOp) (e : Nat) : Out :=
  let n := min (e - o.prog) (128 - (o.ia + o.prog) % 128)
  match s.engineRead o.who (o.ia + o.prog) n with
  | (s, .hold) => .next (s.postOnce (.mldwBay o.id))
  | (s, .fault f) => .next (s.endM o (matWord 4 1 0 false f.code 0 0 0 0 0))
  | (s, .ok l) =>
    if l.any (fun b => b.2.isSome) then .next (s.endM o (matWord 3 1 0 false 0 0 0 0 0 0))
    else
      let s := s.storeKeys ((upFrom (o.slotBase + o.prog) n).zip (l.map (·.1))) o.stack (o.slotIA + o.prog)
      .next ((s.onMOp o.id (fun q => { q with prog := q.prog + n })).postOnce (.mldwBay o.id))

/-- MLDW_BAY (R367). -/
def execMldwBay (op : Nat) (s : State) : Out :=
  match s.mopLive op MOpState.open_ with
  | none => .next s
  | some o =>
    let (s, o) := s.arriveBay o
    let e := loadExtent o.k o.n o.fmt o.mx
    if o.st = .waiting then
      let waits := s.mops.any (fun m => decide (8 ≤ m.sub) && decide (m.stack = o.stack) && decide (m.bay = o.bay) && m.st.open_ &&
        decide (m.arr ≠ 0) && decide (m.arr < o.arr) && decide (m.slot < o.slot + o.units) && decide (o.slot < m.slot + s.unitsRead m))
      .next (if waits then s.postOnce (.mldwBay op)
        else ((s.dropSlots o).onMOp op (fun q => { q with st := .running })).postOnce (.mldwBay op))
    else if o.prog < e then s.loadChunk o e
    else if o.beats ≠ 0 then .next (s.postOnce (.mldwBay op))
    else
      let d : SlotDesc := { valid := true, fmt := o.fmt, k := o.k, n := o.n, mx := o.mx, units := o.units, wby := o.hid }
      .next ((s.setSlot (slotKey o.stack o.bay o.slot) d).endM o (matWord 0 1 0 false 0 0 0 0 0 0))

/-! ## MMA (R369) -/

/-- The key of an element of a tile of `n` columns. -/
def elemKey (n r c : Nat) : Nat := r * n + c

/-- The first poisoned element in row-major order, as (row, column) (R376). -/
def firstPoison (n : Nat) (l : List Nat) : Nat × Nat :=
  match l with
  | [] => (0, 0)
  | e :: _ => (e / n, e % n)

/-- Bits `w*i` up to `w*(i+1)` of a bit stream (R224). -/
def streamAt (v w i : Nat) : Nat := v / 2 ^ (w * i) % 2 ^ w

/-- The A operand: the rows read, and the captured scales of MMA.mx (R369). -/
def MOp.aSide (o : MOp) : Operand :=
  let w := formatBits o.fmt
  let all := ofBytesLE o.bytes
  let row := o.k * w
  { el := fun m k => elemVal o.fmt (all / 2 ^ (row * m + w * k) % 2 ^ w)
    sc := fun m j => if o.sub = 9 then scaleExp ((o.sa.getD (m * (o.k / 32) + j) 0).toNat) else some 0 }

/-- The bytes of an element block of a slot. -/
def State.slotBytes (s : State) (o : MOp) (at_ n : Nat) : List Byte := (upFrom (o.slotBase + at_) n).map s.byteAt

/-- The B operand: the slot's bytes under its descriptor (R366, R369). -/
def State.bSide (s : State) (o : MOp) (d : SlotDesc) : Operand :=
  let w := formatBits d.fmt
  let e := o.k * o.n * w / 8
  let all := ofBytesLE (s.slotBytes o 0 e)
  let scs := s.slotBytes o e (o.n * o.k / 32)
  { el := fun k n => elemVal d.fmt (streamAt all w (k * o.n + n))
    sc := fun j n => if d.mx then scaleExp ((scs.getD (j * o.n + n) 0).toNat) else some 0 }

/-- The poisoned columns of a slot: those of a poisoned word's elements, or of a poisoned scale (R236, R448). -/
def State.badCols (s : State) (o : MOp) (d : SlotDesc) : List Nat :=
  let w := formatBits d.fmt
  let e := o.k * o.n * w / 8
  let n := e + (if d.mx then o.n * o.k / 32 else 0)
  let psnAt (i : Nat) : Bool := nmem (wordBase (o.slotBase + i)) s.psn
  (upto n).foldl (fun l i =>
    if !psnAt i then l
    else if i < e then (upFrom (8 * i / w) ((8 * i + 7) / w - 8 * i / w + 1)).foldl (fun q x => nins (x % o.n) q) l
    else nins ((i - e) % o.n) l) []

/-- The poisoned rows: those of a poisoned byte of A, kept in `bad`, or of a poisoned captured scale. -/
def MOp.badRows (o : MOp) : List Nat :=
  o.saBad.foldl (fun l i => nins (i / (o.k / 32)) l) (o.bad.foldl (fun l i => nins (i / (o.k * formatBits o.fmt / 8)) l) [])

/-- The MMA itself (R238): the tile, its poison, its predictions, and the status word. -/
def State.runMma (s : State) (o : MOp) (d : SlotDesc) : Out :=
  let key := tileKey o.place o.acc
  let t := s.getTile key
  let a := o.aSide
  let b := s.bSide o d
  let g := if o.tctl.getLsbD 0 then 1 else 32
  let rows := o.badRows
  let cols := s.badCols o d
  let cells := (upto o.m).flatMap (fun r => (upto o.n).map (fun c => (r, c)))
  let isBad (r c : Nat) : Bool := nmem (elemKey o.n r c) t.psn || nmem r rows || nmem c cols
  let res := cells.map (fun q =>
    (q, mmaElement a b (o.tctl.getLsbD 1) q.1 q.2 g o.k (sget 0 t.elems (elemKey o.n q.1 q.2)).toNat))
  let flags := orFlags ((res.filter (fun q => !isBad q.1.1 q.1.2)).map (fun q => q.2.2))
  let psn := (cells.filter (fun q => isBad q.1 q.2)).foldl (fun l q => nins (elemKey o.n q.1 q.2) l) t.psn
  let elems := res.foldl (fun m q => sset 0 m (elemKey o.n q.1.1 q.1.2) (BitVec.ofNat 32 q.2.1)) t.elems
  let t' := { t with elems := elems, psn := psn }
  let t' := if t.chk then
      { t' with
        pr := (upto o.m).foldl (fun m r => sset 0 m r (BitVec.ofNat 32 (predict (sget 0 m r).toNat
          ((upto o.n).flatMap (fun c => (upto o.k).map (fun k => scaledProduct a b r c k)))))) t.pr
        pcs := (upto o.n).foldl (fun m c => sset 0 m c (BitVec.ofNat 32 (predict (sget 0 m c).toNat
          ((upto o.m).flatMap (fun r => (upto o.k).map (fun k => scaledProduct a b r c k)))))) t.pcs }
    else t'
  let (pm, pn) := firstPoison o.n psn
  .next ((s.setTile key t').endM o
    (matWord (if psn = [] then 0 else 3) o.sub flags false 0 0 0 pm pn psn.length))

/-- The next beat of A: at most 64 bytes of one row, from a bank in scratchpad mode (R369). -/
def State.readA (s : State) (o : MOp) (row : Nat) : Out :=
  let c := o.prog % row
  let n := min (row - c) 64
  let ia := o.ia + o.prog / row * o.pitch + c
  let inPad := match winOf s.ownPart ia with
    | some (.sram k off) => s.sramAllows k off n .amo
    | _ => false
  if !inPad then .next (s.endM o (matWord 4 o.sub 0 false 0x30 0 0 0 0 0))
  else match s.engineRead o.who ia n with
    | (s, .hold) => .next (s.postOnce (.mmaBay o.id))
    | (s, .fault f) => .next (s.endM o (matWord 4 o.sub 0 false f.code 0 0 0 0 0))
    | (s, .ok l) =>
      let bad := ((upto n).zip l).filterMap (fun q => q.2.2.map (fun _ => o.prog + q.1))
      .next ((s.onMOp o.id (fun q => { q with bytes := q.bytes ++ l.map (·.1), bad := q.bad ++ bad, prog := q.prog + n })).postOnce
        (.mmaBay o.id))

/-- MMA_BAY (R369). -/
def execMmaBay (op : Nat) (s : State) : Out :=
  match s.mopLive op MOpState.open_ with
  | none => .next s
  | some o =>
    let (s, o) := s.arriveBay o
    let d := s.getSlot (slotKey o.stack o.bay o.slot)
    let row := o.k * formatBits o.fmt / 8
    if o.st = .waiting then
      if !s.tileTurn o || s.bayBusy o || s.loadingSlot o || s.readyAhead o then .next (s.postOnce (.mmaBay op))
      else if !d.valid then .next (s.endM o (matWord 5 o.sub 0 false 0 0 0 0 0 0))
      else if d.k ≠ o.k ∨ d.n ≠ o.n then .next (s.endM o (matWord 6 o.sub 0 false 0 0 0 0 0 0))
      else .next ((s.onMOp op (fun q => { q with st := .running })).postOnce (.mmaBay op))
    else if o.prog < o.m * row then s.readA o row
    else if o.beats ≠ 0 then .next (s.postOnce (.mmaBay op))
    else s.runMma o d

/-- MMAZ_BAY (R364). -/
def execMmazBay (op : Nat) (s : State) : Out :=
  match s.mopLive op MOpState.open_ with
  | none => .next s
  | some o =>
    let (s, o) := s.arriveBay o
    if !s.tileTurn o || s.bayBusy o then .next (s.postOnce (.mmazBay op))
    else
      let key := tileKey o.place o.acc
      .next ((s.setTile key (s.getTile key).clear).endM o (matWord 0 2 0 false 0 0 0 0 0 0))

/-! ## Epilogue stores (R371, R374) -/

/-- An FP32 element in the output format, RNE with overflow to infinity (R371). -/
def outCode (ofmt c : Nat) : Nat × Nat :=
  if ofmt = 0 then (c, 0) else if ofmt = 1 then bf16.put 0 false (fp32.decode c) else fp16.put 0 false (fp32.decode c)

/-- An MSTA reads and converts its tile, and clears it with `clr`: its bytes, its poisoned elements and, in `word`, its flags. -/
def State.convertTile (s : State) (o : MOp) : State × MOp :=
  let key := tileKey o.place o.acc
  let t := s.getTile key
  let cells := upto (o.m * o.n)
  let res := cells.map (fun e => if nmem e t.psn then (0, 0) else outCode o.ofmt (sget 0 t.elems e).toNat)
  let o := { o with bytes := res.flatMap (fun q => bytesLE (outSize o.ofmt) q.1), bad := cells.filter (fun e => nmem e t.psn),
                    word := BitVec.ofNat 64 (orFlags (res.map (·.2))), prog := 0 }
  (if o.on then s.setTile key t.clear else s, o)

/-- The status word of an MSTA (R376). -/
def MOp.mstaWord (o : MOp) (cause : Nat) : W64 :=
  let (pm, pn) := firstPoison o.n o.bad
  matWord (if cause ≠ 0 then 4 else if o.bad ≠ [] then 3 else 0) 3 o.word.toNat o.held cause 0 0 pm pn o.bad.length

/-- The IAs of the bytes of a row's poisoned elements. -/
def MOp.badBytes (o : MOp) (r : Nat) : List Nat :=
  (o.bad.filter (fun e => decide (e / o.n = r))).flatMap (fun e => upFrom (o.ia + r * o.pitch + e % o.n * outSize o.ofmt) (outSize o.ofmt))

/-- The rows of an MSTA from the next one on are written together, each checked before any is written; a row that faults ends it after the
rows before it (R167). -/
def State.commitRows (s : State) (o : MOp) : Nat → Nat → State × Got Unit
  | 0, _ => (s, .ok ())
  | f + 1, r =>
    let row := o.n * outSize o.ofmt
    match s.engineReady o.who (o.ia + r * o.pitch) row (s.mopTag o) with
    | (s, .fault f) => (s, .fault f)
    | (s, .hold) => (s, .hold)
    | (s, .ok at_) => match s.enginePut o.who (o.ia + r * o.pitch) at_ ((o.bytes.drop (r * row)).take row) (s.mopTag o) (o.badBytes r) with
      | (s, .ok _) => State.commitRows s o f (r + 1)
      | r => r

/-- A held MSTA commits: its stores are performed at once, or none is yet (R167, R374). -/
def State.commitMsta (s : State) (o : MOp) : Out :=
  match s.commitRows o o.m 0 with
  | (t, .hold) => .next ((s.keepWaits t).postOnce (.mstaBay o.id))
  | (s, .fault f) => .next (s.endM o (o.mstaWord f.code))
  | (s, .ok _) => .next (s.endM o (o.mstaWord 0))

/-- The next row of an MSTA is written, once its beats have crossed (R371). -/
def State.writeRow (s : State) (o : MOp) : Out :=
  let row := o.n * outSize o.ofmt
  if o.beats ≠ 0 then .next (s.postOnce (.mstaBay o.id))
  else if o.held then s.commitMsta o
  else if o.prog < o.m then
    match s.engineWrite o.who (o.ia + o.prog * o.pitch) ((o.bytes.drop (o.prog * row)).take row) (s.mopTag o) (o.badBytes o.prog) with
    | (s, .hold) => .next (s.postOnce (.mstaBay o.id))
    | (s, .fault f) => .next (s.endM o (o.mstaWord f.code))
    | (s, .ok _) => .next ((s.onMOp o.id (fun q => { q with prog := q.prog + 1 })).postOnce (.mstaBay o.id))
  else .next (s.endM o (o.mstaWord 0))

/-- The bytes free in the store hold of a hart's quad (R374). -/
def State.holdFree (s : State) (place : Nat) : Nat :=
  65536 - ((s.mops.filter (fun m => decide (m.st = .heldS) && decide (m.place / 4 = place / 4))).map (fun m => m.bytes.length)).sum

/-- MSTA_BAY (R371, R374): in its issue-order place the operation converts its tile and writes it, holds it or is deferred; then,
row by row, its bytes are written. -/
def execMstaBay (op : Nat) (s : State) : Out :=
  match s.mopLive op MOpState.open_ with
  | none => .next s
  | some o =>
    let (s, o) := s.arriveBay o
    if o.st = .running then s.writeRow o
    else if !s.tileTurn o || s.bayBusy o then .next (s.postOnce (.mstaBay op))
    else if (s.getTile (tileKey o.place o.acc)).chk then
      let size := o.m * o.n * outSize o.ofmt
      if s.holdFree o.place < size then .next (s.onMOp op (fun q => { q with st := .deferred, held := true }))
      else if o.beats ≠ 0 then .next (s.postOnce (.mstaBay op))
      else
        let (s, o) := s.convertTile o
        .next (s.onMOp op (fun _ => { o with st := .heldS, held := true })).markReady
    else if o.beats ≠ 0 then .next (s.postOnce (.mstaBay op))
    else
      let (s, o) := s.convertTile o
      .next ((s.onMOp op (fun _ => { o with st := .running })).postOnce (.mstaBay op))

/-! ## Checksums (R372, R373) -/

/-- The predictions of a tile's present elements: rounded exact sums of its rows and columns (R372). -/
def Tile.predictAll (t : Tile) (m n : Nat) : Tile :=
  let el (r c : Nat) : FV := fp32.decode (sget 0 t.elems (elemKey n r c)).toNat
  { t with
    pr := (upto m).foldl (fun q r => sset 0 q r (BitVec.ofNat 32 (roundTotal ((upto n).map (el r))))) []
    pcs := (upto n).foldl (fun q c => sset 0 q c (BitVec.ofNat 32 (roundTotal ((upto m).map (fun r => el r c))))) [] }

/-- MCHK_BAY (R372). -/
def execMchkBay (op : Nat) (s : State) : Out :=
  match s.mopLive op MOpState.open_ with
  | none => .next s
  | some o =>
    let (s, o) := s.arriveBay o
    if !s.tileTurn o || s.bayBusy o then .next (s.postOnce (.mchkBay op))
    else
      let key := tileKey o.place o.acc
      let t := s.getTile key
      let ok := matWord 0 4 0 false 0 0 0 0 0 0
      if o.on then .next ((s.setTile key ({ t with chk := true }.predictAll o.m o.n)).endM o ok)
      else
        let s := s.setTile key { t with chk := false, pr := [], pcs := [] }
        .next ((s.dropMstas (fun m => m.sameTile o)).endM o ok)

/-- The element that MVER corrected is rewritten in a held MSTA's bytes (R374). -/
def MOp.patch (o : MOp) (e code : Nat) : MOp :=
  let z := outSize o.ofmt
  { o with bytes := o.bytes.take (e * z) ++ bytesLE z (outCode o.ofmt code).1 ++ o.bytes.drop ((e + 1) * z) }

/-- A verified tile settles the held and deferred MSTAs issued before (R374): each goes on to write its bytes with the hart's
generation at commit. -/
def State.settle (s : State) (o : MOp) (fix : Option (Nat × Nat)) : State :=
  let tag := match s.hartAt o.place with
    | some h => h.gen
    | none => o.tag
  (s.mops.filter (fun m => m.sameTile o && decide (m.id < o.id) && (decide (m.st = .heldS) || decide (m.st = .deferred)))).foldl
    (fun t m =>
      let r : State × MOp :=
        if m.st = .deferred then t.convertTile m
        else (t, match fix with | some (e, c) => m.patch e c | none => m)
      let t := (r.1.onMOp m.id (fun _ => { r.2 with st := .running, tag := tag })).postOnce (.mstaBay m.id)
      if m.beats = 0 then t else t.postOnce (.vbusBeatGrant m.stack m.bay)) s

/-- MVER in its place (R373): the verdict, the correction, and what becomes of the MSTAs it settles. -/
def State.runMver (s : State) (o : MOp) : State :=
  let key := tileKey o.place o.acc
  let t := s.getTile key
  let wait (s : State) (w : W64) : State := (s.onMOp o.id (fun q => { q with st := .running, word := w })).postOnce (.mverBay o.id)
  let drop (s : State) : State := s.dropMstas (fun m => m.sameTile o && decide (m.id < o.id))
  if !t.chk then wait s (matWord 8 5 0 false 0 0 0 0 0 0)
  else if t.psn ≠ [] then
    let (pm, pn) := firstPoison o.n t.psn
    let f := (Config.freeWord s.free).toNat
    wait (drop { s with free := s.free + 1 }) (matWord 3 5 0 false 0 (f % 256) (f / 256 % 256) pm pn t.psn.length)
  else
    let v := verify (fun r c => (sget 0 t.elems (elemKey o.n r c)).toNat) (fun r => (sget 0 t.pr r).toNat)
      (fun c => (sget 0 t.pcs c).toNat) o.m o.n o.tol
    let w := matWord v.code 5 0 false 0 v.rows v.cols v.m v.n 0
    if v.code = 2 then
      let f := (Config.freeWord s.free).toNat
      let one := decide (v.rows = 1) && decide (v.cols = 1)
      wait (drop { s with free := s.free + 1 }) (matWord 2 5 0 false 0 v.rows v.cols (if one then v.m else f % 256)
        (if one then v.n else f / 256 % 256) 0)
    else
      let e := elemKey o.n v.m v.n
      let t' := if v.code = 1 then { t with elems := sset 0 t.elems e (BitVec.ofNat 32 v.val) } else t
      let s := s.setTile key (t'.predictAll o.m o.n)
      let s := if v.code = 1 then s.logEvent o.stack 7 0 0 0 else s
      wait (s.settle o (if v.code = 1 then some (e, v.val) else none)) w

/-- MVER_BAY (R373, R374): the verdict, then, once the MSTAs it settled have ended, its own end. -/
def execMverBay (op : Nat) (s : State) : Out :=
  match s.mopLive op MOpState.open_ with
  | none => .next s
  | some o =>
    let (s, o) := s.arriveBay o
    if o.st = .running then
      .next (if s.mops.any (fun m => m.sameTile o && decide (m.sub = 3) && decide (m.id < o.id) && decide (m.st = .running)) then
          s.postOnce (.mverBay op)
        else s.endM o o.word)
    else if !s.tileTurn o || s.bayBusy o then .next (s.postOnce (.mverBay op))
    else .next (s.runMver o)

/-! ## Completion (R376) -/

/-- An operation of the same tile that ended earlier is not complete. -/
def State.endedBefore (s : State) (o : MOp) : Bool :=
  (s.mops.takeWhile (fun m => decide (m.id ≠ o.id))).any (fun m => decide (m.st = .ended) && m.sameTile o)

/-- Another operation has written its status word into a cell and has not arrived there: the slot is its own until it has (R376). -/
def State.cellTaken (s : State) (op ia : Nat) : Bool :=
  s.mops.any (fun m => m.told && decide (m.id ≠ op) && decide (m.barrier = some ia))

/-- MATRIX_OP_COMPLETE (R376): the status slot, the tile's last status and the arrival; then, once it has arrived, the command's
number is freed (R196). With the release flag every write of the operation is performed first, and the status word is before the arrival
(R162). -/
def execMatrixOpComplete (op : Nat) (s : State) : Out :=
  match s.mopLive op (fun x => decide (x = .ended)) with
  | none => .next s
  | some o =>
    if o.sent then
      .next (if s.signalled op then s.postOnce (.matrixOpComplete op)
        else ({ s with mops := s.mops.filter (fun m => decide (m.id ≠ op)) }.dropParts op).freeCmd o.place o.cnum)
    else if s.endedBefore o then .next (s.postOnce (.matrixOpComplete op))
    else
      let rec_ (s : State) : State :=
        let s := if o.sub = 1 ∨ 8256 ≤ o.place then s
          else s.setTile (tileKey o.place o.acc) { s.getTile (tileKey o.place o.acc) with last := o.word }
        (s.onMOp op (fun q => { q with told := true, sent := true })).postOnce (.matrixOpComplete op)
      match o.barrier with
      | none => .next (rec_ s)
      | some ia =>
        let arrive (s : State) : Out :=
          if s.updates.any (fun u => decide (u.owner = op)) then
            .next ((s.onMOp op (fun q => { q with told := true })).postOnce (.matrixOpComplete op))
          else .next ((rec_ s).signal ia 0 (decide (2 ≤ o.word.toNat % 16)) o.who o.tag op)
        if o.told then arrive s
        else if s.cellTaken op ia then .next (s.postOnce (.matrixOpComplete op))
        else match s.cmdReleased o.rel (some o.place) op with
          | (s, false) => .next (s.postOnce (.matrixOpComplete op))
          | (s, true) => match s.engineWrite o.who (ia + 16) (bytesLE 8 o.word.toNat) (s.mopTag o) with
            | (s, .hold) => .next (s.postOnce (.matrixOpComplete op))
            | (s, .fault _) => arrive (s.logEvent o.stack 6 0 0 ia)
            | (s, .ok _) => arrive s

end Sys2Proof.Machine
end

