-- ==== Sys2Proof/Machine/VectorCfg.lean ====
section
/-! DEFINITION. Vector configuration (R208, R213, R306, R307). -/
namespace Sys2Proof.Machine

/-- A `vsew` code and a `vlmul` code that are not reserved (R208). -/
def typeOk (sew mul : BitVec 3) : Bool := decide (sew.toNat ≤ 5) && decide (mul ≠ 4)

/-- The first VSETVL or VSETVLI of a hart (R213): every `v` register becomes U with value 0. -/
def Hart.vinit (h : Hart) : Hart := if h.vi then h else { h with vi := true, v := Vector.replicate 32 {} }

/-- `vl` and `vtype` set (R306); the hart's new `vl`. `none` for the length asks for VLMAX. -/
def Hart.setType (h : Hart) (ok : Bool) (sew mul : BitVec 3) (avl : Option Nat) : Hart :=
  let h := h.vinit
  if ok && typeOk sew mul then
    let h := { h with vsew := sew, vlmul := mul, vill := false }
    { h with vl := min (avl.getD h.vlmax) h.vlmax }
  else { h with vsew := 0, vlmul := 0, vill := true, vl := 0 }

/-- VSETVL and VSETVLI (R306): `ty` gives whether the type's other bits are 0, and its fields. -/
def State.setvl (s : State) (sc : Sc) (rd rs1 : Reg) (rs : List Reg) (ty : Hart → Bool × BitVec 3 × BitVec 3) : Out :=
  match s.ready sc false (rs1 :: rs) with
  | .go s _ =>
    let (ok, sew, mul) := ty s.hart
    let h := s.hart.setType ok sew mul (if rs1 = 0 then none else some (s.hart.kx rs1).toNat)
    (s.upd (fun _ => { h with cUnk := h.cUnk &&& 6 })).done rd (BitVec.ofNat 64 h.vl)
  | .skip s => (s.upd (fun h => { h with cUnk := h.cUnk ||| 1 })).doneX rd .unknown
  | .out o => o

/-- VSETVL (R306): the type is bits 5:0 of `x[rs2]`, and bits 61:6 must be 0. -/
def execVsetvl (sc : Sc) (rd rs1 rs2 : Reg) (s : State) : Out :=
  s.setvl sc rd rs1 [rs2] (fun h =>
    let t := h.kx rs2
    (decide (t.extractLsb' 6 56 = 0), t.extractLsb' 0 3, t.extractLsb' 3 3))

/-- VSETVLI (R306): the type is in the word. -/
def execVsetvli (sc : Sc) (rd rs1 : Reg) (l w : BitVec 3) (s : State) : Out :=
  s.setvl sc rd rs1 [] (fun _ => (true, w, l))

/-- VSETDIM (R307). -/
def execVsetdim (sc : Sc) (rd rs1 rs2 : Reg) (e : BitVec 2) (s : State) : Out :=
  match s.ready sc false [rs1, rs2] with
  | .go s _ =>
    let n := min (s.hart.kx rs1).toNat 65535
    let d := e.toNat - 1
    (s.upd (fun h => { h with dlen := h.dlen.setIfInBounds d (BitVec.ofNat 16 n),
                              dstr := h.dstr.setIfInBounds d (h.kx rs2) })).done rd (BitVec.ofNat 64 n)
  | .skip s => (s.upd (fun h => { h with cUnk := h.cUnk ||| 2 })).doneX rd .unknown
  | .out o => o

end Sys2Proof.Machine
end

