-- ==== Sys2Proof/Machine/Image.lean ====
section
/-! DEFINITION. The save area and the register image (R213 to R216), and vector registers under a new grant (R180). -/
namespace Sys2Proof.Machine

/-! ## Layout (R215) -/

/-- A field of an image: `n` bytes from an offset. -/
def fld (g off n : Nat) : Nat := g / 2 ^ (8 * off) % 2 ^ (8 * n)

def fldW (g off : Nat) : W64 := BitVec.ofNat 64 (fld g off 8)

def offX : Nat := 0x40
def offForm : Nat := 0x140
def offCsr : Nat := 0x340
def offRange : Nat := 0x540
def offSym : Nat := 0x740
def offHeld : Nat := 0x940
def offDir : Nat := 0x1940
def offChain : Nat := 0x1D40
def offMask : Nat := 0x3C40

/-- Where the payloads begin, and where the tiles do. -/
def goff (vlen : Nat) : Nat := offMask + 7 * (vlen / 2)
def aoff (vlen ng : Nat) : Nat := goff vlen + ng * (vlen / 8)

/-- A part of an image that is written: its offset and its bytes. -/
abbrev Chunk := Nat × List Byte

/-- The length of the parts before the tiles, and of all, from the first 0x3C40 bytes. -/
def imgBody (g : Nat) : Nat := aoff (fld g 4 2) (fld g 6 2)

/-! ## Checks (R216) -/

/-- A chain record is as R216 wants it: at most 8 steps, each below the count with a defined operation and a format code 0x00 to 0x02.
Every one of the 31 records is checked, named or not, and no step at or above a count is (log 93). -/
def chainOk (g i : Nat) : Bool :=
  let o := offChain + 256 * i
  decide (fld g o 1 ≤ 8) &&
    (upto (fld g o 1)).all (fun j => decide (1 ≤ fld g (o + 8 + 24 * j) 1) && decide (fld g (o + 8 + 24 * j) 1 ≤ 4) && decide (fld g (o + 9 + 24 * j) 1 ≤ 2))

def formOk (g n : Nat) : Bool :=
  let o := offForm + 16 * n
  decide (fld g (o + 8) 1 ≤ 3) && decide (fld g (o + 9) 1 ≤ 15) && (decide (fld g (o + 8) 1 ≠ 2) || decide (fld g (o + 10) 1 ≤ 30))

def symOk (g n : Nat) : Bool :=
  let o := offSym + 32 * n
  decide (fld g o 1 ≤ 3) && decide (fld g (o + 3) 1 ≤ 0x0B) && (decide (fld g (o + 3) 1 = 0) || decide (fld g o 1 = 1) || decide (fld g o 1 = 2))

def heldOk (g n : Nat) : Bool :=
  let o := offHeld + 128 * n
  decide (3 ≤ fld g (o + 7) 1) && decide (fld g (o + 7) 1 ≤ 6) && (upto 6).all (fun k => decide (fld g (o + 104 + k) 1 ≤ 15))

def dirOk (g n : Nat) : Bool :=
  let o := offDir + 32 * n
  decide (fld g o 1 ≤ 2) && decide (fld g (o + 2) 1 ≤ 5)

/-- The checks of R216 on an area or an image, from its first 0x3C40 bytes. An `nheld` above 32, which R216 does not list, fails them too: there
is no 33rd entry (log 93). -/
def imgOk (g : Nat) : Bool :=
  decide (fld g 0 2 = 1) && decide (fld g 2 1 % 4 ≠ 2) && nmem (fld g 4 2) [1024, 2048, 4096] &&
    decide (fld g 6 2 = ((upto 32).filter (fun n => decide (fld g (offDir + 32 * n) 1 = 2))).length) &&
    (upto 32).all (formOk g) && (upto 31).all (chainOk g) && (upto 16).all (symOk g) && decide (fld g 21 1 ≤ 32) && (upto (fld g 21 1)).all (heldOk g) &&
    (upto 32).all (dirOk g)

/-! ## Reading (R215) -/

/-- The steps of a chain record. -/
def imgChain (g i : Nat) : List ChainStep :=
  let o := offChain + 256 * i
  (upto (fld g o 1)).map (fun j =>
    let p := o + 8 + 24 * j
    { op := fld g p 1, fmt := fld g (p + 1) 1, rm := BitVec.ofNat 3 (fld g (p + 2) 1), pos := fld g (p + 3) 1, k1 := fldW g (p + 8),
      k2 := fldW g (p + 16) })

/-- The producer of a symbol slot entry. -/
def imgProducer (g n : Nat) : Producer :=
  let o := offSym + 32 * n
  let f := fld g (o + 2) 1
  { va := fldW g (o + 8), width := fld g (o + 1) 1, sext := bitOf f 1, acq := bitOf f 0, rel := bitOf f 5, scope := f / 4 % 8 + 1,
    amo := fld g (o + 3) 1, opnd := fldW g (o + 16), cmp := fldW g (o + 24) }

/-- A symbol slot. -/
def imgSlot (g : Nat) (n : Nat) : Slot :=
  let o := offSym + 32 * n
  let st := fld g o 1
  let c := fld g (o + 4) 4
  if st = 0 then .free
  else if st = 1 then .pending (imgProducer g n) 0
  else if st = 2 then (if c = 0x26 ∨ c = 0x2B then .held c (imgProducer g n) none else .poisoned c (fldW g (o + 8)))
  else .copyStatus (fld g (o + 8) 1 % 32)

/-- An `x` register of a save area. A register poisoned by a symbol whose slot has since been taken again keeps the fault it was saved with. -/
def imgX (g : Nat) (was : Hart) (n : Nat) : XVal :=
  let o := offForm + 16 * n
  let b := fldW g (offX + 8 * n)
  let k := fld g (o + 8) 1
  let slot := fld g (o + 9) 1
  if n = 0 ∨ k = 0 then .known (if n = 0 then 0 else b)
  else if k = 1 then .form slot (fldW g o) b
  else if k = 2 then .chain slot (imgChain g (fld g (o + 10) 1))
  else match imgSlot g slot with
    | .poisoned c va => .poisoned slot c va
    | _ => (was.x[n]?).getD (.known b)

/-- A vector register as it lies in an area, at the VLEN of the save. -/
def imgV (g : Nat) (was : Hart) (n : Nat) : VReg :=
  let o := offDir + 32 * n
  let vlen := fld g 4 2
  let t := fld g o 1
  let sew := BitVec.ofNat 3 (fld g (o + 2) 1)
  let base := fldW g (o + 8)
  let stride := if t = 1 then fldW g (o + 16) else 0
  if t = 2 then { tag := .G, vsew := sew, data := BitVec.ofNat 4096 (fld g (fld g (o + 4) 4) (vlen / 8)) }
  else
    let r : VReg := { tag := if t = 0 then .U else .A, vsew := sew, base := base, stride := stride, data := expand vlen sew base stride }
    if bitOf (fld g (o + 1) 1) 0 then
      let slot := fld g (o + 1) 1 / 16
      match imgSlot g slot with
      | .poisoned c va => { r with sypsn := some (slot, c, va) }
      | .free => { r with sypsn := ((was.v[n]?).map (·.sypsn)).getD none }
      | _ => if ((was.v[n]?).map (fun q => q.sypsn.isSome)).getD false then { r with sypsn := ((was.v[n]?).map (·.sypsn)).getD none }
             else { r with sy := some (slot, fldW g (o + 24)) }
    else r

/-- A mask register of an area. -/
def imgM (g n : Nat) : BitVec 16384 :=
  if n = 0 then 0 else BitVec.ofNat 16384 (fld g (offMask + (n - 1) * (fld g 4 2 / 2)) (fld g 4 2 / 2))

/-! ## A new grant (R180) -/

/-- Two registers have the same width and the same symbolic state. -/
def VReg.alike (a b : VReg) : Bool := decide (a.vsew = b.vsew) && decide (a.sy = b.sy) && decide (a.sypsn = b.sypsn)

/-- All members are like the first. -/
def allLike (p : VReg → VReg → Bool) : List VReg → Bool
  | [] => true
  | a :: l => l.all (p a)

/-- The base of member `k` of a group whose members hold `n` elements each, modulo 2^SEW (R201). -/
def memberBase (sew : BitVec 3) (b : W64) (k n : Nat) (stride : W64) : W64 :=
  BitVec.ofNat 64 ((b + BitVec.ofNat 64 (k * n) * stride).toNat % 2 ^ sewBits sew)

/-- The members of an A group have the bases of R201. -/
def basesRun (old : Nat) (l : List VReg) : Bool :=
  match l with
  | [] => true
  | a :: _ => ((upto l.length).zip l).all (fun q =>
      decide (memberBase a.vsew q.2.base 0 0 0 = memberBase a.vsew a.base q.1 (old / sewBits a.vsew) a.stride))

/-- A register in its compact state, at another VLEN. -/
def VReg.atVlen (r : VReg) (new : Nat) : VReg := { r with data := expand new r.vsew r.base (if r.tag = .U then 0 else r.stride) }

/-- A group of registers at another VLEN, its elements in place (R180). A symbolic member of a mixed group stays compact (log 24). -/
def regroup (old new : Nat) (sew : BitVec 3) (l : List VReg) : List VReg :=
  if l.all (fun r => decide (r.tag = .U)) && allLike (fun a b => a.alike b && decide (memberBase a.vsew a.base 0 0 0 = memberBase a.vsew b.base 0 0 0)) l then
    l.map (fun r => r.atVlen new)
  else if l.all (fun r => decide (r.tag = .A)) && allLike (fun a b => a.alike b && decide (a.stride = b.stride)) l && basesRun old l then
    ((upto l.length).zip l).map (fun q =>
      let b0 := ((l.head?).map (·.base)).getD 0
      let b := if q.2.sy.isSome then b0 + BitVec.ofNat 64 (q.1 * (new / sewBits q.2.vsew)) * q.2.stride
        else memberBase q.2.vsew b0 q.1 (new / sewBits q.2.vsew) q.2.stride
      ({ q.2 with base := b } : VReg).atVlen new)
  else
    let all := (((upto l.length).zip l).map (fun q => q.2.data.toNat % 2 ^ old * 2 ^ (old * q.1))).foldl (· + ·) 0
    ((upto l.length).zip l).map (fun q =>
      if q.2.sy.isSome ∨ q.2.sypsn.isSome then q.2.atVlen new
      else ({ tag := .G, vsew := sew, data := BitVec.ofNat 4096 (all / 2 ^ (new * q.1) % 2 ^ new) } : VReg))

/-- The vector registers under a grant, from those at the VLEN of the save, in groups of `l` registers. -/
def regrant (old new l : Nat) (sew : BitVec 3) (v : Vector VReg 32) : Vector VReg 32 :=
  if old = new then v
  else
    let gs := (upto (32 / l)).flatMap (fun k => regroup old new sew ((v.toList.drop (k * l)).take l))
    Vector.ofFn (fun i => (gs[i.val]?).getD {})

/-- The group length of a saved `vtype` (R180). -/
def typeGroup (vill : Bool) (mul : BitVec 3) : Nat := if vill then 1 else groupLen (lmul8 mul)

/-! ## Writing (R215) -/

/-- The tag an area records: a register with poisoned elements is expanded (R447). -/
def VReg.saveTag (r : VReg) : Tag := if r.psn ≠ 0 then .G else r.tag

def Tag.code : Tag → Nat
  | .U => 0
  | .A => 1
  | .G => 2

/-- A G payload; poisoned elements are written as all ones (R447). -/
def VReg.payload (r : VReg) (vlen : Nat) : List Byte := bytesLE (vlen / 8) ((r.data ||| r.psn).toNat)

/-- The numbers of the G-tagged registers among some. -/
def Hart.gRegs (h : Hart) (ns : List Nat) : List Nat := ns.filter (fun n => ((h.v[n]?).map (fun r => decide (r.saveTag = .G))).getD false)

/-- The header (R215). -/
def headBytes (lvl rung vlen ng : Nat) (pc : W64) (ao nacc nheld : Nat) : List Byte :=
  bytesLE 2 1 ++ bytesLE 1 lvl ++ bytesLE 1 rung ++ bytesLE 2 vlen ++ bytesLE 2 ng ++ bytesLE 8 pc.toNat ++ bytesLE 4 ao ++
    bytesLE 1 nacc ++ bytesLE 1 nheld ++ bytesLE 42 0

/-- The slot of an `x` register: its value, or the `b` term of its form; of a chain or a poisoned register the spec gives no value (log 25). -/
def Hart.xSlot (h : Hart) (fr n : Nat) : Nat :=
  match (h.x[n]?).getD (.known 0) with
  | .known v => v.toNat
  | .form _ _ b => b.toNat
  | _ => (Config.freeWord (fr + n)).toNat

/-- The chains among the `x` registers, in ascending order: the position of one is its record. -/
def Hart.chainRegs (h : Hart) : List Nat :=
  (upFrom 1 31).filter (fun n => match h.x[n]? with | some (.chain _ _) => true | _ => false)

/-- An `x` form table entry. -/
def Hart.formBytes (h : Hart) (n : Nat) : List Byte :=
  let e (a kind slot chain : Nat) : List Byte := bytesLE 8 a ++ bytesLE 1 kind ++ bytesLE 1 slot ++ bytesLE 1 chain ++ bytesLE 5 0
  match (h.x[n]?).getD (.known 0) with
  | .form s a _ => e a.toNat 1 s 0
  | .chain s _ => e 0 2 s (h.chainRegs.findIdx (fun m => decide (m = n)))
  | .poisoned s _ _ => e 0 3 s 0
  | _ => e 0 0 0 0

/-- A chain record. -/
def chainBytes (l : List ChainStep) : List Byte :=
  let steps := l.flatMap (fun t => bytesLE 1 t.op ++ bytesLE 1 t.fmt ++ bytesLE 1 t.rm.toNat ++ bytesLE 1 t.pos ++ bytesLE 4 0 ++
    bytesLE 8 t.k1.toNat ++ bytesLE 8 t.k2.toNat)
  bytesLE 1 l.length ++ bytesLE 7 0 ++ steps ++ bytesLE (248 - steps.length) 0

/-- The chain record of a register. -/
def Hart.chainOf (h : Hart) (n : Nat) : List Byte :=
  match (h.x[n]?).getD (.known 0) with
  | .chain _ l => chainBytes l
  | _ => bytesLE 256 0

/-- The CSRs of the save slots (R207). -/
def Hart.csrSlot (h : Hart) (i : Nat) : Nat :=
  let d (k : Nat) (f : TrapBank → Nat) : Nat := if k = 0 then 0 else f h.sup
  if i = 0 then h.fflags.toNat
  else if i = 1 then h.frm.toNat
  else if i = 2 then h.fen.toNat
  else if i = 3 then h.vstart.toNat
  else if i = 4 then h.vresid.toNat
  else if i = 5 then h.vseed.toNat
  else if i < 9 then ((h.dlen[i - 6]?).getD 0).toNat
  else if i < 12 then ((h.dstr[i - 9]?).getD 0).toNat
  else if i < 15 then ((h.didx[i - 12]?).getD 0).toNat
  else if i = 15 then h.tctl.toNat
  else if i = 16 then h.vl
  else if i = 17 then h.vsew.toNat + 8 * h.vlmul.toNat + 2 ^ 62 * b2n h.vi + 2 ^ 63 * b2n h.vill
  else if i = 18 then h.tm
  else if i = 19 then h.tn
  else if i = 20 then h.tk
  else if i = 21 then h.gen.toNat
  else if i = 22 then d 1 (fun b => b.ppl.toNat + 4 * b2n b.ie + 8 * b2n b.pie)
  else if i = 23 then d 1 (·.vec.toNat)
  else if i = 24 then d 1 (·.epc.toNat)
  else if i = 25 then d 1 (·.cause.toNat)
  else if i = 26 then d 1 (·.tval.toNat)
  else if i = 27 then d 1 (·.scr.toNat)
  else if i = 28 then h.fbbase.toNat
  else 0

/-- The range registers (R215). -/
def Ctx.rangeBytes (c : Ctx) (n : Nat) : List Byte :=
  bytesLE 8 (((c.base[n]?).getD 0).toNat * 65536) ++ bytesLE 8 (((c.lim[n]?).getD 0).toNat * 65536) ++
    bytesLE 8 (((c.off[n]?).getD 0).toNat * 65536) ++ bytesLE 8 ((c.ctl[n]?).getD 0).toNat

/-- The range registers read back. -/
def imgRanges (g : Nat) (c : Ctx) : Ctx :=
  let r (i o : Nat) : Nat := fld g (offRange + 32 * i + o) 8
  { c with base := Vector.ofFn (fun i => BitVec.ofNat 32 (r i.val 0 / 65536)), lim := Vector.ofFn (fun i => BitVec.ofNat 32 (r i.val 8 / 65536)),
           off := Vector.ofFn (fun i => BitVec.ofNat 36 (r i.val 16 / 65536)), ctl := Vector.ofFn (fun i => BitVec.ofNat 8 (r i.val 24)) }

/-- A symbol slot entry. A producer that named no scope has cluster scope (R250). -/
def Slot.bytes (q : Slot) : List Byte :=
  let e (st : Nat) (p : Producer) (c : Nat) (va : Nat) : List Byte :=
    bytesLE 1 st ++ bytesLE 1 p.width ++ bytesLE 1 (b2n p.acq + 2 * b2n p.sext + 4 * ((if p.scope = 0 then 2 else p.scope) - 1) + 32 * b2n p.rel) ++ bytesLE 1 p.amo ++
      bytesLE 4 c ++ bytesLE 8 va ++ bytesLE 8 p.opnd.toNat ++ bytesLE 8 p.cmp.toNat
  let none_ : Producer := { va := 0, width := 0, sext := false, acq := false, rel := false, scope := 1, amo := 0, opnd := 0, cmp := 0 }
  match q with
  | .free => e 0 none_ 0 0
  | .pending p _ => e 1 p 0 p.va.toNat
  | .poisoned c va => e 2 none_ c va.toNat
  | .held c p _ => e 2 p c p.va.toNat
  | .copyStatus n => e 3 none_ 0 n

/-- A held-command entry. -/
def Held.bytes (c : Held) : List Byte :=
  let slots := c.ops.map (fun o => match o with | .form s _ _ => some s | _ => none)
  let slotAt (k : Nat) : Option Nat := (slots[k]?).getD none
  let op (k : Nat) : List Byte := match c.ops[k]? with
    | some (.form _ a b) => bytesLE 8 a.toNat ++ bytesLE 8 b.toNat
    | some x => bytesLE 8 x.val.toNat ++ bytesLE 8 0
    | none => bytesLE 16 0
  bytesLE 4 c.word.toNat ++ bytesLE 2 ((upto 16).filter (fun s => slots.any (fun q => decide (q = some s))) |>.map (2 ^ ·)).sum ++
    bytesLE 1 ((upto 6).filter (fun k => (slotAt k).isSome) |>.map (2 ^ ·)).sum ++ bytesLE 1 c.ops.length ++
    (upto 6).flatMap op ++ (upto 6).flatMap (fun k => bytesLE 1 ((slotAt k).getD 0)) ++ bytesLE 2 c.cnum ++ bytesLE 16 0

/-- A held command read back: its number and what was issued before it are its own (R164). -/
def imgHeld (g : Nat) (was : List Held) (n : Nat) : Held :=
  let o := offHeld + 128 * n
  let cnum := fld g (o + 110) 2
  let prev := was.find? (fun c => decide (c.cnum = cnum))
  let fm := fld g (o + 6) 1
  { id := (prev.map (·.id)).getD 0, word := BitVec.ofNat 32 (fld g o 4), cnum := cnum,
    ops := (upto (fld g (o + 7) 1)).map (fun k =>
      if bitOf fm k then .form (fld g (o + 104 + k) 1) (fldW g (o + 8 + 16 * k)) (fldW g (o + 16 + 16 * k)) else .known (fldW g (o + 8 + 16 * k))),
    older := (prev.map (·.older)).getD [], tag := (prev.map (·.tag)).getD 0 }

/-- A directory entry, with the offset of its payload. -/
def VReg.dirBytes (r : VReg) (poff : Nat) : List Byte :=
  let sy := match r.sy, r.sypsn with
    | some (s, _), _ => 1 + 16 * s
    | none, some (s, _, _) => 1 + 16 * s
    | none, none => 0
  let sa : W64 := match r.sy with | some (_, a) => a | none => 0
  let t := r.saveTag
  bytesLE 1 t.code ++ bytesLE 1 (if t = .G then 0 else sy) ++ bytesLE 1 r.vsew.toNat ++ bytesLE 1 0 ++
    bytesLE 4 (if t = .G then poff else 0) ++ bytesLE 8 (if t = .G then 0 else r.base.toNat) ++
    bytesLE 8 (if t = .A then r.stride.toNat else 0) ++ bytesLE 8 sa.toNat

/-- The directory entries and payloads of some registers (R215). -/
def Hart.vecChunks (h : Hart) (ns : List Nat) : List Chunk :=
  let gs := h.gRegs ns
  let at_ (n : Nat) : Nat := goff h.vgrant + gs.findIdx (fun m => decide (m = n)) * (h.vgrant / 8)
  ns.map (fun n => (offDir + 32 * n, ((h.v[n]?).getD {}).dirBytes (at_ n))) ++
    gs.map (fun n => (at_ n, ((h.v[n]?).getD {}).payload h.vgrant))

def Hart.maskChunk (h : Hart) : Chunk :=
  (offMask, (upFrom 1 7).flatMap (fun n => bytesLE (h.vgrant / 2) ((h.m[n]?).getD 0).toNat))

/-- The elements of a tile, row by row (R206); a poisoned one as all ones (R447). -/
def Tile.bytes (t : Tile) (n : Nat) : List Byte :=
  (upto n).flatMap (fun i => if nmem i t.psn then bytesLE 4 0xffffffff else bytesLE 4 (sget (0 : BitVec 32) t.elems i).toNat)

/-- A context's save area (R215, R425). -/
def State.areaChunks (s : State) (h : Hart) (rung : Nat) : List Chunk :=
  let ns := upto 32
  let ng := (h.gRegs ns).length
  let ao := aoff h.vgrant ng
  let tile := h.tm * h.tn
  [(0, headBytes h.level.code.toNat rung h.vgrant ng h.pc ao h.nacc.toNat h.held.length),
   (offX, bytesLE 8 0 ++ (upFrom 1 31).flatMap (fun n => bytesLE 8 (h.xSlot s.free n))),
   (offForm, ns.flatMap h.formBytes),
   (offCsr, (upto 32).flatMap (fun i => bytesLE 8 (h.csrSlot i)) ++ bytesLE 256 0),
   (offRange, (upto 16).flatMap (fun n => (s.getCtx h.ctxKey).rangeBytes n)),
   (offSym, h.sym.toList.flatMap Slot.bytes),
   (offHeld, h.held.flatMap Held.bytes ++ bytesLE (4096 - 128 * h.held.length) 0),
   (offChain, h.chainRegs.flatMap h.chainOf ++
      bytesLE (7936 - 256 * h.chainRegs.length) 0),
   h.maskChunk] ++ h.vecChunks ns ++
   (upto h.nacc.toNat).map (fun n => (ao + 4 * tile * n, (s.getTile (tileKey h.place n)).bytes tile))

/-- The output image at TDONE (R214): the header and what the spill mask names. -/
def State.outputChunks (s : State) (h : Hart) (mask : W64) : List Chunk :=
  let vs := (upto 32).filter (fun n => mask.getLsbD (32 + n))
  let ng := (h.gRegs vs).length
  [(0, headBytes h.level.code.toNat 0 h.vgrant ng (h.pc + 4) (aoff h.vgrant ng) 0 0)] ++
    (if mask.getLsbD 0 then [h.maskChunk, (offCsr, (upto 22).flatMap (fun i => bytesLE 8 (h.csrSlot i)))] else []) ++
    ((upFrom 1 31).filter mask.getLsbD).map (fun n => (offX + 8 * n, bytesLE 8 (h.xSlot s.free n))) ++ h.vecChunks vs

/-! ## Memory -/

/-- Parts of an image are written at an IA. False: they must wait. A part that faults is discarded and logged (R449, log 26). -/
def State.writeChunks (s : State) (w : Who) (ia : Nat) (tag : BitVec 32) : List Chunk → State × Bool
  | [] => (s, true)
  | (o, bytes) :: l =>
    if bytes = [] then State.writeChunks s w ia tag l
    else match s.engineWrite w (ia + o) bytes tag with
      | (s, .hold) => (s, false)
      | (s, .ok _) => State.writeChunks s w ia tag l
      | (s, .fault _) => State.writeChunks (s.logEvent w.stack 6 0 0 (ia + o)) w ia tag l

/-- An area at an IA is read: first what says how long it is. -/
def State.readArea (s : State) (w : Who) (ia : Nat) : State × Got Nat :=
  match s.engineRead w ia offMask with
  | (s, .hold) => (s, .hold)
  | (s, .fault f) => (s, .fault f)
  | (s, .ok l) => match valueOf 0 l with
    | .fault f => (s, .fault f)
    | .hold => (s, .hold)
    | .ok g =>
      if !imgOk g then (s, .ok g)
      else
        let n := imgBody g + 4 * fld g 20 1 * (fld g (offCsr + 8 * 18) 8 % 65536) * (fld g (offCsr + 8 * 19) 8 % 65536)
        match s.engineRead w (ia + offMask) (n - offMask) with
        | (s, .hold) => (s, .hold)
        | (s, .fault f) => (s, .fault f)
        | (s, .ok l) => match valueOf 0 l with
          | .fault f => (s, .fault f)
          | .hold => (s, .hold)
          | .ok b => (s, .ok (g + b * 2 ^ (8 * offMask)))

/-! ## Harts that start -/

/-- A hart as it starts without an image (R213), bound to a core with its grants (R178, R207, R305). -/
def newHart (place vgrant : Nat) (nacc : BitVec 4) (bv : Bool) (bay : BitVec 6) (ctxid : BitVec 16) (vf : Nat) (gen : BitVec 32)
    (pc : W64) : Hart :=
  { place := place, lamp := false, level := .app, pc := pc, vgrant := vgrant, nacc := nacc, bv := bv, bay := if bv then bay else 0,
    ctxid := ctxid, ctxKey := ctxid.toNat, vfid := BitVec.ofNat 6 vf, gen := gen }

/-- `vl` and `vtype` from the image words, at a grant. Reserved codes give `vill` (log 24). -/
def Hart.putType (h : Hart) (vl vtype : Nat) : Hart :=
  let sew := BitVec.ofNat 3 vtype
  let mul := BitVec.ofNat 3 (vtype / 8)
  let bad := bitOf vtype 63 || !typeOk sew mul
  { h with vl := vl % 2 ^ 15, vsew := if bad then 0 else sew, vlmul := if bad then 0 else mul, vill := bad }

/-- A preloaded image (R214): none where its `vl` does not fit the grant (log 24). Symbolic and poisoned registers of the image hold its
words as known values (log 24). -/
def Hart.preload (h : Hart) (g : Nat) : Option Hart :=
  let csr (i : Nat) : Nat := fld g (offCsr + 8 * i) 8
  let vlen := fld g 4 2
  let t : Hart := { h.putType (csr 16) (csr 17) with vi := true }
  if t.vill = false ∧ t.vlmax < t.vl then none
  else
    let v : Vector VReg 32 := Vector.ofFn (fun i => { imgV g {} i.val with sy := none, sypsn := none })
    some { t with
      x := Vector.ofFn (fun i => .known (if i.val = 0 then 0 else fldW g (offX + 8 * i.val)))
      v := regrant vlen h.vgrant (typeGroup t.vill t.vlmul) t.vsew v
      m := Vector.ofFn (fun i => BitVec.ofNat 16384 ((imgM g i.val).toNat % 2 ^ (4 * h.vgrant)))
      dlen := Vector.ofFn (fun i => BitVec.ofNat 16 (csr (6 + i.val)))
      dstr := Vector.ofFn (fun i => BitVec.ofNat 64 (csr (9 + i.val)))
      vresid := BitVec.ofNat 32 (csr 4) }

/-- A saved context on the core it resumes on (R216): every register of the area, the tags under R180, `gen` as it is now, and what the area
has no place for as the hart was saved (log 27). -/
def Hart.restore (was : Hart) (g place vgrant : Nat) (bv : Bool) (bay : BitVec 6) (gen : BitVec 32) : Hart :=
  let csr (i : Nat) : Nat := fld g (offCsr + 8 * i) 8
  let vt := csr 17
  let t : Hart := { was.putType (csr 16) vt with vgrant := vgrant, vi := bitOf vt 62 }
  let st := csr 22
  let ppl := if st % 4 = 2 then was.sup.ppl else BitVec.ofNat 2 st
  { t with
    place := place
    level := (levelOf (BitVec.ofNat 2 (fld g 2 1))).getD .app
    pc := fldW g 8
    x := Vector.ofFn (fun i => imgX g was i.val)
    xBad := 0
    v := regrant (fld g 4 2) vgrant (typeGroup t.vill t.vlmul) t.vsew (Vector.ofFn (fun i => imgV g was i.val))
    m := Vector.ofFn (fun i => BitVec.ofNat 16384 ((imgM g i.val).toNat % 2 ^ (4 * vgrant)))
    sym := Vector.ofFn (fun i => match imgSlot g i.val, was.slot i.val with
      | .held c p _, .held _ _ d => .held c p d
      | q, _ => q)
    held := (upto (fld g 21 1)).map (imgHeld g was.held)
    fflags := BitVec.ofNat 7 (csr 0)
    frm := BitVec.ofNat 3 (csr 1)
    fen := BitVec.ofNat 7 (csr 2)
    vstart := BitVec.ofNat 14 (csr 3)
    vresid := BitVec.ofNat 32 (csr 4)
    vseed := BitVec.ofNat 64 (csr 5)
    dlen := Vector.ofFn (fun i => BitVec.ofNat 16 (csr (6 + i.val)))
    dstr := Vector.ofFn (fun i => BitVec.ofNat 64 (csr (9 + i.val)))
    didx := Vector.ofFn (fun i => BitVec.ofNat 64 (csr (12 + i.val)))
    tctl := BitVec.ofNat 2 (csr 15)
    tm := csr 18 % 65536
    tn := csr 19 % 65536
    tk := csr 20 % 65536
    gen := gen
    sup := { ppl := ppl, ie := bitOf st 2, pie := bitOf st 3, vec := BitVec.ofNat 64 (csr 23 / 4 * 4), epc := BitVec.ofNat 64 (csr 24),
             cause := BitVec.ofNat 64 (csr 25), tval := BitVec.ofNat 64 (csr 26), scr := BitVec.ofNat 64 (csr 27) }
    fbbase := BitVec.ofNat 64 (csr 28 / 64 * 64)
    bv := bv
    bay := if bv then bay else 0
    wait := none
    vq := []
    pre := none
    ibuf := []
    upset := []
    cycle := 0
    instret := 0 }

end Sys2Proof.Machine
end

