-- ==== Sys2Proof/Machine/Nodes.lean ====
section
/-! DEFINITION. Task-graph nodes: descriptors (R406 to R411), homes and pools (R412, R413), firing (R415), grants (R178, R305), binding
(R419), and the end of a node's work: engine resets (R425), and the killing of a context (R455). -/
namespace Sys2Proof.Machine

/-! ## Descriptors (R406 to R410) -/

/-- A word of a descriptor. -/
def Node.w (n : Node) (i : Nat) : Nat := (n.desc.getD i 0).toNat

def Node.kind (n : Node) : Nat := bitsOf (n.w 0) 1 0
def Node.prio (n : Node) : Nat := bitsOf (n.w 0) 5 2
def Node.vlen (n : Node) : Nat := bitsOf (n.w 0) 7 6
def Node.nacc (n : Node) : Nat := bitsOf (n.w 0) 11 8
def Node.bv (n : Node) : Bool := bitOf (n.w 0) 12
def Node.img (n : Node) : Bool := bitOf (n.w 0) 13
def Node.aff (n : Node) : Nat := bitsOf (n.w 0) 31 16
def Node.cls (n : Node) : Nat := bitsOf (n.w 0) 39 38
def Node.gang (n : Node) : Nat := bitsOf (n.w 0) 63 40
def Node.tag (n : Node) : Nat := bitsOf (n.w 5) 31 0
def Node.ctx (n : Node) : Nat := bitsOf (n.w 5) 47 32
def Node.npred (n : Node) : Nat := bitsOf (n.w 5) 63 48
def Node.slist (n : Node) : W64 := BitVec.ofNat 64 (bitsOf (n.w 6) 47 0)
def Node.nsucc (n : Node) : Nat := bitsOf (n.w 6) 56 48
def Node.cell (n : Node) : W64 := BitVec.ofNat 64 (bitsOf (n.w 7) 47 0)
def Node.gsize (n : Node) : Nat := bitsOf (n.w 7) 63 48
def Node.k (n : Node) (i : Nat) : W64 := n.desc.getD (1 + i) 0

/-- A node as its descriptor says, before it is in a pool. -/
def freshNode (desc : List W64) (vf : Nat) : Node :=
  { id := 0, desc := desc, vf := vf, home := 0, st := .waiting, count := 0, since := 0, gst := .none, startT := 0, sentAt := 0, rung := 0,
    code := 0, ecode := 0, cause := 0, core := 0, attempt := 0 }

/-- A change to the node with a number. -/
def State.onNode (s : State) (id : Nat) (f : Node → Node) : State := { s with nodes := modList (fun n => decide (n.id = id)) f s.nodes }
def State.nodeAt (s : State) (id : Nat) : Option Node := s.nodes.find? (fun n => decide (n.id = id))

/-- The stacks a descriptor permits that are not fenced (R412). -/
def State.affOf (s : State) (n : Node) : Nat := ((upto 16).filter (fun k => bitOf n.aff k && !s.fenced k) |>.map (2 ^ ·)).sum

/-- The home stack (R412): the submitter's own if it may, else by the tag. -/
def State.homeOf (s : State) (n : Node) (sub : Option Nat) : Nat :=
  let m := s.affOf n
  match sub with
  | some k => if bitOf m k then k else nthSet m 16 0 (n.tag % popcount 16 m)
  | none => nthSet m 16 0 (n.tag % popcount 16 m)

/-- A descriptor that fails validation (R411); `app`: its submitter is at app. -/
def State.descBad (s : State) (n : Node) (app : Bool) (sub : Option Nat) : Bool :=
  decide (bitsOf (n.w 0) 15 14 ≠ 0) || decide (bitsOf (n.w 6) 63 57 ≠ 0) || (upto 8).any (fun b => decide (bitsOf (n.w (8 + b)) 63 49 ≠ 0)) ||
    decide (n.kind = 3) || decide (n.vlen = 3) || decide (8 < n.nacc) || (decide (n.nacc ≠ 0) && !n.bv) || decide (s.affOf n = 0) ||
    (decide (n.kind = 0) && (decide ((n.k 0).toNat % 4 ≠ 0) || (n.img && decide ((n.k 1).toNat % 64 ≠ 0)) || decide ((n.k 3).toNat % 64 ≠ 0))) ||
    decide (256 < n.nsucc) || (decide (n.nsucc ≠ 0) && decide (n.slist = 0)) || (decide (n.gang ≠ 0) && decide (n.gsize = 0)) ||
    (decide (n.cls = 3) && app) || (decide (n.kind = 2) && decide (n.k 2 ≠ 0)) ||
    s.nodes.any (fun q => decide (q.home = s.homeOf n sub) && decide (q.vf = n.vf) && decide (q.tag = n.tag))

/-- The pool of a home stack, or the share of a VF in it, is full (R412, R469). -/
def State.poolFull (s : State) (home vf : Nat) : Bool :=
  let l := s.nodes.filter (fun q => decide (q.home = home))
  decide (4096 ≤ l.length) || decide (bitsOf (s.getVf vf).qos.toNat 60 49 ≤ (l.filter (fun q => decide (q.vf = vf))).length)

/-! ## Queues of the lamplighter (R430) -/

/-- An entry of the error queue, and vector 1 of its VF (R430, R468). -/
def State.llError (s : State) (k cls vf low : Nat) : State :=
  let e := BitVec.ofNat 64 (2 ^ 63 + cls * 2 ^ 56 + vf * 2 ^ 50 + low % 2 ^ 48)
  (s.setStk k { s.getStk k with errq := (s.getStk k).errq ++ [e] }).msixVf vf 1

/-- A message that crosses dies enters the mesh inbox of its receiver. -/
def State.inboxPut (s : State) (src dst typ vf low : Nat) : State :=
  if src = dst then s
  else s.setStk dst { s.getStk dst with inbox := (s.getStk dst).inbox ++ [BitVec.ofNat 64 (2 ^ 63 + typ * 2 ^ 60 + vf * 2 ^ 54 + low % 2 ^ 54)] }

/-! ## Acceptance -/

/-- A descriptor is validated and accepted into its home pool (R301, R411 to R414): the code of R301. -/
def State.accept (s : State) (desc : List W64) (vf : Nat) (app : Bool) (sub : Option Nat) : State × Nat :=
  let n := freshNode desc vf
  if s.descBad n app sub then (s, 2)
  else
    let home := s.homeOf n sub
    if s.poolFull home vf then (s, 1)
    else
      let t := s.getStk home
      let mine (q : Nat × Nat) : Bool := decide (q.1 = vf) && decide (q.2 = n.tag)
      let early := (t.decs.filter mine).length
      let s := s.setStk home { t with decs := t.decs.filter (fun q => !mine q) }
      let (id, s) := s.fresh
      let n := { n with id := id, home := home, count := n.npred - early, since := s.tick }
      let c := s.getCtx n.ctx
      let s := s.setCtx n.ctx { c with live := true, vf := if c.live then c.vf else vf }
      let s : State := { s with nodes := s.nodes ++ [n] }
      let s := (upto (early - n.npred)).foldl (fun t _ => t.llError home 2 vf n.tag) s
      (if n.count = 0 then s.post (.nodeFire id) else s, 0)

/-- The lamplighter's accesses for a node (R415, R416, R419). -/
def Node.who (n : Node) : Who := engineWho (8192 + 4 * n.home) n.home .app n.vf n.ctx

/-- Bytes read at a VA under a context, with device scope. -/
def State.readVa (s : State) (w : Who) (c : Ctx) (va : W64) (n : Nat) : State × Got Nat :=
  match issue c w.lvl va n .read with
  | .error f => (s, .fault f)
  | .ok (ia, attr) => match s.window va ia n attr with
    | .error f => (s, .fault f)
    | .ok win => match s.loadAt w va ia n attr win 4 .read with
      | (s, .fault f) => (s, .fault f)
      | (s, .hold) => (s, .hold)
      | (s, .ok l) => (s, valueOf va l)

/-- The 16 words of a descriptor. -/
def descWords (v : Nat) : List W64 := (upto 16).map (fun i => BitVec.ofNat 64 (v / 2 ^ (64 * i)))

/-! ## Buffers (R410, R415) -/

/-- What a buffer operand comes to. -/
inductive BufState where
  | ready | unmet | hold
  | fault (cause : Nat)

/-- One buffer operand, its header read under the node's context. -/
def State.bufferOf (s : State) (n : Node) (b : Nat) : State × BufState :=
  let e := n.w (8 + b)
  let need := bitsOf e 15 0
  if need = 0 then (s, .ready)
  else
    let va : W64 := BitVec.ofNat 64 (bitsOf e 47 16 * 65536)
    match issue (s.getCtx n.ctx) .app va 16 .read with
    | .error f => (s, .fault f.code)
    | .ok (ia, attr) => match s.window va ia 16 attr with
      | .error f => (s, .fault f.code)
      | .ok (.sram c off) =>
        if off % 2 ^ 19 ≠ 0 then (s, .fault 0x32)
        else if (s.getBank c (off / 2 ^ 19)).mode ≠ 2 ∨ (s.getBank c (off / 2 ^ 19)).busy then (s, .fault 0x30)
        else
          let h := s.header c (off / 2 ^ 19)
          (s, if need ≤ (if bitOf e 48 then h.free else h.avail) then .ready else .unmet)
      | .ok .trans => match s.pieceAt n.who va ia ia 1 .read with
        | (s, .fault f) => (s, .fault f.code)
        | (s, .hold) => (s, .hold)
        | (s, .ok _) => (s, .fault 0x32)
      | .ok _ => (s, .fault 0x32)

/-- The buffer operands of a node, in order: the first that fails, else whether one is unmet. -/
def State.buffersOf (s : State) (n : Node) : List Nat → State × BufState
  | [] => (s, .ready)
  | b :: l => match s.bufferOf n b with
    | (s, .ready) => State.buffersOf s n l
    | (s, .unmet) => (match State.buffersOf s n l with
      | (s, .ready) => (s, .unmet)
      | r => r)
    | r => r

/-! ## Grants (R178, R305) -/

/-- The fields of a binding word. -/
def bCore (b : W64) : Nat := bitsOf b.toNat 12 0
def bVlen (b : W64) : Nat := bitsOf b.toNat 14 13
def bNacc (b : W64) : Nat := bitsOf b.toNat 18 15
def bBv (b : W64) : Bool := bitOf b.toNat 19
def bBay (b : W64) : Nat := bitsOf b.toNat 25 20

/-- The cores that supply the lanes of a `vlen` code. -/
def lanesOf (code : Nat) : Nat := 2 ^ code

/-- Two runs of cores meet. -/
def coresMeet (p n q m : Nat) : Bool := decide (p < q + m) && decide (q < p + n)

/-- A core of the grant holds a hart, or lends its lanes to one (R179), or is reserved for a node of a gang (R420). -/
def State.coresTaken (s : State) (me : Option Nat) (p n : Nat) : Bool :=
  (s.hart :: s.harts).any (fun h => !h.lamp && coresMeet p n h.place (h.vgrant / 1024)) ||
    s.nodes.any (fun q => decide (some q.id ≠ me) && (match q.bind with | some b => coresMeet p n (bCore b) (lanesOf (bVlen b)) | none => false))

/-- The free tiles of a bay (R206; log 23). -/
def State.freeTiles (s : State) (me : Option Nat) (k bay : Nat) : Nat :=
  max 8 Config.bayTiles -
    ((((s.hart :: s.harts).filter (fun h => !h.lamp && h.bv && decide (stackOf h.place = k) && decide (h.bay.toNat = bay))).map (fun h => h.nacc.toNat)).sum +
      ((s.nodes.filter (fun q => decide (some q.id ≠ me))).map (fun q => match q.bind with
        | some b => if bBv b && decide (stackOf (bCore b) = k) && decide (bBay b = bay) then bNacc b else 0
        | none => 0)).sum)

/-- The checks of a binding word on stack `k` (R305): the status, in the order NOTLOCAL, BADGRANT, BUSY (log 28). -/
def State.grantCheck (s : State) (me : Option Nat) (k : Nat) (b : W64) : Nat :=
  if stackOf (bCore b) ≠ k then 4
  else if bVlen b = 3 ∨ bCore b % lanesOf (bVlen b) ≠ 0 ∨ 8 < bNacc b ∨ (bNacc b ≠ 0 ∧ bBv b = false) ∨
      (bBv b = true ∧ s.freeTiles me k (bBay b) < bNacc b) then 2
  else if s.coresTaken me (bCore b) (lanesOf (bVlen b)) then 1
  else 0

/-- The quad that a stack reserves for another node takes part in the grant (R418; the bay that goes with a quad is log 29). -/
def State.reservedFor (s : State) (k node : Nat) (b : W64) : Bool :=
  match (s.getStk k).resv with
  | some (n, q) => decide (n ≠ node) && s.nodes.any (fun m => decide (m.id = n) && (decide (m.st = .ready) || decide (m.st = .savedN))) && (coresMeet (bCore b) (lanesOf (bVlen b)) (4 * q) 4 || (bBv b && decide (bBay b = q % 64)))
  | none => false

/-- The shares of a VF let one more hart bind (R469). -/
def State.shareFree (s : State) (vf : Nat) (bv : Bool) : Bool :=
  let mine := (s.hart :: s.harts).filter (fun h => !h.lamp && decide (h.vfid.toNat = vf))
  let q := (s.getVf vf).qos.toNat
  decide (mine.length < bitsOf q 12 0) && (!bv || decide ((mine.filter (·.bv)).length < bitsOf q 23 13))

/-- A hart node's grant is that of a binding word, and may be made now. -/
def State.grantFits (s : State) (n : Node) (b : W64) : Bool :=
  decide (bVlen b = n.vlen) && decide (bNacc b = n.nacc) && decide (bBv b = n.bv) && decide (s.grantCheck (some n.id) n.home b = 0) &&
    !s.reservedFor n.home n.id b && s.shareFree n.vf n.bv

/-- The binding word of a node at a core and a bay. -/
def Node.bindWord (n : Node) (core bay : Nat) : W64 :=
  BitVec.ofNat 64 (core + 2 ^ 13 * n.vlen + 2 ^ 15 * n.nacc + 2 ^ 19 * b2n n.bv + 2 ^ 20 * bay)

/-- Some grant of the home stack meets the node's (R418). -/
def State.canGrant (s : State) (n : Node) : Bool :=
  n.kind ≠ 0 || (upto 512).any (fun c => (upto (if n.bv then 64 else 1)).any (fun bay => s.grantFits n (n.bindWord (512 * n.home + c) bay)))

/-! ## Binding (R178, R213, R214, R419) -/

/-- What a bind comes to. -/
inductive Bound where
  | hart (h : Hart)
  | badImage
  | hold

/-- The image of a node is read under its context and loaded (R214, R419). -/
def State.loadImage (s : State) (n : Node) (h : Hart) : State × Bound :=
  if !n.img then (s, .hart h)
  else match s.readVa n.who (s.getCtx n.ctx) (n.k 1) offMask with
    | (s, .hold) => (s, .hold)
    | (s, .fault _) => (s, .badImage)
    | (s, .ok g) =>
      if !imgOk g then (s, .badImage)
      else match s.readVa n.who (s.getCtx n.ctx) (n.k 1 + BitVec.ofNat 64 offMask) (imgBody g - offMask) with
        | (s, .hold) => (s, .hold)
        | (s, .fault _) => (s, .badImage)
        | (s, .ok b) => match h.preload (g + b * 2 ^ (8 * offMask)) with
          | some h => (s, .hart h)
          | none => (s, .badImage)

/-- The hart a node starts as, on the grant of a binding word. -/
def State.nodeHart (s : State) (n : Node) (b : W64) : Hart :=
  { newHart (bCore b) (1024 * lanesOf (bVlen b)) (BitVec.ofNat 4 (bNacc b)) (bBv b) (BitVec.ofNat 6 (bBay b)) (BitVec.ofNat 16 n.ctx) n.vf
      s.gens.dev (n.k 0) with
    node := some n.id, cls := n.cls, img := b2n n.img, prio := n.prio, lastTick64 := s.tick }

/-- A core's unit stands at the device generation. -/
def State.freshUnit (s : State) (u : Nat) : State :=
  let s := if nmem u s.gens.unsettled then s.postOnce (.settleAck u) else s
  { s with gens := { s.gens with lag := nrem u s.gens.lag } }

/-- A hart is bound: its tiles hold 0 (R206), and its start is an acquire of device scope in its cluster (R175, R416). -/
def State.bindHart (s : State) (h : Hart) : State :=
  let s := (upto 8).foldl (fun t i => t.setTile (tileKey h.place i) {}) (s.freshUnit h.place)
  let s := s.acquire { s.me with cluster := some (clusterOf h.place) } 4
  { s with harts := s.harts ++ [h] }

/-- A pooled node is bound to a binding word (R419). False: it must wait. -/
def State.bindNode (s : State) (n : Node) (b : W64) : State × Bool :=
  match s.loadImage n (s.nodeHart n b) with
  | (s, .hold) => (s, false)
  | (s, .badImage) => (s.nodeEnds n.id 2 0, true)
  | (s, .hart h) =>
    let (id, s) := s.fresh
    ((s.bindHart { h with hid := id }).onNode n.id (fun q => { q with bind := none, skipAt := none, st := .running, core := h.place }), true)

/-- A copy or wick node is issued under its context (R408, R419). False: it must wait. -/
def State.issueNode (s : State) (n : Node) : State × Bool :=
  let w := n.who
  let c := s.getCtx n.ctx
  let ops := (upto 4).map n.k
  let tag := s.unitGen w.unit
  let run (s : State) : State := s.onNode n.id (fun q => { q with st := .running, bind := none, skipAt := none })
  let fails (s : State) (f : Flt) : State := s.nodeEnds n.id 3 f.code
  if n.kind = 1 then
    let (id, s) := s.fresh
    let by_ : CopyBy := { who := w, id := id, cnum := 0, slot := none, node := some n.id, cls := n.cls, rel := true, ordered := false,
                          older := [], tag := tag }
    match s.planCpy c .app (n.k 0) (n.k 1) (n.k 2) (n.k 3) with
    | .hold => (s, false)
    | .trap f => (fails s f, true)
    | .bad bar => ((run s).sendCopy by_ [] bar 4 0, true)
    | .go segs bar => ((run s).sendCopy by_ segs bar 0 0, true)
  else
    let msg := ops.getD 1 0
    match s.extent c .app (n.k 0) (fanOut msg * pageBytes) .both with
    | .error f => (fails s f, true)
    | .ok (ia, _) => match s.barrierOf c .app (n.k 3) with
      | .error f => (fails s f, true)
      | .ok bar =>
        let (id, s) := s.fresh
        let by_ : BankBy := { who := w, id := id, cnum := 0, node := some n.id, rel := true, tag := tag }
        if (n.k 0).toNat % pageBytes ≠ 0 then ((run s).failBank by_ false bar 4 0, true)
        else
          let pages := (upto (fanOut msg)).map (fun i => ia + i * pageBytes)
          (({ run s with bcmds := s.bcmds ++ [{ bankCmd by_ false bar msg 0 0 with pages := pages }] } : State).post (.bankProbe id), true)

/-- A node is started on a grant, or issued. -/
def State.startNode (s : State) (n : Node) (b : W64) : State × Bool := if n.kind = 0 then s.bindNode n b else s.issueNode n

/-! ## The end of a hart -/

/-- A lamplighter hart of stack 0 that no firmware runs on. -/
def idleHart : Hart := { wait := some (.wfe 0 none) }

/-- A hart leaves its core. -/
def State.unbind (s : State) (place : Nat) : State :=
  let rest := s.harts.filter (fun h => decide (h.place ≠ place))
  let s := (s.freshUnit place)
  let s : State := { s with ras := s.ras.filter (fun r => decide (r.place ≠ place)) }
  if s.hart.place = place then
    (match rest with
     | h :: l => { s with hart := h, harts := l }
     | [] => { s with hart := idleHart, harts := [] })
  else { s with harts := rest }

/-- What a hart had sent and no longer waits for: its symbol requests, its vector instructions that wait, and its place among those who
wait for SNAP. -/
def State.forget (s : State) (place : Nat) : State :=
  { s with
    lates := s.lates.filter (fun l => decide (l.place ≠ place))
    reqs := s.reqs.filter (fun r => match r.src with | .sym p _ => decide (p ≠ place) | _ => true)
    gens := { s.gens with snapq := s.gens.snapq.filter (fun p => decide (p ≠ place)), answers := s.gens.answers.filter (fun q => decide (q.1 ≠ place)) } }

/-- The place that its commands, locks and updates name a hart by changes. -/
def State.movePlace (s : State) (old new : Nat) : State :=
  let f (p : Option Nat) : Option Nat := if p = some old then some new else p
  { s with
    copies := s.copies.map (fun c => { c with place := f c.place })
    bcmds := s.bcmds.map (fun c => { c with place := f c.place })
    mops := s.mops.map (fun o => if o.place = old then { o with place := new } else o)
    locks := s.locks.map (fun l => { l with waiter := f l.waiter })
    updates := s.updates.map (fun u => { u with place := f u.place }) }

/-! ## Engine resets (R375, R425, R392) -/

/-- The tiles a reset operation was writing hold undefined values (R375). -/
def State.wreckTile (s : State) (o : MOp) : State :=
  let key := tileKey o.place o.acc
  let n := o.m * o.n
  let t : Tile := { (s.getTile key) with elems := (upto n).foldl (fun m i => sset 0 m i (Config.resetWord (s.free + i))) [], psn := [], chk := false,
                                         pr := [], pcs := [] }
  { s.setTile key t with free := s.free + n }

/-- The engines' work that `sel` picks by its place and context is reset: copies, BKCOPY among them, end with RESET, tile operations with RESET,
and queued invocations are discarded. Running invocations finish. -/
def State.resetWork (s : State) (sel : Option Nat → Nat → Bool) : State :=
  let cs := s.copies.filter (fun c => sel c.place c.ctx && decide (c.st ≠ .finishing) && decide (c.st ≠ .ended) && decide (c.code = 0))
  let s := cs.foldl (fun t c =>
    let t := t.onCopy c.id (fun q => { q with code := 5 })
    if c.st = .waiting then t.postOnce (.copyBufferReady c.id) else if c.st = .moving then t.postOnce (.copyClassRound c.stack) else t) s
  let ms := s.mops.filter (fun o => sel (some o.place) o.ctx && decide (o.st ≠ .ended))
  let s := ms.foldl (fun t o =>
    let t := if o.st = .running ∧ (o.sub = 5 ∨ o.sub = 8 ∨ o.sub = 9) then t.wreckTile o else t
    t.endM o (matWord 10 o.sub 0 false 0 0 0 0 0 0)) s
  let bs := (s.bcmds.filter (fun b => sel b.place b.ctx)).map (·.id)
  let s : State := { s with bcmds := modList (fun b => b.copy && nmem b.id bs && !b.sent && decide (b.code = 0)) (fun b => { b with code := 5 }) s.bcmds }
  (s.invs.filter (fun v => nmem v.cmd bs && (decide (v.st = .sent) || decide (v.st = .queued)))).foldl (fun t v => t.endInv v 8 0) s

/-! ## Killing a context (R455, R61, R99, R68) -/

/-- A context's banks return to cache mode with their contents discarded (R61). -/
def State.freeBanks (s : State) (ctx : Nat) : State :=
  s.clus.foldl (fun t e => (upto 32).foldl (fun u b =>
    let k := u.getBank e.1 b
    if k.owned ∧ k.octx.toNat = ctx then u.setBank e.1 b { last := k.last, epoch := k.epoch } else u) t) s

/-- Its row-locks and line locks end (R99, R68). -/
def State.freeLocks (s : State) (ctx : Nat) : State :=
  let mine := s.locks.filter (fun l => decide (l.ctx = ctx))
  let s : State := { s with locks := s.locks.filter (fun l => decide (l.ctx ≠ ctx)) }
  let s := mine.foldl (fun t l => t.postOnce (.invocationStart l.die)) s
  { s with clus := s.clus.map (fun e => (e.1, { e.2 with lines := e.2.lines.map (fun l => if l.lock = some ctx then { l with lock := none } else l) })) }

/-- A hart stops for good and leaves its core; the commands it had issued go on without it. -/
def State.removeHart (s : State) (place : Nat) : State :=
  let (id, s) := s.fresh
  let gone := savedPlace (stackOf place) (2 ^ 48 + id)
  let s := ((s.forget place).movePlace place gone).unbind place
  { s with copies := s.copies.map (fun c => if c.place = some gone then { c with slot := none } else c) }

/-- A gang that loses a participant completes wholly with GABORT (R455): what has started is reset and ends, and the rest ends. -/
def State.endGang (s : State) (vf gang : Nat) : State :=
  if gang = 0 then s
  else
    let ns := s.nodes.filter (fun n => decide (n.vf = vf) && decide (n.gang = gang) && decide (n.phase = 0))
    let s : State := { s with gangs := s.gangs.filter (fun g => !(decide (g.vf = vf) && decide (g.gang = gang))) }
    ns.foldl (fun t n =>
      let p := n.core
      let t := if n.kind = 0 ∧ (t.hartAt p).any (fun h => decide (h.node = some n.id)) then
          (t.resetWork (fun q _ => decide (q = some p))).removeHart p
        else t
      t.nodeEnds n.id 4 0) s

/-- A context is killed: its harts stop with no area written, its engine work is reset, its nodes complete with KILLED, its banks and locks
are released, and its gangs end. -/
def State.killCtx (s : State) (ctx : Nat) : State :=
  let hs := (s.hart :: s.harts).filter (fun h => !h.lamp && decide (h.ctxKey = ctx))
  let s := s.resetWork (fun _ c => decide (c = ctx))
  let s : State := { s with
    copies := s.copies.map (fun c => if c.ctx = ctx then { c with node := none, saved := none } else c)
    bcmds := s.bcmds.map (fun c => if c.ctx = ctx then { c with node := none } else c)
    saved := s.saved.filter (fun a => decide (a.ctxKey ≠ ctx)) }
  let s := hs.foldl (fun t h => t.removeHart h.place) s
  let s := (s.freeBanks ctx).freeLocks ctx
  let ns := s.nodes.filter (fun n => decide (n.ctx = ctx) && decide (n.phase = 0))
  let s := ns.foldl (fun t n => t.nodeEnds n.id 5 0) s
  let s := ns.foldl (fun t n => t.endGang n.vf n.gang) s
  s.setCtx ctx { s.getCtx ctx with live := false }

end Sys2Proof.Machine
end

