-- ==== Sys2Proof/Machine/Lamp.lean ====
section
/-! DEFINITION. Nodes from harts (TSUBMIT R301, TDONE R302), the lamplighter's instructions (QFETCH R303, SWAIT R304, DISPATCH R305), and the
ends of WFE (R298) and SWAIT. -/
namespace Sys2Proof.Machine

/-! ## TSUBMIT (R301) -/

/-- Descriptors read in order; a read that fails ends the list with none. Nothing: a read must wait. -/
def State.readDescs (s : State) (w : Who) (c : Ctx) (va : W64) : Nat → State × Option (List (Option (List W64)))
  | 0 => (s, some [])
  | n + 1 => match s.readVa w c va 128 with
    | (s, .hold) => (s, none)
    | (s, .fault _) => (s, some [none])
    | (s, .ok v) => match State.readDescs s w c (va + 128) n with
      | (s, some l) => (s, some (some (descWords v) :: l))
      | r => r

/-- Descriptors accepted in order, up to the first refused: the count and the code. -/
def State.acceptAll (s : State) (vf : Nat) (app : Bool) (sub : Option Nat) : List (Option (List W64)) → Nat → State × Nat × Nat
  | [], k => (s, k, 0)
  | none :: _, k => (s, k, 2)
  | some d :: l, k => match s.accept d vf app sub with
    | (s, 0) => State.acceptAll s vf app sub l (k + 1)
    | (s, c) => (s, k, c)

/-- The result of TSUBMIT. -/
def submitWord (count code : Nat) : W64 := BitVec.ofNat 64 (count + 2 ^ 16 * code)

/-- The translation of TSUBMIT's extent for read (R301), at the issuing unit and at its homes; its faults trap precisely. -/
def State.submitExtent (s : State) (va : W64) (n : Nat) : Flow Unit :=
  match s.issueAt va n .read kRead with
  | .out o => .out o
  | .skip s => .skip s
  | .go s (ia, _, .trans) => (match State.flow kRead (s.pieces s.me va ia n .read) with
    | .out o => .out o
    | .skip s => .skip s
    | .go s _ => .go s ())
  | .go s _ => .go s ()

/-- TSUBMIT (R301). More than 256 descriptors at a misaligned address give BADDESC, the first of the two that step 2 names (log 96). -/
def execTsubmit (sc : Sc) (rd rs1 rs2 : Reg) (s : State) : Out :=
  match s.ready sc true [rs1, rs2] with
  | .out o => o
  | .skip s => .next s
  | .go s _ =>
    let va := s.hart.kx rs1
    let n := (s.hart.kx rs2).toNat % 65536
    if n = 0 then s.done rd (submitWord 0 0)
    else if 256 < n then s.done rd (submitWord 0 2)
    else if va.toNat % 128 ≠ 0 then s.done rd (submitWord 0 3)
    else match s.submitExtent va (128 * n) with
      | .out o => o
      | .skip s => s.stopAhead 2
      | .go s _ =>
        if s.hart.vq ≠ [] ∨ s.symPending then s.stall
        else match s.releaseBoth s.me 4 with
          | (s, false) => .next s
          | (s, true) =>
            let k := stackOf s.hart.place
            let w := engineWho (8192 + 4 * k) k s.hart.level s.hart.vfid.toNat s.hart.ctxKey
            match s.readDescs w s.myCtx va n with
            | (s, none) => .next s
            | (s, some l) =>
              let (s, count, code) := s.acceptAll s.hart.vfid.toNat (decide (s.hart.level = .app)) (some k) l 0
              s.done rd (submitWord count code)

/-! ## TDONE (R302) -/

/-- Parts of the output image written under the node's context: whether they must wait, and the cause of the first that faults. -/
def State.writeVa (s : State) (w : Who) (c : Ctx) (va : W64) (tag : BitVec 32) : List Chunk → State × Bool × Option Nat
  | [] => (s, true, none)
  | (o, bytes) :: l =>
    if bytes = [] then State.writeVa s w c va tag l
    else match issue c w.lvl (va + BitVec.ofNat 64 o) bytes.length .write with
      | .error f => (s, true, some f.code)
      | .ok (ia, _) => match s.engineWrite w ia bytes tag with
        | (s, .hold) => (s, false, none)
        | (s, .fault f) => (s, true, some f.code)
        | (s, .ok _) => State.writeVa s w c va tag l

/-- The rung that the work of a VF and a node reached (R425, R426, R427). -/
def State.reached (s : State) (vf : Nat) (node : Option Nat) (r : Nat) : State :=
  let s := s.setVf vf { s.getVf vf with rung := BitVec.ofNat 2 r }
  match node with
  | some n => s.onNode n (fun q => { q with rung := max q.rung r })
  | none => s

/-- The hart that steps ends its node: what it was reached by pre-emption, the node's completion, and the core is free. -/
def State.endHart (s : State) (cause : Option Nat) : State :=
  let h := s.hart
  let s := if h.pre.isSome then s.reached h.vfid.toNat h.node 1 else s
  let s := (s.forget h.place).unbind h.place
  match h.node, cause with
  | some n, none => s.nodeEnds n 0 0
  | some n, some c => s.nodeEnds n 3 c
  | none, _ => s

/-- The engines still owe the hart a completion, or a symbol is pending (R302). -/
def State.owed (s : State) : Bool :=
  decide (s.hart.vq ≠ []) || decide (s.hart.cmds ≠ []) || s.hart.sym.toList.any (fun q => match q with
    | .pending _ _ => true
    | .copyStatus _ => true
    | _ => false)

/-- TDONE (R302). A fault of the output image ends the node with FAULT and its cause (log 31). -/
def execTdone (sc : Sc) (s : State) : Out :=
  if s.hart.lamp then s.illegal
  else match s.ready sc true [] with
    | .out o => o
    | .skip s => .next s
    | .go s _ =>
      let wait (s : State) : Out := .next (s.upd (fun h => { h with wait := some .tdone }))
      if s.owed then wait s
      else match s.releaseBoth s.me 4 with
        | (s, false) => wait s
        | (s, true) => match s.hart.node.bind s.nodeAt with
          | none => .next (s.endHart none)
          | some n =>
            if n.k 3 = 0 then .next (s.endHart none)
            else match s.writeVa n.who (s.getCtx n.ctx) (n.k 3) s.hart.gen (s.outputChunks s.hart (n.k 2)) with
              | (s, false, _) => wait s
              | (s, true, cause) => .next ({ s with free := s.free + 32 }.endHart cause)

/-! ## QFETCH (R303, R430) -/

/-- The oldest entry of a queue of stack `k`, taken. -/
def State.popQueue (s : State) (k a : Nat) : State × W64 :=
  let t := s.getStk k
  if a < 64 then
    (if k ≠ 0 then (s, 0)
     else match (s.getVf a).entries[(s.getVf a).fetched]? with
      | none => (s, 0)
      | some (num, v) =>
        (s.setVf a { s.getVf a with fetched := (s.getVf a).fetched + 1 },
          BitVec.ofNat 64 (2 ^ 63 + bitsOf v.toNat 46 41 * 2 ^ 57 + num % 2 ^ 16 * 2 ^ 41 + bitsOf v.toNat 40 0)))
  else if a = 64 then (match t.inbox with | e :: l => (s.setStk k { t with inbox := l }, e) | [] => (s, 0))
  else if a = 65 then (match t.compl with | e :: l => (s.setStk k { t with compl := l }, e) | [] => (s, 0))
  else if a = 66 then (match t.errq with | e :: l => (s.setStk k { t with errq := l }, e) | [] => (s, 0))
  else (s, 0)

/-- QFETCH (R303). -/
def execQfetch (sc : Sc) (rd rs1 : Reg) (s : State) : Out :=
  if !s.hart.lamp then s.illegal
  else match s.ready sc true [rs1] with
    | .out o => o
    | .skip s => .next s
    | .go s _ =>
      let (s, v) := s.popQueue (stackOf s.hart.place) (s.hart.kx rs1).toNat
      (s.postOnce (.schedulingTick (stackOf s.hart.place))).done rd v

/-! ## SWAIT (R304) -/

/-- The sources of SWAIT that hold on the die of the hart that steps. -/
def State.sources (s : State) : BitVec 5 :=
  let k := stackOf s.hart.place
  let t := s.getStk k
  let fifo := decide (k = 0) && s.vfs.any (fun e => decide (e.2.fetched < e.2.entries.length))
  BitVec.ofNat 5 (b2n fifo + 2 * b2n (decide (t.inbox ≠ [])) + 4 * b2n (decide (t.compl ≠ [])) + 8 * b2n (decide (t.errq ≠ [])) +
    16 * b2n (decide (s.hart.lastTick64.toNat / 64000 < s.tick.toNat / 64000)))

/-- The named sources that hold; reporting bit 4 begins its wait anew. -/
def State.swaitTest (s : State) (mask : W64) : State × W64 :=
  if mask = 0 then (s, 0)
  else
    let m := s.sources.setWidth 64 &&& mask
    (if m.getLsbD 4 then s.upd (fun h => { h with lastTick64 := s.tick }) else s, m)

/-- SWAIT (R304). -/
def execSwait (sc : Sc) (rd rs1 rs2 : Reg) (s : State) : Out :=
  if !s.hart.lamp then s.illegal
  else match s.ready sc true [rs1, rs2] with
    | .out o => o
    | .skip s => .next s
    | .go s _ =>
      let mask := s.hart.kx rs1
      let n := s.hart.kx rs2
      let (s, m) := s.swaitTest mask
      if m ≠ 0 then s.done rd m
      else if n = 0 then s.done rd 0
      else
        let p := s.hart.place
        .next (((s.await (.swait rd mask (deadlineOf s.tick n))).postOnce (.swaitWake p)).postOnce (.swaitTimeout p))

/-- SWAIT_WAKE (R304): a named source holds. -/
def execSwaitWake (place : Nat) (s : State) : Out :=
  match s.waiting place with
  | (t, some (.swait rd mask _)) =>
    let (t, m) := t.swaitTest mask
    .next (if m ≠ 0 then t.endWait rd m else t.postOnce (.swaitWake place))
  | _ => .next s

/-- SWAIT_TIMEOUT (R304): the ticks have passed. -/
def execSwaitTimeout (place : Nat) (s : State) : Out :=
  match s.waiting place with
  | (t, some (.swait rd _ d)) => .next (if due t.tick d then t.endWait rd 0 else t.postOnce (.swaitTimeout place))
  | _ => .next s

/-! ## The ends of WFE (R298) -/

/-- WFE_WAKE (R298): the latch has set. -/
def execWfeWake (place : Nat) (s : State) : Out :=
  match s.waiting place with
  | (t, some (.wfe rd _)) =>
    .next (if t.hart.latch then (t.upd (fun h => { h with latch := false })).endWait rd 0 else t.postOnce (.wfeWake place))
  | _ => .next s

/-- WFE_TIMEOUT (R298): the ticks have passed. -/
def execWfeTimeout (place : Nat) (s : State) : Out :=
  match s.waiting place with
  | (t, some (.wfe rd d)) => .next (if due t.tick d then t.endWait rd 1 else t.postOnce (.wfeTimeout place))
  | _ => .next s

/-! ## DISPATCH (R305) -/

/-- The node that a descriptor names: the one pooled on the stack and not yet bound, or a new one, or none where the descriptor fails. -/
def State.dispatchNode (s : State) (k : Nat) (desc : List W64) : State × Option Node :=
  let n := freshNode desc (bitsOf ((desc.getD 0 0).toNat) 37 32)
  match s.nodes.find? (fun q => decide (q.home = k) && decide (q.vf = n.vf) && decide (q.tag = n.tag)) with
  | some q => (s, if n.kind = 0 ∧ (q.st = .waiting ∨ q.st = .blocked ∨ q.st = .ready) ∧ q.kind = 0 then some q else none)
  | none =>
    if n.kind ≠ 0 ∨ s.descBad n false (some k) then (s, none)
    else
      let (id, s) := s.fresh
      let n := { n with id := id, home := k, since := s.tick }
      let c := s.getCtx n.ctx
      (({ s with nodes := s.nodes ++ [n] } : State).setCtx n.ctx { c with live := true, vf := if c.live then c.vf else n.vf }, some n)

/-- DISPATCH (R305), its checks in the order of log 28. -/
def execDispatch (sc : Sc) (rd rs1 rs2 : Reg) (s : State) : Out :=
  if !s.hart.lamp then s.illegal
  else match s.ready sc true [rs1, rs2] with
    | .out o => o
    | .skip s => .next s
    | .go s _ =>
      let va := s.hart.kx rs1
      let b := s.hart.kx rs2
      let k := stackOf s.hart.place
      let code (s : State) (n : Nat) : Out := s.done rd (BitVec.ofNat 64 n)
      if va.toNat % 128 ≠ 0 then code s 5
      else match s.loadVal va 128 4 with
        | .out o => o
        | .skip s => .next s
        | .go s v => match s.dispatchNode k (descWords v) with
          | (_, none) => code s 5
          | (t, some n) =>
            let c := t.grantCheck (some n.id) k b
            if c ≠ 0 then code s c
            else match t.loadImage n (t.nodeHart n b) with
              | (t, .hold) => .next (s.keepWaits t)
              | (_, .badImage) => code s 3
              | (t, .hart h) =>
                let (id, t) := t.fresh
                code ((t.bindHart { h with hid := id }).onNode n.id (fun q => { q with bind := none, skipAt := none, st := .running, count := 0, core := h.place })) 0

end Sys2Proof.Machine
end

