-- ==== Sys2Proof/Machine/EvSched.lean ====
section
/-! DEFINITION. What the lamplighters do: decrements and their replay (R414, R423), firing (R415), dispatch and reservations (R417 to R419),
completion (R416), gangs (R420, R421), the submission blocks (R427 to R429) and mailboxes (R432). -/
namespace Sys2Proof.Machine

/-! ## Dispatch requests -/

/-- The lamplighter of a stack tries a binding of its choosing (log 3). -/
def State.askDispatch (s : State) (k : Nat) : State :=
  if s.agenda.any (fun a => match a with | .event (.nodeDispatch j _) => decide (j = k) | _ => false) then s
  else s.post (.nodeDispatch k (Config.freeWord s.moves))

/-- Where the lamplighter keeps a save area: the spec gives its alignment alone (log 32). -/
def State.saveArea (s : State) : Nat := (Config.freeWord s.moves).toNat % 2 ^ 42 * 64

/-! ## Decrements (R414) -/

/-- DECREMENT_ARRIVAL (R414): in its sender's order, a decrement is applied, kept for a node to come, or refused. -/
def execDecrementArrival (stack vf tag : Nat) (s : State) : Out :=
  let mine (q : Nat × Nat × Nat × Nat) : Bool := decide (q.2 = (stack, vf, tag))
  match s.decOut.find? mine with
  | none => .next s
  | some q =>
    let key := decSender q.1 stack
    let k := senderStack key
    if (s.getSender k key).waiting then .next s
    else if (s.decOut.takeWhile (fun e => !mine e)).any (fun e => decide (e.1 = q.1) && decide (e.2.1 = stack)) then
      .next (s.postOnce (.decrementArrival stack vf tag))
    else
      let drop (s : State) : State := { s with decOut := s.decOut.eraseP mine }
      if s.fenced stack then .next (drop s)
      else match s.nodes.find? (fun n => decide (n.home = stack) && decide (n.vf = vf) && decide (n.tag = tag)) with
        | some n =>
          let s := ((drop s).setSender k key {}).inboxPut q.1 stack 0 vf (tag * 2 ^ 22)
          if n.count = 0 then .next (s.llError stack 2 vf tag)
          else
            let s := s.onNode n.id (fun m => { m with count := m.count - 1 })
            .next (if n.count = 1 then s.postOnce (.nodeFire n.id) else s)
        | none =>
          if 1024 ≤ (s.getStk stack).decs.length then .next (s.postOnce (.nakReceived key))
          else
            let s := ((drop s).setSender k key {}).inboxPut q.1 stack 0 vf (tag * 2 ^ 22)
            .next (s.setStk stack { s.getStk stack with decs := (s.getStk stack).decs ++ [(vf, tag)] })

/-! ## Replay (R423) -/

/-- NAK_RECEIVED (R423): the sender waits; each further refusal of the same entry doubles the wait, up to 64 times. -/
def execNakReceived (sender : Nat) (s : State) : Out :=
  let k := senderStack sender
  let d := s.getSender k sender
  if d.waiting then .next s
  else
    let t := s.getStk k
    let wait := max 1 t.bkoff.toNat * 2 ^ min d.naks 6
    let s := (s.setStk k { t with nak := satAdd t.nak 1 }).setSender k sender
      { naks := d.naks + 1, resendAt := s.tick + BitVec.ofNat 64 wait, waiting := true }
    .next (s.postOnce (.replayBackoffExpiry sender))

/-- REPLAY_BACKOFF_EXPIRY (R423): the refused entry and every later one are sent again, in order. -/
def execReplayBackoffExpiry (sender : Nat) (s : State) : Out :=
  let k := senderStack sender
  let d := s.getSender k sender
  if !d.waiting then .next s
  else if s.tick.toNat < d.resendAt.toNat then .next (s.postOnce (.replayBackoffExpiry sender))
  else
    let s := s.setSender k sender { d with waiting := false }
    if 2 ^ 96 ≤ sender then .next s
    else if 2 ^ 80 ≤ sender then .next (s.postOnce (.homeAccess ((sender - 2 ^ 80) / 16)))
    else if sender % 2 = 0 then
      .next ((s.invs.filter (fun v => decide (v.st = .sent) && decide (s.invSender v = sender))).foldl
        (fun t v => t.postOnce (.invocationArrival v.id)) s)
    else
      .next ((s.decOut.filter (fun q => decide (decSender q.1 q.2.1 = sender))).foldl
        (fun t q => t.postOnce (.decrementArrival q.2.1 q.2.2.1 q.2.2.2)) s)

/-! ## Firing (R415) -/

/-- NODE_FIRE (R415): a node with count 0 whose buffers are ready moves to READY; a buffer that fails completes it with FAULT. -/
def execNodeFire (node : Nat) (s : State) : Out :=
  match s.nodeAt node with
  | none => .next s
  | some n =>
    if n.count ≠ 0 ∨ (n.st ≠ .waiting ∧ n.st ≠ .blocked) ∨ n.phase ≠ 0 then .next s
    else match s.buffersOf n (upto 8) with
      | (s, .hold) => .next (s.postOnce (.nodeFire node))
      | (s, .fault c) => .next (s.nodeEnds node 3 c)
      | (s, .unmet) => .next ((s.onNode node (fun q => { q with st := .blocked })).postOnce (.nodeFire node))
      | (s, .ready) =>
        .next ((s.onNode node (fun q => { q with st := .ready, since := s.tick })).askDispatch n.home)

/-! ## Priorities (R417, R418) -/

/-- The effective priority of a node. -/
def State.prioOf (s : State) (n : Node) : Nat := min 15 (n.prio + (s.tick - n.since).toNat / 64000)

/-- A node comes before another. -/
def State.before (s : State) (a b : Node) : Bool :=
  decide (s.prioOf b < s.prioOf a) || (decide (s.prioOf a = s.prioOf b) && decide (a.since.toNat < b.since.toNat))

def State.insertNode (s : State) (n : Node) : List Node → List Node
  | [] => [n]
  | m :: l => if s.before n m then n :: m :: l else m :: State.insertNode s n l

/-- The nodes that a stack may dispatch, in the order of R417; no saved context resumes during a rollback (R137). -/
def State.dispatchable (s : State) (k : Nat) : List Node :=
  (s.nodes.filter (fun n => decide (n.home = k) && decide (n.phase = 0) &&
    ((decide (n.st = .ready) && (decide (n.gang = 0) || decide (n.gst = .none))) || (decide (n.st = .savedN) && s.plat.rollback.isNone)))).foldl (fun l n => s.insertNode n l) []

/-- A resumption on a binding word would be possible as far as cores and reservations go. -/
def State.resumeFits (s : State) (n : Node) (b : W64) : Bool :=
  decide (bVlen b ≠ 3) && decide (stackOf (bCore b) = n.home) && decide (bCore b % lanesOf (bVlen b) = 0) &&
    !s.coresTaken (some n.id) (bCore b) (lanesOf (bVlen b)) && !s.reservedFor n.home n.id b && s.shareFree n.vf false

/-- A node's grant could be met now. -/
def State.grantable (s : State) (n : Node) : Bool :=
  if n.st = .savedN then (upto 512).any (fun c => s.resumeFits n (BitVec.ofNat 64 (512 * n.home + c))) else s.canGrant n

/-- The first node in order whose grant could be met; those before it are skipped. -/
def State.firstGrant (s : State) : List Node → List Node → List Node × Option Node
  | [], skipped => (skipped, none)
  | n :: l, skipped => if s.grantable n then (skipped, some n) else State.firstGrant s l (skipped ++ [n])

/-- The highest-priority nodes that have been skipped say since when (R418). -/
def State.noteSkips (s : State) (l : List Node) : State :=
  l.foldl (fun t n => if s.prioOf n = 15 ∧ n.skipAt.isNone then t.onNode n.id (fun q => { q with skipAt := some s.tick }) else t) s

/-! ## Gang messages (R420) -/

def State.gangOf (s : State) (vf gang : Nat) : Option Gang := s.gangs.find? (fun g => decide (g.vf = vf) && decide (g.gang = gang))
def State.onGang (s : State) (vf gang : Nat) (f : Gang → Gang) : State :=
  { s with gangs := modList (fun g => decide (g.vf = vf) && decide (g.gang = gang)) f s.gangs }

/-- The coordinator: the first stack that is not fenced, from `gang` mod 16 upward. -/
def State.coordinator (s : State) (gang : Nat) : Nat :=
  (((upto 16).map (fun i => (gang + i) % 16)).find? (fun k => !s.fenced k)).getD (gang % 16)

/-- The coordinator of this part's gangs is on another part: this part is not part 0 of its Glowline gang (R420). A single part is its own part 0. -/
def State.gangAway (s : State) : Bool := decide (s.ownPart ≠ 0) && (upto 64).any (fun p => (s.getGlow p).met)

/-- The participants of a gang that this part has. -/
def State.gangNodes (s : State) (vf gang : Nat) : List Node :=
  s.nodes.filter (fun n => decide (n.vf = vf) && decide (n.gang = gang) && decide (n.phase = 0))

/-- The ticks of `glead`, and of `gmarg`, which acts as `glead` above it (R431). -/
def Stack.leadTicks (t : Stack) : Nat := 1000 * t.glead.toNat
def Stack.margTicks (t : Stack) : Nat := 1000 * min t.glead.toNat t.gmarg.toNat

/-- A gang message's low bits in the mesh inbox (R430). -/
def State.gangLow (s : State) (gang src : Nat) : Nat := gang * 2 ^ 30 + src * 2 ^ 8 + s.ownPart

/-- A participant whose grant is reserved sends READY; with the first READY of an attempt the coordinator is chosen. -/
def State.sendReady (s : State) (n : Node) (bind : Option W64) : State :=
  let s := match s.gangOf n.vf n.gang with
    | some _ =>
      if s.nodes.any (fun q => decide (q.vf = n.vf) && decide (q.gang = n.gang) && decide (q.gst ≠ GangState.none)) then s
      else s.onGang n.vf n.gang (fun q => { q with coord := s.coordinator n.gang })
    | none =>
      let g : Gang := { vf := n.vf, gang := n.gang, coord := s.coordinator n.gang, readys := [], acks := [], t := 0, started := false, aborts := 0,
                        attempt := 0 }
      { s with gangs := s.gangs ++ [g] }
  match s.gangOf n.vf n.gang with
  | none => s
  | some g =>
    if 4 ≤ g.aborts then s.nodeEnds n.id 4 0
    else
      let s := s.onNode n.id (fun q => { q with bind := bind, gst := .readySent, sentAt := s.tick, attempt := g.attempt })
      let s := if s.gangAway then s.post (.gangStart n.id)
        else (s.inboxPut n.home g.coord 1 n.vf (s.gangLow n.gang n.home)).post (.gangReady n.id)
      s.post (.gangTimeout n.id)

/-- The coordinator sends ABORT to every participant. -/
def State.sendAbort (s : State) (g : Gang) : State :=
  let t := s.getStk g.coord
  let s := s.setStk g.coord { t with gabt := satAdd t.gabt 1 }
  let s := s.setVf g.vf { s.getVf g.vf with gab := true }
  let s := s.onGang g.vf g.gang (fun q => { q with readys := [], acks := [], started := false, aborts := q.aborts + 1, attempt := q.attempt + 1 })
  g.readys.foldl (fun s i => match s.nodeAt i with
    | some n => (s.inboxPut g.coord n.home 6 g.vf (s.gangLow g.gang g.coord)).postOnce (.gangAbort i)
    | none => s) s

/-- The gang of a participant, if it has one. -/
def State.gangFor (s : State) (node : Nat) : Option (Node × Gang) :=
  match s.nodeAt node with
  | none => none
  | some n => match s.gangOf n.vf n.gang with
    | none => none
    | some g => if n.gang = 0 then none else some (n, g)

/-- A READY is taken at the coordinator; the last of `gsize` sets T, and START(T) is sent. -/
def State.joinGang (s : State) (g : Gang) (id gsize : Nat) : State :=
  let l := g.readys ++ [id]
  let s := s.onGang g.vf g.gang (fun q => { q with readys := l })
  if l.length < gsize then s
  else
    let tt := s.tick + BitVec.ofNat 64 (s.getStk g.coord).leadTicks
    let s := s.onGang g.vf g.gang (fun q => { q with t := tt, started := true })
    let s := l.foldl (fun s i => match s.nodeAt i with
      | some m => (s.inboxPut g.coord m.home 2 g.vf (g.gang * 2 ^ 30 + tt.toNat % 2 ^ 30)).postOnce (.gangStart i)
      | none => s) s
    s.postOnce (.gangAckDeadline g.vf g.gang)

/-- An ACK is taken at the coordinator; the last one sends GO. -/
def State.ackGang (s : State) (g : Gang) (id : Nat) : State :=
  let l := g.acks ++ [id]
  let s := s.onGang g.vf g.gang (fun q => { q with acks := l })
  if l.length < g.readys.length then s
  else l.foldl (fun s i => match s.nodeAt i with
    | some m => (s.inboxPut g.coord m.home 5 g.vf (s.gangLow g.gang g.coord)).postOnce (.gangGo i)
    | none => s) s

/-- An ACK that comes now is in time: before T − `gmarg`/2. -/
def State.ackInTime (s : State) (g : Gang) : Bool := decide (s.tick.toNat + (s.getStk g.coord).margTicks / 2 < g.t.toNat)

/-- GANG_READY (R420): with `gsize` READYs the coordinator sends START(T); a READY beyond them is refused, and its node ends with GABORT. -/
def execGangReady (node : Nat) (s : State) : Out :=
  match s.gangFor node with
  | none => .next s
  | some (n, g) =>
    if s.gangAway ∨ n.gst ≠ .readySent ∨ nmem node g.readys then .next s
    else if n.gsize ≤ g.readys.length then .next (s.nodeEnds node 4 0)
    else .next (s.joinGang g node n.gsize)

/-- The START that a coordinator on another part sends once every participant has sent READY: its tick, 30 bits of which the message carries (R430),
and its later answer are that part's (log 65). -/
def State.awayStart (s : State) (g : Gang) : State × Gang :=
  if g.started then (s, g)
  else
    let bits := (Config.freeWord s.free).toNat % 2 ^ 30
    let g : Gang := { g with t := s.tick + BitVec.ofNat 64 ((bits + 2 ^ 30 - s.tick.toNat % 2 ^ 30) % 2 ^ 30), started := true,
                             away := (Config.freeWord (s.free + 1)).extractLsb' 0 2 }
    ({ s.onGang g.vf g.gang (fun _ => g) with free := s.free + 2 }, g)

/-- Every participant of this part will be told of an abort. -/
def State.abortAll (s : State) (vf gang : Nat) : State :=
  (s.gangNodes vf gang).foldl (fun t m => t.postOnce (.gangAbort m.id)) s

/-- START from a coordinator on another part; after the last ACK of this part its answer comes, GO or ABORT, and after a NAY the ABORT. -/
def State.startAway (s : State) (n : Node) (g : Gang) : State :=
  if n.attempt ≠ g.attempt then s.postOnce (.gangAbort n.id)
  else if (s.gangNodes n.vf n.gang).any (fun m => decide (m.gst = .none) || decide (m.attempt ≠ g.attempt)) then s.postOnce (.gangStart n.id)
  else
    let (s, g) := s.awayStart g
    let ok := decide (s.tick.toNat + (s.getStk n.home).margTicks < g.t.toNat) && (n.bind.isSome || decide (n.kind ≠ 0))
    if !ok then s.abortAll n.vf n.gang
    else
      let s := s.onNode n.id (fun q => { q with gst := .acked, startT := g.t })
      let ms := s.gangNodes n.vf n.gang
      if ms.any (fun m => decide (m.gst ≠ .acked)) then s
      else
        let s := if g.away.getLsbD 0 then ms.foldl (fun t m => t.postOnce (.gangGo m.id)) s else s
        if g.away.getLsbD 0 && !g.away.getLsbD 1 then s else s.abortAll n.vf n.gang

/-- GANG_START (R420): the participant answers ACK in time with its reservation, else NAY. -/
def execGangStart (node : Nat) (s : State) : Out :=
  match s.gangFor node with
  | none => .next s
  | some (n, g) =>
    if n.gst ≠ .readySent then .next s
    else if s.gangAway then .next (s.startAway n g)
    else if !g.started then .next s
    else
      let ok := decide (s.tick.toNat + (s.getStk n.home).margTicks < g.t.toNat) && (n.bind.isSome || decide (n.kind ≠ 0))
      let s := s.inboxPut n.home g.coord (if ok then 3 else 4) n.vf (s.gangLow n.gang n.home)
      .next (if ok then (s.onNode node (fun q => { q with gst := .acked, startT := g.t })).postOnce (.gangAck node)
        else s.postOnce (.gangNay node))

/-- GANG_ACK (R420): with every ACK before T − `gmarg`/2, the coordinator sends GO. -/
def execGangAck (node : Nat) (s : State) : Out :=
  match s.gangFor node with
  | none => .next s
  | some (n, g) =>
    if s.gangAway ∨ n.gst ≠ .acked ∨ !g.started ∨ nmem node g.acks ∨ !s.ackInTime g then .next s
    else .next (s.ackGang g node)

/-- GANG_NAY (R420): the coordinator sends ABORT. -/
def execGangNay (node : Nat) (s : State) : Out :=
  match s.gangFor node with
  | none => .next s
  | some (_, g) => .next (if !s.gangAway && g.started && nmem node g.readys then s.sendAbort g else s)

/-- GANG_ACK_DEADLINE (R420): an ACK missing at T − `gmarg`/2 aborts the gang. -/
def execGangAckDeadline (vf gang : Nat) (s : State) : Out :=
  match s.gangOf vf gang with
  | none => .next s
  | some g =>
    if s.gangAway ∨ !g.started then .next s
    else if s.ackInTime g then .next (s.postOnce (.gangAckDeadline vf gang))
    else .next (if g.acks.length < g.readys.length then s.sendAbort g else s)

/-- GANG_GO (R420): in time, the participant starts at T; late, it sends LATE. -/
def execGangGo (node : Nat) (s : State) : Out :=
  match s.gangFor node with
  | none => .next s
  | some (n, g) =>
    if n.gst ≠ .acked ∨ !g.started then .next s
    else if s.tick.toNat < n.startT.toNat then .next (s.postOnce (.gangStartTick node))
    else .next ((if s.gangAway then s else s.inboxPut n.home g.coord 7 n.vf (s.gangLow n.gang n.home)).postOnce (.gangLate node))

/-- GANG_START_TICK (R420): at tick T the participant is bound on its reservation, or its command is issued. -/
def execGangStartTick (node : Nat) (s : State) : Out :=
  match s.gangFor node with
  | none => .next s
  | some (n, g) =>
    if n.gst ≠ .acked ∨ !g.started then .next s
    else if s.tick.toNat < n.startT.toNat then .next (s.postOnce (.gangStartTick node))
    else match s.startNode n (n.bind.getD 0) with
      | (s, false) => .next (s.postOnce (.gangStartTick node))
      | (s, true) => .next (s.onNode node (fun q => { q with gst := .started }))

/-- GANG_LATE (R420): the coordinator sends ABORT, and reports it. -/
def execGangLate (node : Nat) (s : State) : Out :=
  match s.gangFor node with
  | none => .next s
  | some (n, g) =>
    .next (if !g.started then s else if s.gangAway then s.abortAll n.vf n.gang else (s.llError g.coord 1 g.vf n.tag).sendAbort g)

/-- A participant treats its gang as aborted (R421): one that has started is reset and ends with GABORT; another returns to READY, or ends
after 4 aborts. -/
def State.abortNode (s : State) (n : Node) (aborts : Nat) : State :=
  if n.phase ≠ 0 then s
  else if n.gst = .started then
    let p := n.core
    let s := s.reached n.vf (some n.id) 3
    let s := if n.kind = 0 then
        (if (s.hartAt p).any (fun h => decide (h.node = some n.id)) then (s.resetWork (fun q _ => decide (q = some p))).removeHart p else s)
      else
        let mine : List Nat := (s.copies.filter (fun c => decide (c.node = some n.id))).map (·.id)
        let s := s.resetWork (fun q c => q.isNone && decide (c = n.ctx))
        { s with copies := modList (fun c => nmem c.id mine) (fun c => { c with node := none }) s.copies
                 bcmds := modList (fun b => decide (b.node = some n.id)) (fun b => { b with node := none }) s.bcmds }
    s.nodeEnds n.id 4 0
  else if n.gst = .none then s
  else if 4 ≤ aborts then s.nodeEnds n.id 4 0
  else (s.onNode n.id (fun q => { q with bind := none, gst := .none, st := .ready, since := s.tick })).askDispatch n.home

/-- A participant gives its attempt up. An attempt that several participants give up is aborted once. -/
def State.giveUp (s : State) (n : Node) (g : Gang) : State :=
  let s := s.setVf n.vf { s.getVf n.vf with gab := true }
  let more := b2n (decide (n.attempt = g.attempt))
  let s := s.onGang n.vf n.gang (fun q =>
    { q with readys := q.readys.filter (fun i => decide (i ≠ n.id)), started := q.started && decide (more = 0), aborts := q.aborts + more,
             attempt := q.attempt + more })
  s.abortNode n (g.aborts + more)

/-- GANG_ABORT (R421). -/
def execGangAbort (node : Nat) (s : State) : Out :=
  match s.gangFor node with
  | none => .next s
  | some (n, g) =>
    .next (if s.gangAway then (if n.gst = .none ∨ n.phase ≠ 0 then s else s.giveUp n g) else s.abortNode n g.aborts)

/-- GANG_TIMEOUT (R420): no START or ABORT within 4 × `glead`. -/
def execGangTimeout (node : Nat) (s : State) : Out :=
  match s.gangFor node with
  | none => .next s
  | some (n, g) =>
    if n.gst ≠ .readySent ∨ g.started then .next s
    else if s.tick.toNat < n.sentAt.toNat + 4 * (s.getStk n.home).leadTicks then .next (s.postOnce (.gangTimeout node))
    else .next (s.giveUp n g)

/-! ## Dispatch (R417 to R419) -/

/-- What becomes of the node that is first in order, with the binding the lamplighter tries. -/
def State.dispatchOne (s : State) (n : Node) (b : W64) : State :=
  if n.st = .savedN then
    (if s.resumeFits n b then (match s.saved.find? (fun a => decide (a.node = some n.id)) with
      | some a => s.postOnce (.contextResume a.ia (bCore b) (1024 * lanesOf (bVlen b)))
      | none => s) else s)
  else if n.kind = 0 ∧ s.grantFits n b = false then s
  else if n.gang ≠ 0 then s.sendReady n (if n.kind = 0 then some b else none)
  else (s.startNode n b).1

/-- NODE_DISPATCH (R417, R419): the node that is first in order among those whose grant could be met is bound, if the binding is one of its
grants, or issued. -/
def execNodeDispatch (stack : Nat) (bind : W64) (s : State) : Out :=
  let (skipped, first) := s.firstGrant (s.dispatchable stack) []
  let s := s.noteSkips skipped
  let s := match first with
    | some n => s.dispatchOne n bind
    | none => s
  .next (if s.fenced stack ∨ s.dispatchable stack = [] then s else s.askDispatch stack)

/-- RESERVATION_OPEN (R418): a node at the highest priority that has been skipped for 256 µs gets the one reservation of its stack. -/
def execReservationOpen (stack quad : Nat) (s : State) : Out :=
  let t := s.getStk stack
  let live : Bool := match t.resv with
    | some (n, _) => s.nodes.any (fun m => decide (m.id = n) && (decide (m.st = .ready) || decide (m.st = .savedN)))
    | none => false
  let due (n : Node) : Bool := decide (s.prioOf n = 15) && (match n.skipAt with | some k => decide (k.toNat + 256000 ≤ s.tick.toNat) | none => false)
  match (s.dispatchable stack).find? due with
  | none => .next s
  | some n =>
    if live then .next (s.postOnce (.reservationOpen stack quad))
    else .next (s.setStk stack { t with resv := some (n.id, 128 * stack + quad % 128), skip := satAdd t.skip 1 })

/-! ## The scheduling tick (R415, R424, R429) -/

/-- The descriptors of the oldest fetched entry of a VF's FIFO are read and accepted, as far as its home pools take them (R429). One that is
refused for another reason ends the entry (log 33). -/
def State.takeEntry (s : State) (f : Nat) : Nat → State
  | 0 => s
  | fuel + 1 =>
    let v := s.getVf f
    if v.fetched = 0 then s
    else match v.entries with
      | [] => s
      | (num, e) :: rest =>
        let total := bitsOf e.toNat 46 41 + 1
        let ends (s : State) : State := s.setVf f { s.getVf f with entries := rest, fetched := v.fetched - 1, accepted := 0, cons := BitVec.ofNat 16 num }
        if bitsOf e.toNat 63 47 ≠ 0 then ends s
        else
          let ia := (bitsOf e.toNat 40 0 * 128 + 128 * v.accepted) % 2 ^ 48
          match s.engineRead (engineWho 8192 0 .sup f 0) ia 128 with
          | (s, .hold) => s
          | (s, .fault _) => ends s
          | (s, .ok l) => match valueOf 0 l with
            | .fault _ => ends s
            | .hold => s
            | .ok d => match s.accept (descWords d) f false none with
              | (s, 0) =>
                if v.accepted + 1 = total then ends s
                else State.takeEntry (s.setVf f { s.getVf f with accepted := v.accepted + 1 }) f fuel
              | (s, 1) => s
              | (s, _) => ends s

/-- The pre-emptions that the lamplighter of a stack asks for (R424): for a node that cannot bind, a running hart of its VF four levels below; for a VF
with more harts than its share, one of them. -/
def State.askPreempts (s : State) (k : Nat) : State :=
  let harts := (s.hart :: s.harts).filter (fun h => !h.lamp && decide (stackOf h.place = k) && h.pre.isNone)
  let want := (s.dispatchable k).find? (fun n => decide (n.kind = 0) && !s.grantable n &&
    harts.any (fun h => decide (h.vfid.toNat = n.vf) && decide (h.prio + 4 ≤ s.prioOf n)))
  let low : Option Hart := match want with
    | none => none
    | some n => harts.find? (fun h => decide (h.vfid.toNat = n.vf) && decide (h.prio + 4 ≤ s.prioOf n))
  let excess : Option Hart := harts.find? (fun h => decide (bitsOf (s.getVf h.vfid.toNat).qos.toNat 12 0 <
    ((s.hart :: s.harts).filter (fun q => !q.lamp && decide (q.vfid = h.vfid))).length))
  match low, excess with
  | some h, _ => s.postOnce (.preemptRequest h.place s.saveArea)
  | none, some h => s.postOnce (.preemptRequest h.place s.saveArea)
  | none, none => s

/-- SCHEDULING_TICK (R415, R424, R429). -/
def execSchedulingTick (stack : Nat) (s : State) : Out :=
  if s.fenced stack then .next s
  else
    let s := if stack = 0 then s.vfs.foldl (fun t e => t.takeEntry e.1 64) s else s
    let s := (s.nodes.filter (fun n => decide (n.home = stack) && decide (n.st = .blocked))).foldl (fun t n => t.postOnce (.nodeFire n.id)) s
    let s := if s.dispatchable stack = [] then s else s.askDispatch stack
    let s := if (s.dispatchable stack).any (fun n => n.skipAt.isSome) then
        (if s.agenda.any (fun a => match a with | .event (.reservationOpen j _) => decide (j = stack) | _ => false) then s
         else s.post (.reservationOpen stack ((Config.freeWord s.moves).toNat % 128))) else s
    let s := s.askPreempts stack
    .next (if s.dispatchable stack = [] ∧ (stack ≠ 0 ∨ s.vfs.all (fun e => decide (e.2.fetched = 0))) then s else s.postOnce (.schedulingTick stack))

/-! ## Completion (R416) -/

/-- The node status word. -/
def Node.status (n : Node) : W64 :=
  BitVec.ofNat 64 (n.code.toNat + 16 * n.ecode.toNat + 256 * n.rung + 2 ^ 16 * (if n.code = 3 then n.cause else 0) + 2 ^ 24 * n.tag)

/-- The status word is written into the cell's slot, and the arrival sent (R416). A cell that fails its checks is passed over and logged (log 34).
False: it must wait. -/
def State.nodeArrives (s : State) (n : Node) : State × Bool :=
  match s.barrierOf (s.getCtx n.ctx) .app n.cell with
  | .error _ => (s.logEvent n.home 6 0 0 n.cell.toNat, true)
  | .ok none => (s, true)
  | .ok (some ia) =>
    let tag := s.unitGen n.who.unit
    match s.engineWrite n.who (ia + 16) (bytesLE 8 n.status.toNat) tag with
    | (s, .hold) => (s, false)
    | (s, .fault _) => ((s.logEvent n.home 6 0 0 ia).signal ia 0 (decide (n.code ≠ 0)) n.who tag n.id, true)
    | (s, .ok _) => (s.signal ia 0 (decide (n.code ≠ 0)) n.who tag n.id, true)

/-- The entry of the completion queue, and vector 0 of the VF (R430, R468). -/
def State.nodePosted (s : State) (n : Node) : State :=
  let e := BitVec.ofNat 64 (2 ^ 63 + n.kind * 2 ^ 60 + n.vf * 2 ^ 54 + n.tag * 2 ^ 22 + n.code.toNat * 2 ^ 18 + n.ecode.toNat * 2 ^ 14 +
    (if n.kind = 0 then n.core else 0))
  (s.setStk n.home { s.getStk n.home with compl := (s.getStk n.home).compl ++ [e] }).msixVf n.vf 0

/-- A lamplighter's window to another is full (R423): 32 of its decrements there are not acknowledged. -/
def State.decsFull (s : State) (src dst : Nat) : Bool :=
  decide (32 ≤ (s.decOut.filter (fun q => decide (q.1 = src) && decide (q.2.1 = dst))).length)

/-- The decrements of a successor list from entry `i` on (R414), and where the list is not at its end, the entry at which it must wait: for a
read, or for a window that is full. -/
def State.sendDecs (s : State) (n : Node) : Nat → Nat → State × Option Nat
  | 0, _ => (s, none)
  | f + 1, i =>
    if n.nsucc ≤ i then (s, none)
    else match s.readVa n.who (s.getCtx n.ctx) (n.slist + BitVec.ofNat 64 (8 * i)) 8 with
      | (s, .hold) => (s, some i)
      | (s, .fault _) => (s.llError n.home 4 n.vf n.tag, none)
      | (s, .ok e) =>
        let q : Nat × Nat × Nat × Nat := (n.home, bitsOf e 35 32, n.vf, bitsOf e 31 0)
        if s.decsFull q.1 q.2.1 then (s, some i)
        else State.sendDecs (({ s with decOut := s.decOut ++ [q] } : State).postOnce (.decrementArrival q.2.1 q.2.2.1 q.2.2.2)) n f (i + 1)

/-- NODE_COMPLETE (R416): the status and the arrival; then the queue entry; then the decrements; and the node leaves its pool. -/
def execNodeComplete (node : Nat) (s : State) : Out :=
  match s.nodeAt node with
  | none => .next s
  | some n =>
    let again (s : State) : Out := .next (s.postOnce (.nodeComplete node))
    let phase (s : State) (p : Nat) : State := s.onNode node (fun q => { q with phase := p })
    if n.phase = 0 then .next s
    else if n.phase = 1 then
      (match s.nodeArrives n with
       | (s, false) => again s
       | (s, true) => again (phase s 2))
    else if n.phase = 2 then
      (if s.signalled node then again s else again (phase (s.nodePosted n) 3))
    else match s.sendDecs n 257 (n.phase - 3) with
      | (s, some i) => again (phase s (3 + i))
      | (s, none) =>
        let rest := s.nodes.filter (fun q => decide (q.id ≠ node))
        let alone := !rest.any (fun q => decide (q.vf = n.vf) && decide (q.gang = n.gang))
        .next (({ s with nodes := rest, gangs := s.gangs.filter (fun g => !(alone && decide (g.vf = n.vf) && decide (g.gang = n.gang))) } :
          State).postOnce (.schedulingTick n.home))

/-! ## Submission blocks and mailboxes -/

/-- QSUB_WRITE (R428). -/
def execQsubWrite (vf : Nat) (val : W64) (s : State) : Out := .next (s.qsubPush vf val)

/-- QSTAT_WRITE (R427, R429). -/
def execQstatWrite (vf : Nat) (val : W64) (lvl : BitVec 2) (s : State) : Out := .next (s.qstatPut vf val ((levelOf lvl).getD .app))

/-- The lamplighter answers a mailbox (R432). -/
def State.answerBox (s : State) (k i : Nat) (resp : W64) : State :=
  s.setBox k i { s.getBox k i with resp := resp, go := false, done := true }

/-- MAILBOX_UNKNOWN_SERVICE (R432). -/
def execMailboxUnknownService (stack i : Nat) (s : State) : Out :=
  let m := s.getBox stack i
  .next (if m.go ∧ m.svc ≠ 1 then s.answerBox stack i 0xFF else s)

end Sys2Proof.Machine
end

