-- ==== Sys2Proof/Machine/Fetch.lean ====
section
/-! DEFINITION. What stands between the instructions of a hart: the boundary at which an interrupt (R440, R441), a deferred FP
exception (R188, R437) or the end of a run-ahead (R40) is taken, and the fetch of a word (R13, R507). -/
namespace Sys2Proof.Machine

/-- A pending interrupt that the hart takes at its next boundary (R441): at app, or at sup with `sstat.ie`. -/
def Hart.interruptible (h : Hart) : Bool :=
  decide (h.irqs ≠ []) && (decide (h.level = .app) || (decide (h.level = .sup) && h.sup.ie))

/-- A wait that gives way to an interrupt (R441); BWAIT and CBWAIT execute again after it. -/
def Wait.yields : Wait → Bool
  | .bwait _ _ _ _ _ => true
  | .cbwait _ _ _ _ _ _ => true
  | .tdone => true
  | _ => false

/-- A hart can take a step: it is neither being pre-empted nor waiting. In a wait that yields, an interrupt lets it step, and
a hart at TDONE tries again (R302, R425). -/
def Hart.canStep (h : Hart) : Bool :=
  match h.wait with
  | none => h.pre.isNone
  | some .tdone => true
  | some w => h.pre.isNone && w.yields && h.interruptible

/-- A deferred FP exception is taken at the boundary (R188, R437); one raised while a batch trap was due waits for the ERET
that returns from it (R41). -/
def State.takeDeferred (s : State) : Option State :=
  match s.hart.defer with
  | (slot, f, d) :: l =>
    if s.hart.depth ≤ d then
      let s := s.upd (fun h => { h with defer := l })
      some (s.trap (causeOf 9 slot) (f.setWidth 64) s.hart.pc)
    else none
  | [] => none

/-- The reason for which a run-ahead stops at this boundary (R40, R43). -/
def State.aheadDone (s : State) (r : RunAhead) : Option Nat :=
  if r.stop.isSome then r.stop
  else if s.hart.pre.isSome || s.hart.interruptible then some 5
  else if 256 ≤ (s.hart.instret - r.ck.instret).toNat then some 0
  else none

/-- What a fetch comes to: the word, a fault with its cause and trap value, or a wait. -/
inductive Fetched where
  | word (s : State) (w : IWord)
  | fault (s : State) (cause : Nat) (tval : W64)
  | hold (s : State)

/-- A fetch fault: the trap value is the one its cause has (R33, R448); where that is the VA of the first byte, it is the fetch VA (R438; log 41). -/
def State.fetchFault (s : State) (f : Flt) : Fetched := .fault s f.code f.tval

/-- A word that the hart that steps fetches ahead and keeps (R507): at a VA of the part's choosing, where the fetch meets no fault and no
device (log 11). -/
def State.prefetched (s : State) : List (Nat × IWord) :=
  let va := Config.prefetchVa s.moves
  match issue s.myCtx s.hart.level va 4 .fetch with
  | .error _ => []
  | .ok (ia, attr) => if attr = 3 then [] else match s.window va ia 4 attr with
    | .error _ => []
    | .ok w => match (s.loadAt s.me va ia 4 attr w 0 .fetch).2 with
      | .ok l => (match valueOf va l with
        | .ok v => [(ia, BitVec.ofNat 32 v)]
        | _ => [])
      | _ => []

/-- Words enter those that the hart that steps keeps. -/
def State.keepWords (s : State) (l : List (Nat × IWord)) : State :=
  s.upd (fun h => { h with ibuf := l ++ h.ibuf.filter (fun q => !nmem q.1 (l.map (·.1))) })

/-- The word at the PC (R13, R507): one the hart has kept, where the part chooses so (log 11), or a read of memory, which the
hart keeps. -/
def State.fetchWord (s : State) : Fetched :=
  let va := s.hart.pc
  match issue s.myCtx s.hart.level va 4 .fetch with
  | .error f => s.fetchFault f
  | .ok (ia, attr) => match s.window va ia 4 attr with
    | .error f => s.fetchFault f
    | .ok w =>
      let anew : Fetched :=
        match s.loadAt s.me va ia 4 attr w 0 .fetch with
        | (s, .hold) => .hold s
        | (s, .fault f) => s.fetchFault f
        | (s, .ok l) => match valueOf va l with
          | .hold => .hold s
          | .fault f => s.fetchFault f
          | .ok v =>
            let word : IWord := BitVec.ofNat 32 v
            .word ((s.keepWords s.prefetched).keepWords [(ia, word)]) word
      match s.hart.ibuf.find? (fun q => decide (q.1 = ia)) with
      | some q => if Config.keepFetched s.moves then .word (s.keepWords (s.prefetched.filter (fun p => decide (p.1 ≠ ia)))) q.2 else anew
      | none => anew

/-- The hart that steps is about to execute a word: the word is the trap value of an illegal instruction (R438), and the first
fetch of a handler has succeeded (R452). -/
def State.begin_ (s : State) (w : IWord) : State := s.upd (fun h => { h with iw := w, hfirst := false })

/-- Time passes with every step (log 4). -/
def Hart.clock (c : Nat) (h : Hart) : Hart := { h with cycle := h.cycle + BitVec.ofNat 64 c }

def State.clock (s : State) : State :=
  { s with moves := s.moves + 1, tick := s.tick + BitVec.ofNat 64 (Config.elapsed s.moves),
           hart := s.hart.clock (Config.cycles s.moves), harts := s.harts.map (Hart.clock (Config.cycles s.moves)) }

/-! ## Vector instructions that wait in the queue (R183 to R185, R189) -/

/-- The oldest vector instruction of the hart that waits in its queue. -/
def State.firstLate (s : State) : Option Late := s.lates.find? (fun l => decide (l.place = s.hart.place))

/-- The state a queued vector instruction captured, with the vector registers and the queue as they are now. -/
def Late.hart (l : Late) (cur : Hart) : Hart :=
  { l.ck with v := cur.v, m := cur.m, mUnk := cur.mUnk, upset := cur.upset, vdep := cur.vdep, cycle := cur.cycle, ibuf := cur.ibuf,
              vq := cur.vq.filter (fun e => e.late.isNone) }

/-- What other units have told the hart meanwhile. -/
def Hart.told (h t : Hart) : Hart := { h with gen := t.gen, latch := h.latch || t.latch, irqs := t.irqs }

/-- What a queued vector instruction has done by its completion, in a later state of its hart. -/
def Late.after (l : Late) (t h : Hart) : Hart :=
  { h.told t with v := t.v, m := t.m, mUnk := t.mUnk, upset := t.upset, vdep := t.vdep, fflags := h.fflags ||| t.fflags, vstart := t.vstart,
                  vresid := t.vresid, vseed := t.vseed, didx := t.didx,
                  acqOn := h.acqOn.filter (fun q => nmem q.1 (t.acqOn.map (·.1)) || !nmem q.1 (l.ck.acqOn.map (·.1))),
                  x := Vector.ofFn (fun i => if h.x[i] = .late l.id then t.x[i] else h.x[i]),
                  xdep := Vector.ofFn (fun i => if h.x[i] = .late l.id then t.xdep[i] else h.xdep[i]),
                  vq := t.vq ++ h.vq.filter (fun e => e.late.isSome && decide (e.late ≠ some l.id)) }

/-- The younger scalar instructions are discarded (R185): the hart is `h`, no vector instruction waits, and the symbolic loads that they issued
are forgotten. -/
def State.discard (s : State) (cur ck h : Hart) : State :=
  let gone := cur.symReqs.filter (fun i => !nmem i ck.symReqs)
  { s with hart := h, lates := s.lates.filter (fun l => decide (l.place ≠ h.place))
           reqs := if gone = [] then s.reqs else s.reqs.filter (fun r => !nmem r.id gone) }

/-- Before an interrupt, a deferred exception or a pre-emption is served, the hart returns to its oldest vector instruction that waits. -/
def State.unlate (s : State) : State :=
  match s.firstLate with
  | none => s
  | some l => s.discard s.hart l.ck (l.hart s.hart)

/-- The oldest vector instruction that waits is tried. It completes, and the younger instructions stand; it must go on waiting; or it traps
or starts a run-ahead, and the younger instructions are discarded (R185, R436). -/
def State.runLate (run : IWord → State → Out) (l : Late) (s : State) : Out :=
  let cur := s.hart
  let place := cur.place
  let mine (q : Late) : Bool := decide (q.place = place)
  match run l.word { s with hart := l.hart cur, lates := s.lates.filter (fun q => !mine q) } with
  | .next t =>
    let t := t.focus place
    if t.hart.vq.any (fun e => e.late.isSome) || (decide (t.hart.pc = l.ck.pc) && decide (t.hart.depth = l.ck.depth) && !t.inAhead &&
        decide (t.hart.vstart = (l.hart cur).vstart)) then
      .next { t with hart := cur.told t.hart, lates := modList mine (fun q => { q with ck := q.ck.told t.hart }) s.lates }
    else if decide (t.hart.pc = l.ck.pc + 4) && decide (t.hart.depth = l.ck.depth) && !t.inAhead then
      .next { t with hart := l.after t.hart cur
                     lates := modList mine (fun q => { q with ck := l.after t.hart q.ck }) (s.lates.filter (fun q => decide (q.id ≠ l.id))) }
    else .next (t.discard cur l.ck t.hart)
  | o => o

/-- The queued vector instruction acts, rather than the scalar stream; it must where 64 younger instructions wait in the retire buffer (R185). -/
def State.lateTurn (s : State) (l : Late) : Bool :=
  decide (64 ≤ (s.hart.instret - l.ck.instret).toNat) || decide (Config.element s.moves % 2 = 0)

/-- One of those that may act next: a hart, or an entry of the agenda by its position. -/
inductive Pick where
  | hart (place : Nat)
  | act (k : Nat)
  deriving DecidableEq, Repr

/-- The work of an engine: a bank handler, a matrix operation at its bay, a copy. -/
def Act.engine (a : Act) : Bool :=
  match a with
  | .micro _ => true
  | .event (.invocationStart _) | .event (.cpybDestWrite _) | .event (.vbusBeatGrant _ _) | .event (.mldwBay _) | .event (.mmaBay _)
  | .event (.mmazBay _) | .event (.mstaBay _) | .event (.mchkBay _) | .event (.mverBay _) | .event (.copyAccept _)
  | .event (.copyClassRound _) | .event (.copyChunkComplete _ _) => true
  | _ => false

/-- What the host does on the recovery surface (R459, R476, R477). -/
def Act.surface (a : Act) : Bool :=
  match a with
  | .event .partReset | .event .recoveryLoad | .event .recoveryCommit | .event .recoveryReset | .event .getVersion
  | .event .getCapabilities | .event .negotiateAlgorithms | .event .getDigests | .event .getCertificate | .event .challenge
  | .event (.getMeasurements _) | .event .keyExchange | .event .finish | .event (.hostLinkTrained _ _ _ _) => true
  | _ => false

/-- The entries of the agenda that may act: while the input voltage is out of range, no engine does (R478); after a fatal error,
only the recovery surface does (R459). -/
def State.acts (s : State) : List Nat :=
  (upto s.agenda.length).filter (fun k => match s.agenda[k]? with
    | some a => !(s.plat.vfault && a.engine) && (s.stopped.isNone || a.surface)
    | none => false)

/-- Those that may act next. No hart runs before the firmware does (R475). -/
def State.picks (s : State) : List Pick :=
  (if s.plat.boot = 2 ∧ s.stopped.isNone then ((s.hart :: s.harts).filter (fun h => h.canStep || s.ras.any (fun r => decide (r.place = h.place)))).map
      (fun h => .hart h.place) else []) ++
    s.acts.map .act

/-- The one that acts: the only one, or one of the part's choosing (log 3). -/
def State.pick (s : State) : Option Pick :=
  match s.picks with
  | [] => none
  | [p] => some p
  | ps => ps[Config.turn s.moves % ps.length]?

/-- An entry taken off the agenda. -/
def State.take (s : State) (k : Nat) : State := { s with agenda := s.agenda.eraseIdx k }

/-- The microword an invocation executes next. -/
def State.microAt (s : State) (id : Nat) : Option Micro :=
  match s.invs.find? (fun v => decide (v.id = id)) with
  | some v => v.code[v.pc]?
  | none => none

end Sys2Proof.Machine
end

