-- ==== Sys2Proof/Machine/EvPreempt.lean ====
section
/-! DEFINITION. The pre-emption ladder (R424 to R426): drain, save and reset, and the resumption of a saved context (R216). -/
namespace Sys2Proof.Machine

/-! ## Rung 1 -/

/-- T1 and T2 of a stack in ticks (R431). -/
def Stack.t1Ticks (t : Stack) : Nat := 1000 * max 1 t.t1.toNat
def Stack.t2Ticks (t : Stack) : Nat := 1000 * max 1 t.t2.toNat

/-- What a pre-emption request does to a hart (R298, R351, R425): WFE returns 2, and BWAIT and CBWAIT will execute again. -/
def Hart.beginDrain (p : Preempt) (h : Hart) : Hart :=
  let h : Hart := { h with pre := some p }
  match h.wait with
  | some (.wfe rd _) => { (h.wx rd (.known 2)) with wait := none, pc := h.pc + 4, instret := h.instret + 1 }
  | some (.bwait _ _ _ _ _) | some (.cbwait _ _ _ _ _ _) => { h with wait := none }
  | _ => h

/-- PREEMPT_REQUEST (R424, R425): the request reaches a hart and rung 1 begins, at the oldest vector instruction that has not completed. -/
def execPreemptRequest (place save : Nat) (s : State) : Out :=
  let s := if (s.hartAt place).any (fun h => h.pre.isNone) then (s.focus place).unlate else s
  match s.hartAt place with
  | none => .next s
  | some h =>
    if h.lamp ∨ h.pre.isSome then .next s
    else
      let t := s.getStk (stackOf place)
      let p : Preempt := { rung := 1, since := s.tick, save := save % 2 ^ 48 / 64 * 64, t1 := t.t1Ticks, t2 := t.t2Ticks }
      .next (((s.onHart place (Hart.beginDrain p)).postOnce (.preemptDrainDone place)).postOnce (.preemptT1Expiry place))

/-- A hart waits for an answer that is written before the request is honoured (R299, R357). -/
def Hart.mustAnswer (h : Hart) : Bool :=
  match h.wait with
  | some (.snap _) | some (.srcfg _ _ _) | some (.wickload _ _ _ _) => true
  | _ => false

/-- The hart may be saved as far as its own streams go: its queue is empty and it waits for no answer. -/
def State.drained (s : State) (h : Hart) : Bool :=
  decide (h.vq = []) && !h.mustAnswer && !s.ras.any (fun r => decide (r.place = h.place))

/-- Rung 2 begins (R375, R425). -/
def State.beginSave (s : State) (h : Hart) (p : Preempt) : State :=
  let s := s.onHart h.place (fun q => { q with pre := some { p with rung := 2, since := s.tick }, wait := none })
  let s := s.dropMstas (fun o => decide (o.place = h.place))
  (s.postOnce (.contextSaveDone h.place)).postOnce (.preemptT2Expiry h.place)

/-- The hart at a place and its ladder, on a rung. -/
def State.onRung (s : State) (place rung : Nat) : Option (Hart × Preempt) :=
  match s.hartAt place with
  | none => none
  | some h => match h.pre with
    | none => none
    | some p => if p.rung = rung then some (h, p) else none

/-- A symbol of the hart is pending (R205). -/
def Hart.symWaits (h : Hart) : Bool := h.sym.toList.any (fun q => match q with | .pending _ _ => true | .copyStatus _ => true | _ => false)

/-- PREEMPT_DRAIN_DONE (R425): the queue is empty and no symbol is pending. A hart at TDONE goes on with it. -/
def execPreemptDrainDone (place : Nat) (s : State) : Out :=
  match s.onRung place 1 with
  | none => .next s
  | some (h, p) =>
    .next (if s.drained h && !h.symWaits && decide (h.wait ≠ some .tdone) then s.beginSave h p else s.postOnce (.preemptDrainDone place))

/-- PREEMPT_T1_EXPIRY (R425). The vector queue has no place in the area, so its entries are performed first (log 35). -/
def execPreemptT1Expiry (place : Nat) (s : State) : Out :=
  match s.onRung place 1 with
  | none => .next s
  | some (h, p) =>
    .next (if s.drained h && decide (p.since.toNat + p.t1 ≤ s.tick.toNat) then s.beginSave h p else s.postOnce (.preemptT1Expiry place))

/-! ## Rungs 2 and 3 -/

/-- PREEMPT_T2_EXPIRY (R425): the engines' work of the hart is reset. -/
def execPreemptT2Expiry (place : Nat) (s : State) : Out :=
  match s.onRung place 2 with
  | none => .next s
  | some (_, p) =>
    if s.tick.toNat < p.since.toNat + p.t2 then .next (s.postOnce (.preemptT2Expiry place))
    else
      let s := s.resetWork (fun q _ => decide (q = some place))
      .next ((s.onHart place (fun h => { h with pre := some { p with rung := 3 } })).postOnce (.contextSaveDone place))

/-- The save must still wait: for the hart's tile operations (R375), for the binding of a symbolic AMO that has been sent (R173), and at rung 3
for its running invocations (R425). -/
def State.saveWaits (s : State) (h : Hart) (rung : Nat) : Bool :=
  s.mops.any (fun o => decide (o.place = h.place) && decide (o.sub ≠ 1)) ||
    h.sym.toList.any (fun q => match q with | .pending p r => decide (p.amo ≠ 0) && decide (r ≠ 0) | _ => false) ||
    (decide (rung = 3) && s.invs.any (fun v => v.st.active &&
      s.bcmds.any (fun b => decide (b.id = v.cmd) && decide (b.place = some h.place))))

/-- The hart leaves its core with its area written (R215, R216, R426). -/
def State.contextSaved (s : State) (h : Hart) (p : Preempt) : State :=
  let k := stackOf h.place
  let s : State := { s with free := s.free + 32 }
  let a : Saved := { ia := p.save, ctxKey := h.ctxKey, vf := h.vfid.toNat, node := h.node, rung := p.rung,
                     ids := h.held.map (fun c => (c.cnum, c.id)), was := h }
  let s := ((s.forget h.place).movePlace h.place (savedPlace k p.save)).unbind h.place
  let s : State := { s with
    copies := s.copies.map (fun c => if c.place = some (savedPlace k p.save) then { c with saved := some p.save } else c)
    saved := s.saved.filter (fun q => decide (q.ia ≠ p.save)) ++ [a] }
  let s := s.reached h.vfid.toNat h.node p.rung
  match h.node with
  | none => s
  | some n => (s.onNode n (fun q => { q with st := .savedN, since := s.tick, skipAt := none })).askDispatch k

/-- CONTEXT_SAVE_DONE (R175, R215, R425): the accesses of the hart are released at device scope, then the area is written, and the context
returns to the pool. -/
def execContextSaveDone (place : Nat) (s : State) : Out :=
  let go (h : Hart) (p : Preempt) : Out :=
    if s.saveWaits h p.rung then .next (s.postOnce (.contextSaveDone place))
    else match s.releaseBoth ((s.focus place).me) 4 with
      | (s, false) => .next (s.postOnce (.contextSaveDone place))
      | (s, true) =>
        let k := stackOf place
        let w := engineWho (8192 + 4 * k) k .sup h.vfid.toNat h.ctxKey
        match s.writeChunks w p.save (s.unitGen w.unit) (s.areaChunks h p.rung) with
        | (s, false) => .next (s.postOnce (.contextSaveDone place))
        | (s, true) => .next (s.contextSaved h p)
  match s.onRung place 2, s.onRung place 3 with
  | some (h, p), _ => go h p
  | none, some (h, p) => go h p
  | none, none => .next s

/-! ## Resumption (R216) -/

/-- The commands of a saved context that are still outstanding, and those it holds. -/
def State.openCmds (s : State) (place : Nat) (held : List Held) : List Nat :=
  let l := (s.copies.filter (fun c => decide (c.place = some place))).map (·.cnum) ++
    (s.bcmds.filter (fun c => decide (c.place = some place))).map (·.cnum) ++
    (s.mops.filter (fun o => decide (o.place = place))).map (·.cnum) ++ held.map (·.cnum)
  l.foldl (fun m n => nins n m) []

/-- The tiles of an area are restored (R215). -/
def State.restoreTiles (s : State) (place g : Nat) (h : Hart) : State :=
  let tile := h.tm * h.tn
  (upto (min h.nacc.toNat (fld g 20 1))).foldl (fun t n =>
    let o := fld g 16 4 + 4 * tile * n
    let e := (upto tile).foldl (fun m i => sset 0 m i (BitVec.ofNat 32 (fld g (o + 4 * i) 4))) []
    t.setTile (tileKey place n) { elems := e }) s

/-- The completion records of the area are bound (R216). None: a command released by one must wait. -/
def State.bindRecords (s : State) (place g : Nat) : List Nat → Option State
  | [] => some s
  | i :: l => match imgSlot g i with
    | .copyStatus n =>
      let r := fld g (offCsr + 8 * (32 + n)) 8
      (match (if bitOf r 63 then s.resolve place i (BitVec.ofNat 64 (r % 2 ^ 63)) else some s) with
       | some s => State.bindRecords s place g l
       | none => none)
    | _ => State.bindRecords s place g l

/-- A saved context is bound again from its area, with an acquire of device scope before its first instruction (R175). None: it must wait. -/
def State.resumeHart (s : State) (a : Saved) (g place vlen : Nat) (bay : BitVec 6) : Option State :=
  let k := stackOf place
  let from_ := savedPlace (stackOf a.was.place) a.ia
  let h := a.was.restore g place vlen a.was.bv bay s.gens.dev
  let h : Hart := { h with held := h.held.map (fun c => { c with id := ((a.ids.find? (fun q => decide (q.1 = c.cnum))).map (·.2)).getD c.id }) }
  let s := s.setCtx h.ctxKey (imgRanges g (s.getCtx h.ctxKey))
  let s := s.movePlace from_ place
  let h : Hart := { h with cmds := s.openCmds place h.held }
  let s : State := { s with
    copies := s.copies.map (fun c => if c.place = some place then { c with saved := none } else c)
    saved := s.saved.filter (fun q => decide (q.ia ≠ a.ia)) }
  let s := (s.bindHart h).restoreTiles place g h
  let s := match h.node with
    | some n => s.onNode n (fun q => { q with st := .running, core := place, skipAt := none })
    | none => s
  match s.bindRecords place g (upto 16) with
  | none => none
  | some s =>
    let s := s.focus place
    let s := (upto 16).foldl (fun t i => match t.hart.slot i with
      | .pending p _ => if p.amo = 0 then t.resend i else t
      | _ => t) s
    some (s.askDispatch k)

/-- CONTEXT_RESUME (R180, R216, R426): on a free grant whose VLEN R180 allows, a saved context is checked and restored. A refused area sets `rfail`
and is reported, and the context stays saved. -/
def execContextResume (save place vlen : Nat) (s : State) : Out :=
  match s.saved.find? (fun a => decide (a.ia = save)) with
  | none => .next s
  | some a =>
    let k := stackOf a.was.place
    let bay := (Config.freeWord s.moves).toNat % 64
    let lanes := vlen / 1024
    let me := a.node
    if stackOf place ≠ k ∨ 8192 ≤ place ∨ nmem vlen [1024, 2048, 4096] = false ∨ place % lanes ≠ 0 ∨ s.coresTaken me place lanes ∨
        (a.was.bv = true ∧ s.freeTiles me k bay < a.was.nacc.toNat) ∨ s.fenced k then .next s
    else
      let w := engineWho (8192 + 4 * k) k .sup a.vf a.ctxKey
      let refuse (s : State) : Out :=
        .next ((s.setVf a.vf { s.getVf a.vf with rfail := true }).llError k 0 a.vf a.ia)
      match s.readArea w a.ia with
      | (s, .hold) => .next (s.postOnce (.contextResume save place vlen))
      | (s, .fault _) => refuse s
      | (t, .ok g) =>
        if !imgOk g then refuse t
        else
          let h := a.was.restore g place vlen a.was.bv (BitVec.ofNat 6 bay) t.gens.dev
          if vlen ≠ fld g 4 2 ∧ h.vill = false ∧ h.vlmax < h.vl then .next t
          else match t.resumeHart a g place vlen (BitVec.ofNat 6 bay) with
            | some u => .next u
            | none => .next (s.postOnce (.contextResume save place vlen))

end Sys2Proof.Machine
end

