-- ==== Sys2Proof/Machine/EvTranslate.lean ====
section
/-! DEFINITION. Events of translation: the registers of the 0xA window (R20, R32, R505), requests at their home (R34, R44, R45), the
walk batches (R30), responses (R38, R116), the end of a run-ahead (R41), holds (R44, R385) and retirement (R46). -/
namespace Sys2Proof.Machine

/-! ## Register accesses from outside the harts -/

/-- The maker of a register access at a level, with no hart behind it. -/
def devWho (k : Nat) (lvl : Level) : Who :=
  { unit := unitHost 0, cluster := none, stack := k, lvl := lvl, vf := 0, ctx := 2 ^ 40 }

/-- REGISTER_WRITE (R7, R17, R505): an 8-byte write at an offset of the 0xA window; one that fails a check writes nothing. -/
def execRegisterWrite (off : Nat) (val : BitVec 64) (lvl : BitVec 2) (s : State) : Out :=
  match levelOf lvl with
  | none => .next s
  | some l =>
    let k := off / 2 ^ 24
    if 16 ≤ k ∨ s.fenced k then .next s
    else match s.devStore (devWho k l) k (off % 2 ^ 24) 8 val with
      | some (t, true) => .next t
      | some (t, false) => .next (t.postOnce (.registerWrite off val lvl))
      | none => .next s

/-- REGION_DESCRIPTOR_WRITE (R20): descriptor `r` on all 16 stacks. -/
def execRegionDescriptorWrite (r : Nat) (val : BitVec 64) (s : State) : Out := .next (s.regionWrite (r % 4096) val)

/-- TCINV_WRITE (R31, R32): a seventeenth write waits. -/
def execTcinvWrite (stack : Nat) (val : BitVec 64) (s : State) : Out :=
  let k := stack % 16
  match s.tcinvPush k (val &&& 0xfffffffff0007#64) with
  | (s, true) => .next s
  | (s, false) => .next (s.postOnce (.tcinvWrite stack val))

/-- TCINV_READ (R31, R32): the value read is 0 once every invalidation is done. -/
def execTcinvRead (stack : Nat) (s : State) : Out :=
  let k := stack % 16
  .next { s with reads := s.reads ++ [(BitVec.ofNat 64 (s.devValue k .tcinv), false)] }

/-- TCINV_INVALIDATION_DONE (R31, R32): the oldest invalidation removes its translations; owner tags follow a page whose entry
has changed (R386). -/
def execTcinvInvalidationDone (stack : Nat) (s : State) : Out :=
  let t := s.getStk stack
  match t.tcinvQ with
  | [] => .next s
  | v :: l =>
    let s := (s.setStk stack { t with tcinvQ := l }).invalidateTc stack v
    let s := if bitsOf v.toNat 2 0 ≤ 4 then s.retag stack (bitsOf v.toNat 51 16 * 2 ^ 16) (pageSize (bitsOf v.toNat 2 0)) else s
    .next (if l = [] then s else s.postOnce (.tcinvInvalidationDone stack))

/-! ## Holds (R44, R87, R98, R385) -/

/-- MIGCTL_HOLD (R32, R44). -/
def execMigctlHold (stack i : Nat) (val : BitVec 64) (s : State) : Out := .next (s.migHold (stack % 16) (i % 4) val)

/-- MIGCTL_RELEASE (R32, R44). -/
def execMigctlRelease (stack i : Nat) (s : State) : Out := .next (s.migRelease (stack % 16) (i % 4))

/-- A planar page of 1 MiB that a held row-lock, an invocation or a BKCOPY still uses (R98, R385). -/
def State.pageBusy (s : State) (k page : Nat) : Bool :=
  match s.planarAt k page with
  | none => false
  | some (sub, _) =>
    let die := keyDie (sub * 2 ^ 20)
    let bank := sub / 64 % 64
    let mine (d b u : Nat) : Bool := decide (d = die) && decide (b = bank) && decide (u = sub % 64)
    s.locks.any (fun l => l.isHeld && mine l.die l.bank l.sub) || s.invs.any (fun v => mine v.die v.bank v.sub && decide (v.st ≠ .ended)) ||
      s.bcmds.any (fun c => c.copy && !c.sent && (decide (c.dst / 2 ^ 20 = page) || decide (c.src / 2 ^ 20 = page)))

/-- A planar page of a range is still used. -/
def State.rangeBusy (s : State) (k ia n : Nat) : Bool := (mibPages ia n).any (s.pageBusy k)

/-- MIGCTL_HOLD_GRANTED (R44, R98, R385): the hold takes effect once nothing uses the page in the bank plane. -/
def execMigctlHoldGranted (stack i : Nat) (s : State) : Out :=
  let m := s.getMig stack i
  let ia := m.ia.toNat * 2 ^ 16
  if !m.wanted ∨ m.held then .next s
  else if (upto 4).any (fun j => decide (j ≠ i) && (s.getMig stack j).held && (s.getMig stack j).overlaps ia (pageSize m.size.toNat)) then
    .next (s.setMig stack i { m with wanted := false })
  else if s.rangeBusy stack ia (pageSize m.size.toNat) then .next (s.postOnce (.migctlHoldGranted stack i))
  else .next ((s.setMig stack i { m with wanted := false, held := true, drained := false }).postOnce (.migctlDrained stack i))

/-- A request translated to a page is still to be performed there. -/
def State.inFlight (s : State) (ia n : Nat) : Bool :=
  s.reqs.any (fun r => (decide (r.stage = .engine) || decide (r.stage = .unit) || (r.isAmo && decide (r.stage = .done))) && decide (ia < r.ia + r.n) && decide (r.ia < ia + n))

/-- MIGCTL_DRAINED (R44): every request translated before the hold has completed. -/
def execMigctlDrained (stack i : Nat) (s : State) : Out :=
  let m := s.getMig stack i
  if !m.held ∨ m.drained then .next s
  else if s.inFlight (m.ia.toNat * 2 ^ 16) (pageSize m.size.toNat) then .next (s.postOnce (.migctlDrained stack i))
  else .next (s.setMig stack i { m with drained := true })

/-! ## Requests -/

def State.onReq (s : State) (id : Nat) (f : Req → Req) : State := { s with reqs := modList (fun r => decide (r.id = id)) f s.reqs }
def State.dropReq (s : State) (id : Nat) : State := { s with reqs := s.reqs.filter (fun r => decide (r.id ≠ id)) }

/-- The maker of a request. -/
def State.reqWho (s : State) (r : Req) : Who :=
  match r.src with
  | .sym place _ =>
    { unit := place, cluster := if place < 8192 then some (clusterOf place) else none, stack := stackOf place, lvl := r.lvl,
      vf := r.vf, ctx := ((s.hartAt place).map (·.ctxKey)).getD (2 ^ 40), place := some place, queued := true }
  | .host => { devWho 0 r.lvl with vf := r.vf, ctx := 2 ^ 40 + 1, queued := true }
  | .far _ => devWho r.cluster r.lvl
  | .peer q => { unit := unitGlow q, cluster := none, stack := q / 4, lvl := r.lvl, vf := r.vf, ctx := 2 ^ 40 + 2, queued := true }

/-- A request ends with a fault (R33, R38). -/
def State.failReq (s : State) (id code : Nat) : State :=
  (s.onReq id (fun r => { r with stage := .failed, cause := code })).postOnce (.faultResponse id)

/-- A request has been served; its response is on its way (R116). -/
def State.serveReq (s : State) (id : Nat) (v : W64) : State :=
  (s.onReq id (fun r => { r with stage := .done, result := v })).postOnce (.accessResponse id)

/-- The pieces of a request under the translation it already has: a cached entry of its home serves it although its page is
held (R44); otherwise it is translated. -/
def State.reqPieces (s : State) (r : Req) (acc : Acc) : State × Got (List Piece) :=
  let w := s.reqWho r
  match s.home r.ia with
  | none => s.pieces w r.va r.ia r.n acc
  | some k =>
    if !s.migHeld k r.ia ∨ 65536 < r.ia % 65536 + r.n then s.pieces w r.va r.ia r.n acc
    else match (s.getStk k).cached r.ia with
      | none => (s, .hold)
      | some q =>
        if pteRepl q.pte.toNat then (s, .hold)
        else match s.leafChecks q.pte.toNat w.lvl w.vf acc with
          | some c => (s, .fault { code := c, tval := BitVec.ofNat 64 r.ia, ia := r.ia })
          | none => (s, .ok [{ ia := r.ia, len := r.n, key := keyUnder q.pte.toNat q.size r.ia, pte := q.pte.toNat, size := q.size, home := k }])

/-- What a request needs of its page. -/
def Req.acc (r : Req) : Acc :=
  match r.op with
  | .read => .read
  | .write => .write
  | .amo _ _ _ => .both

/-! ## Batched walks (R30) -/

/-- The units of requests, as elements of a batch at stack `k`. -/
def State.missElem (s : State) (k : Nat) (r : Req) : Option WalkElem :=
  ((segments 3 r.ia r.n).find? (fun g => decide (s.home g.1 = some k) && ((s.getStk k).cached g.1).isNone)).map
    (fun g => { req := r.id, unit := g.1 / 65536 })

/-- A request's miss at stack `k` (R30). -/
def State.missAt (s : State) (k : Nat) (r : Req) (ia : Nat) : State :=
  (s.onReq r.id (fun q => { q with stage := .walking })).enterWalk k { req := r.id, unit := ia / 65536 }

/-- WALK_BATCH_CLOSE (R30): the batch gathers no more, and its L2 entries are read. What the batch before it answered has arrived. -/
def execWalkBatchClose (stack : Nat) (s : State) : Out :=
  let t := s.getStk stack
  match t.batch with
  | none => .next s
  | some b =>
    if !b.openB then .next s
    else .next ((s.setStk stack { t with batch := some { b with openB := false }, walked := [] }).postOnce (.walkGatherDone stack))

/-- What one level of a walk comes to. -/
inductive WalkStep where
  | fault (code : Nat)
  | down
  | leaf (e level key : Nat)

/-- The entry of a level on the walk of an IA (R22 to R27); what the upper levels read is in the table-entry cache. -/
def State.walkStep (s : State) (k level ia : Nat) : WalkStep :=
  let t := s.getStk k
  let root := t.troot.toNat * 2 ^ 13
  let e2 := s.entryAt k (root + 8 * (ia / 2 ^ 42 % 1024)) true
  let k1 := pteFrame e2 * 2 ^ 16 + 8 * (ia / 2 ^ 29 % 8192)
  let e1 := s.entryAt k k1 true
  let k0 := pteFrame e1 * 2 ^ 16 + 8 * (ia / 2 ^ 16 % 8192)
  let e0 := s.entryAt k k0 false
  if level = 2 then
    (if !t.trootV then .fault 0x26
     else if !hbmForm root then .fault 0x28
     else if !bitOf e2 0 then .fault 0x26
     else if bitOf e2 6 ∨ bitOf e2 23 ∨ !hbmForm (pteFrame e2 * 2 ^ 16) then .fault 0x28
     else .down)
  else if level = 1 then
    (if !bitOf e1 0 then .fault 0x26
     else if bitOf e1 6 then (if s.leafFormat 1 ia e1 then .leaf e1 1 k1 else .fault 0x28)
     else if bitOf e1 23 ∨ !hbmForm (pteFrame e1 * 2 ^ 16) then .fault 0x28
     else .down)
  else
    (if !bitOf e0 0 then .fault 0x26
     else if !bitOf e0 6 then .fault 0x28
     else if s.leafFormat 0 ia e0 then .leaf e0 0 k0
     else .fault 0x28)

/-- The entry read at a level enters the table-entry cache (R30). -/
def State.keepEntry (s : State) (k level ia : Nat) : State :=
  let t := s.getStk k
  let k2 := t.troot.toNat * 2 ^ 13 + 8 * (ia / 2 ^ 42 % 1024)
  let e2 := s.entryAt k k2 true
  let key := if level = 2 then k2 else pteFrame e2 * 2 ^ 16 + 8 * (ia / 2 ^ 29 % 8192)
  let e := s.entryAt k key true
  if level = 0 ∨ bitOf e 0 = false ∨ t.tec.any (fun q => decide (q.1 = key)) then s
  else s.setStk k { t with tec := (key, BitVec.ofNat 64 e) :: t.tec.take 4095 }

/-- The response of an element that faults goes back (R30). -/
def State.walkFails (s : State) (k level : Nat) (e : WalkElem) (c : Nat) : State :=
  match e.by_ with
  | none => s.failReq e.req c
  | some u => s.setStk k { s.getStk k with walked := (s.getStk k).walked ++ [(u, e.unit, c, level)] }

/-- One element at one level: whether it goes down to the next (R28, R29, R30). -/
def State.walkElem (s : State) (k level : Nat) (e : WalkElem) : State × Bool :=
  let ia := e.unit * 65536
  if e.by_ = none ∧ s.reqAt e.req = none then (s, false)
  else
    match s.walkStep k level ia with
    | .fault c => (s.walkFails k level e c, false)
    | .down => (s.keepEntry k level ia, true)
    | .leaf pte l key =>
      if ptePlanar pte && pteEnc pte then (s.walkFails k l e (if pteRetired pte then 0x2B else 0x29), false)
      else
        let e' := if bitOf pte 15 then pte else pte + 2 ^ 15
        let s := { s with mem := memWrite s.mem key 8 e' }
        let size := leafSize l pte
        let q : Trans := { ia := ia / pageSize size * pageSize size, size := size, pte := BitVec.ofNat 64 e' }
        let t := s.getStk k
        let s := if (t.cached ia).isSome then s else s.setStk k { t with tc := q :: t.tc.take 65535 }
        (if e.by_.isSome then s else (s.onReq e.req (fun r => { r with stage := .sent })).postOnce (.homeAccess e.req), false)

def State.walkAll (s : State) (k level : Nat) : List WalkElem → State × List WalkElem
  | [] => (s, [])
  | e :: l =>
    let (s, more) := s.walkElem k level e
    let (s, rest) := State.walkAll s k level l
    (s, if more then e :: rest else rest)

/-- A miss that waited for the next batch, as it is now; none where its unit has been translated. -/
def State.stillMissed (s : State) (k : Nat) (e : WalkElem) : Option WalkElem :=
  if e.by_.isSome then (if ((s.getStk k).cached (e.unit * 65536)).isNone then some e else none)
  else (s.reqAt e.req).bind (s.missElem k)

/-- The next batch takes the misses that waited, as many as it has room for (R30). -/
def State.nextBatch (s : State) (k : Nat) : State :=
  let t := s.getStk k
  let es := t.missed.filterMap (s.stillMissed k)
  let b := es.foldl (fun (q : Batch × List WalkElem) e => match q.1.add e with
    | some b => (b, q.2)
    | none => (q.1, q.2 ++ [e])) ({ openB := true, level := 2, elems := [] }, [])
  -- a request whose unit has meanwhile been translated goes on
  let free := t.missed.filter (fun m => m.by_.isNone && !es.any (fun e => e.by_.isNone && decide (e.req = m.req)))
  let s := free.foldl (fun u m => (u.onReq m.req (fun r => { r with stage := .sent })).postOnce (.homeAccess m.req)) s
  if b.1.elems = [] then s.setStk k { s.getStk k with batch := none, missed := [] }
  else (s.setStk k { s.getStk k with batch := some b.1, missed := b.2 }).postOnce (.walkBatchClose k)

/-- WALK_GATHER_DONE (R30): the entries of one level have been read; elements fault, map, or go down a level. -/
def execWalkGatherDone (stack : Nat) (s : State) : Out :=
  match (s.getStk stack).batch with
  | none => .next s
  | some b =>
    if b.openB then .next s
    else
      let (s, rest) := s.walkAll stack b.level b.elems
      if rest = [] then .next (s.nextBatch stack)
      else .next ((s.setStk stack { s.getStk stack with batch := some { b with level := b.level - 1, elems := rest } }).postOnce (.walkGatherDone stack))

/-! ## Requests at the home (R34, R44, R45) -/

/-- A request to a held page is held, at most 256 at a home; one more is refused and sent again (R45, R423). -/
def State.holdReq (s : State) (k id : Nat) : State :=
  if 256 ≤ (s.getStk k).heldBy.length + (s.reqs.filter (fun r => decide (r.stage = .heldMig) && decide (s.home r.ia = some k))).length then
    s.postOnce (.nakReceived (2 ^ 80 + 16 * id + k))
  else s.onReq id (fun r => { r with stage := .heldMig })

/-- A host write is performed in its order of arrival (R176). -/
def State.hostTurn (s : State) (r : Req) : Bool :=
  decide (r.src ≠ .host) || !s.reqs.any (fun q => decide (q.src = .host) && decide (q.op = .write) && decide (q.id < r.id) &&
    decide (q.stage ≠ .done) && decide (q.stage ≠ .failed))

/-- A request is offered to a cluster's atomic engine, at the port of its quad or at the remote port (R71). -/
def State.offer (s : State) (c : Nat) (r : Req) : State :=
  let port := match r.src with
    | .sym place _ => if place < 8192 ∧ clusterOf place = c then place % 256 / 4 else 64
    | _ => 64
  (s.onClu c (fun q => { q with ports := q.ports ++ [{ port := port, req := r.id }] })).postOnce (.atomicEngineAccept c)

/-- The host receives a line, shared or exclusive as it asks (log 39); a full directory first takes its oldest line back (R465). False: it
waits. -/
def State.grantLine (s : State) (p : Piece) : State × Bool :=
  let t := s.getStk p.home
  let l := p.ia / 64
  let excl := bitOf (Config.freeWord s.moves).toNat 0
  if t.hostLines.any (fun q => decide (q.1 = l)) then
    (s.setStk p.home { t with hostLines := modList (fun q => decide (q.1 = l)) (fun q => (l, q.2 || excl)) t.hostLines }, true)
  else if 32768 ≤ t.hostLines.length then (s.snoop p.home (t.hostLines.headD (0, false)).1 true, false)
  else (s.setStk p.home { t with hostLines := t.hostLines ++ [(l, excl)] }, true)

/-- A translated request goes on (R34): a load's answer is on its way; an AMO goes to the engine that performs it (R69); a host
access is performed, and a write to a tracked block goes through its generation state (R122, R464). -/
def State.perform (s : State) (r : Req) (ps : List Piece) : State :=
  let w := s.reqWho r
  let p := ps.headD { ia := r.ia, len := r.n, key := 0, pte := 0, size := 0, home := 0 }
  match r.op with
  | .amo _ _ _ =>
    let go (s : State) : State := s.onReq r.id (fun q => { q with stage := .engine })
    (match w.cluster with
     | some c =>
       if cacheable p r.attr && !pteRepl p.pte then
         if r.scope < 3 then (go s).offer c r
         else match s.retireLine c (r.ia / 128) with
           | (s, true) => (go s).postOnce (.homeAtomicOp r.id)
           | (s, false) => s.postOnce (.homeAccess r.id)
       else (go s).postOnce (.homeAtomicOp r.id)
     | none => (go s).postOnce (.homeAtomicOp r.id))
  | .read =>
    (match r.src with
     | .host => match s.grantLine p with
       | (s, false) => s.postOnce (.homeAccess r.id)
       | (s, true) => match s.gateAll w ps with
         | (s, false) => s.postOnce (.homeAccess r.id)
         | (s, true) =>
           let (s, l) := s.fetchAll w ps
           (match valueOf r.va l with
            | .ok v => s.serveReq r.id (BitVec.ofNat 64 v)
            | _ => s.failReq r.id 0x40)
     | .peer _ => match s.gateAll w ps with
       | (s, false) => s.postOnce (.homeAccess r.id)
       | (s, true) => (s.fetchAll w ps).1.serveReq r.id 0
     | _ => s.serveReq r.id 0)
  | .write =>
    if !s.hostTurn r then s.postOnce (.homeAccess r.id)
    else (s.onReq r.id (fun q => { q with stage := .engine })).postOnce (.trackedWrite r.id)

/-- A request of the translated window at its home: a held page, a miss, or the checks of R34. -/
def State.atHome (s : State) (r : Req) : State :=
  let at_ (f : Nat → Nat → Bool) : Option (Nat × Nat) :=
    (segments 3 r.ia r.n).findSome? (fun g => match s.home g.1 with
      | some k => if !s.fenced k && f k g.1 then some (k, g.1) else none
      | none => none)
  match at_ s.migHeld with
  | some (k, _) => s.holdReq k r.id
  | none => match at_ (fun k ia => ((s.getStk k).cached ia).isNone) with
    | some (k, ia) => s.missAt k r ia
    | none => match s.pieces (s.reqWho r) r.va r.ia r.n r.acc with
      | (s, .fault f) => s.failReq r.id f.code
      | (s, .hold) => s.postOnce (.homeAccess r.id)
      | (s, .ok ps) => s.perform r ps

/-- HOME_ACCESS (R34): a request arrives. One to the device, peer or host windows is not translated. -/
def execHomeAccess (req : Nat) (s : State) : Out :=
  match s.reqAt req with
  | none => .next s
  | some r =>
    if r.stage ≠ .sent then .next s
    else match winOf s.ownPart r.ia with
      | some .trans => .next (s.atHome r)
      | some _ => .next (s.serveReq req 0)
      | none => .next (s.failReq req 0x24)

/-! ## Responses -/

/-- The slot that still waits for a request. -/
def State.slotOf (s : State) (r : Req) : Option (Nat × Nat) :=
  match r.src with
  | .sym place slot => match s.hartAt place with
    | some h => (match h.slot slot with
      | .pending _ id => if id = r.id then some (place, slot) else none
      | _ => none)
    | none => none
  | _ => none

/-- The oldest operation leaves the queue of a hot line (R70). -/
def State.popCam (s : State) (c l : Nat) : State :=
  let n := match (s.getClu c).camOf l with | some q => q.queue.length | none => 0
  let s := s.onClu c (fun k => { k with cam := modList (fun e => decide (e.ln.line = l)) (fun e => { e with queue := e.queue.drop 1 }) k.cam })
  let s := if n ≤ 1 then s else s.postOnce (.atomicEngineOp c l)
  if (s.getClu c).ports = [] then s else s.postOnce (.atomicEngineAccept c)

/-- A request whose symbol waits for it no longer: it is dropped, and a hot line it kept goes on. -/
def State.strayReq (s : State) (r : Req) : State :=
  let s := s.dropReq r.id
  if ((s.getClu r.cluster).camOf (r.ia / 128)).any (fun q => nmem r.id q.queue) then s.postOnce (.atomicEngineOp r.cluster (r.ia / 128)) else s

/-- ACCESS_RESPONSE (R116, R277, R282): the answer reaches its requester: a symbol can resolve; a read of the host is answered. -/
def execAccessResponse (req : Nat) (s : State) : Out :=
  match s.reqAt req with
  | none => .next s
  | some r =>
    if r.stage ≠ .done then .next s
    else match r.src with
      | .sym _ _ => match s.slotOf r with
        | some (place, slot) => .next (s.postOnce (.symbolResolve place slot))
        | none => .next (s.strayReq r)
      | .host =>
        let s := if r.op = .read then { s with reads := s.reads ++ [(r.result, false)] } else s
        .next (s.dropReq req)
      | .peer _ => .next (s.dropReq req)
      | .far _ => .next s

/-- FAULT_RESPONSE (R38, R192, R464): a symbol will resolve to poison; a host read is answered with all ones, and the failure is
logged. -/
def execFaultResponse (req : Nat) (s : State) : Out :=
  match s.reqAt req with
  | none => .next s
  | some r =>
    if r.stage ≠ .failed then .next s
    else match r.src with
      | .sym _ _ => match s.slotOf r with
        | some (place, slot) => .next (s.postOnce (.symbolPoison place slot))
        | none => .next (s.dropReq req)
      | .host =>
        let s := if r.op = .read then { s with reads := s.reads ++ [(BitVec.allOnes 64, true)] } else s
        .next ((s.dropReq req).logEvent ((s.home r.ia).getD 0) 6 0 0 r.ia)
      | .peer _ => .next (s.dropReq req)
      | .far _ => .next s

/-- RUN_AHEAD_STOP (R40 to R43): the hart at a place stops for a reason that holds now. -/
def execRunAheadStop (place reason : Nat) (s : State) : Out :=
  let s := s.focus place
  match s.ahead with
  | some r => if s.hart.place = place ∧ s.aheadDone r = some reason then s.stopAhead reason else .next s
  | none => .next s

/-! ## Retirement (R46, R111) -/

/-- The indices of the nonzero entries of a table. -/
def State.entriesOf (s : State) (base n : Nat) : List Nat :=
  (s.mem.filter (fun c => decide (base ≤ c.1) && decide (c.1 < base + 8 * n))).foldl (fun l c => nins ((c.1 - base) / 8) l) []

/-- The leaves of a stack's tree that map stacked memory over a 64 KiB frame, as (IA of the page, entry, level, key of its first
entry). -/
def State.leavesOver (s : State) (k f : Nat) : List (Nat × Nat × Nat × Nat) :=
  let root := (s.getStk k).troot.toNat * 2 ^ 13
  let covers (e level : Nat) : Bool :=
    let n := pageSize (leafSize level e) / 65536
    bitOf e 0 && bitOf e 6 && decide (pteTier e = 0) && decide (pteFrame e / n = f / n)
  if !(s.getStk k).trootV then []
  else (s.entriesOf root 64).flatMap (fun i2 =>
    let e2 := memRead s.mem (root + 8 * i2) 8
    if !bitOf e2 0 then []
    else (s.entriesOf (pteFrame e2 * 2 ^ 16) 8192).flatMap (fun i1 =>
      let k1 := pteFrame e2 * 2 ^ 16 + 8 * i1
      let e1 := memRead s.mem k1 8
      if covers e1 1 then [(i2 * 2 ^ 42 + i1 * 2 ^ 29, e1, 1, k1)]
      else if !bitOf e1 0 || bitOf e1 6 then []
      else ((s.entriesOf (pteFrame e1 * 2 ^ 16) 8192).filterMap (fun i0 =>
        let n := pageSize (leafSize 0 (memRead s.mem (pteFrame e1 * 2 ^ 16 + 8 * i0) 8)) / 65536
        let e0 := memRead s.mem (pteFrame e1 * 2 ^ 16 + 8 * i0) 8
        if i0 % n = 0 && covers e0 0 then some (i2 * 2 ^ 42 + i1 * 2 ^ 29 + i0 * 2 ^ 16, e0, 0, pteFrame e1 * 2 ^ 16 + 8 * i0) else none))))

/-- Every entry of a page rewritten. -/
def State.rewrite (s : State) (key count : Nat) (f : Nat → Nat) : State :=
  (upto count).foldl (fun t i => { t with mem := memWrite t.mem (key + 8 * i) 8 (f (memRead t.mem (key + 8 * i) 8)) }) s

/-- The contents of a page moved from one frame to another, with their poison. -/
def State.moveBytes (s : State) (old new n : Nat) : State :=
  let here (k : Nat) : Bool := decide (old ≤ k) && decide (k < old + n)
  let keys : List Nat := s.mem.map (·.1)
  let bad : List Nat := s.ecc.map (·.1)
  let s := s.touch ((keys ++ bad ++ s.stale.map (1024 * ·)).filter here)
  let cells := s.mem.filter (fun c => decide (old ≤ c.1) && decide (c.1 < old + n))
  let stale := s.mem.filter (fun c => decide (new ≤ c.1) && decide (c.1 < new + n))
  let bad := s.psn.filter (fun w => decide (old ≤ w) && decide (w < old + n))
  let mem := stale.foldl (fun m c => memSet m c.1 unlistedByte) s.mem
  { s with
    mem := cells.foldl (fun m c => memSet m (c.1 - old + new) c.2) mem
    psn := bad.foldl (fun l w => nins (w - old + new) l) (s.psn.filter (fun w => !(decide (new ≤ w) && decide (w < new + n))))
    ecc := s.ecc.filter (fun c => !(decide (new ≤ c.1) && decide (c.1 < new + n)))
    stale := s.stale.filter (fun r => !(decide (new ≤ r * 1024) && decide (r * 1024 < new + n)))
    encKey := (s.encKey.filter (fun c => decide (old ≤ 64 * c.1) && decide (64 * c.1 < old + n))).foldl
      (fun m c => sset 0 m (c.1 - old / 64 + new / 64) c.2)
      (s.encKey.filter (fun c => !(decide (new ≤ 64 * c.1) && decide (64 * c.1 < new + n)))) }

/-- Nothing of the part uses a 64 KiB frame of stacked memory: it is not listed as retired, no leaf maps it, and no table lies in it
(R46, R111). -/
def State.frameFresh (s : State) (f : Nat) : Bool :=
  (upto 16).all (fun k =>
    let root := (s.getStk k).troot.toNat * 2 ^ 13
    let below (e : Nat) : Bool := bitOf e 0 && !bitOf e 6 && decide (pteFrame e = f)
    !nmem f (s.getStk k).retired && (s.leavesOver k f).isEmpty &&
    (!(s.getStk k).trootV || (decide (root / 65536 ≠ f) && (s.entriesOf root 64).all (fun i2 =>
      let e2 := memRead s.mem (root + 8 * i2) 8
      !below e2 && (!bitOf e2 0 || (s.entriesOf (pteFrame e2 * 2 ^ 16) 8192).all (fun i1 =>
        !below (memRead s.mem (pteFrame e2 * 2 ^ 16 + 8 * i1) 8)))))))

/-- Where the firmware moves a leaf's page that lies over frame `f`: the frames of its choosing (log 14), where all of them are fresh. -/
def State.freshFor (s : State) (f : Nat) (q : Nat × Nat × Nat × Nat) : Option Nat :=
  let n := pageSize (leafSize q.2.2.1 q.2.1) / 65536
  ((Config.freshFrame f).map (fun g => g % 2 ^ 24 / n * n)).filter (fun g => (upFrom g n).all s.frameFresh)

/-- A page is moved to a fresh frame and its old frame listed, or its entry is marked retired where there is none (R46). -/
def State.retirePage (s : State) (k f : Nat) (dest : Option Nat) (q : Nat × Nat × Nat × Nat) : State :=
  let (ia, e, level, key) := q
  let size := leafSize level e
  let n := pageSize size
  let count := if level = 1 then 1 else n / 65536
  let drop (s : State) : State :=
    let t := s.getStk k
    (s.setStk k { t with tc := t.tc.filter (fun q => !(decide (q.ia ≤ ia) && decide (ia < q.ia + pageSize q.size))) }).retag k ia n
  match dest with
  | none => drop (s.rewrite key count (fun e => if pteRetired e then e else e + 2 ^ 12))
  | some g =>
    let old := pteFrame e / (n / 65536) * n
    let new := g * 65536
    let s := if old = new then s else s.moveBytes old new n
    let s := s.rewrite key count (fun e => e - pteFrame e * 2 ^ 24 + (pteFrame e - old / 65536 + new / 65536) * 2 ^ 24)
    let out := if ptePlanar e then upFrom (f / 16 * 16) 16 else [f]
    (drop (s.setStk k { s.getStk k with retired := out.foldl (fun l g => nins g l) (s.getStk k).retired })).moveFrames ia n

/-- RETIREMENT_THRESHOLD (R46, R96, R111): the firmware moves each page that the frame holds, once nothing in the bank plane uses it and the banks
have given it their slots; the count begins again. `frame` is its number in stacked memory. -/
def execRetirementThreshold (stack frame : Nat) (s : State) : Out :=
  let t := s.getStk stack
  if sget 0 t.corrFrames frame < max 1 t.retthr.toNat then .next s
  else
    let pages := (upto 16).flatMap (fun k => (s.leavesOver k frame).map (fun q => (k, q)))
    let moves := pages.filterMap (fun q => (s.freshFor frame q.2).map (fun g => (q.2, g)))
    let slots (s : State) : State × Bool := s.eachSlot (fun t i => match moves[i]? with
      | some ((_, e, level, _), g) =>
        let n := pageSize (leafSize level e)
        let w : SlotWait := { unit := 2 ^ 41 + stack, cmd := frame, key := 0, len := 0, ctx := 2 ^ 40 }
        t.turnRange w (bankParts 16 (pteFrame e * 2 ^ 16 / n * n) n ++ bankParts 16 (g * 2 ^ 16) n)
      | none => (t, true)) (upto moves.length)
    if pages.any (fun q => s.rangeBusy q.1 q.2.1 (pageSize (leafSize q.2.2.2.1 q.2.2.1)) ||
        s.inFlight q.2.1 (pageSize (leafSize q.2.2.2.1 q.2.2.1))) then
      .next (s.postOnce (.retirementThreshold stack frame))
    else match slots s with
    | (s, false) => .next (s.postOnce (.retirementThreshold stack frame))
    | (s, true) =>
      let s : State := { s with waits := s.waits.filter (fun q => decide (q.unit ≠ 2 ^ 41 + stack)) }
      let t := s.getStk stack
      let u := s.setStk stack { t with corrFrames := sset 0 t.corrFrames frame 0 }
      .next (pages.foldl (fun u q => u.retirePage q.1 frame (s.freshFor frame q.2) q.2) u)

end Sys2Proof.Machine
end

