-- ==== Sys2Proof/Machine/EvCache.lean ====
section
/-! DEFINITION. Events of the on-chip memories: cluster caches (R49, R51, R125), bank transitions (R55 to R61), window accesses (R62,
R75, R77), atomic engines and units (R69 to R73), and replicated pages (R79, R126). -/
namespace Sys2Proof.Machine

/-! ## Cluster caches -/

/-- LINE_FILL (R49): the whole line arrives and fills the bytes of a present line that are not dirty. -/
def execLineFill (cluster line : Nat) (s : State) : Out :=
  match (s.getClu cluster).copyOf line with
  | none => .next s
  | some ln =>
    let w := cacheWho cluster ln.vf
    match s.pieceAt w 0 (128 * line) (128 * line) 128 .read with
    | (s, .ok p) => .next (s.fillLine w cluster p false).1
    | (s, _) => .next s

/-- WRITEBACK_ARRIVAL (R49): the dirty bytes of a line reach the home, or are discarded on a fault; a held page makes them
wait. -/
def execWritebackArrival (cluster line : Nat) (s : State) : Out :=
  match s.cleanLine cluster line with
  | (s, true) => .next s
  | (s, false) => .next (s.postOnce (.writebackArrival cluster line))

/-- The lines of a cluster with dirty bytes of an older generation than its own (R125). -/
def State.oldLines (s : State) (c : Nat) : List Nat :=
  let k := s.getClu c
  let old (l : Line) : Bool := decide (l.dirty ≠ 0) && decide (l.gen ≠ s.gens.dev)
  (k.lines.filter old).map (·.line) ++ (k.cam.filter (fun q => old q.ln)).map (·.ln.line)

/-- WRITEBACK_ACK (R125): once every byte tagged with an older generation has been written back, the cluster's cache
acknowledges the flip. -/
def execWritebackAck (cluster : Nat) (s : State) : Out :=
  let u := unitCache cluster
  if nmem u s.gens.lag ∨ nmem u s.gens.unsettled = false then .next s
  else match s.cleanAll cluster (s.oldLines cluster) with
    | (s, true) => .next (s.postOnce (.settleAck u))
    | (s, false) => .next (s.postOnce (.writebackAck cluster))

/-! ## Bank transitions -/

/-- SBCFG_WRITE (R55): the transition of the written mode, with no requester. -/
def execSbcfgWrite (cluster bank : Nat) (val : BitVec 64) (s : State) : Out :=
  .next (s.bankRequest (cluster % 32) (bank % 32) (val.extractLsb' 0 2) none).1

/-- The contents of a bank are gone: its bytes are undefined until they are written (R58, R59). -/
def State.discardBank (s : State) (c b : Nat) : State :=
  let lo := bankKey c b
  let inside (k : Nat) : Bool := decide (lo ≤ k) && decide (k < lo + 2 ^ 19)
  let k := s.getBank c b
  { s with
    mem := s.mem.filter (fun e => !inside e.1)
    sramDef := s.sramDef.filter (fun a => !inside a)
    psn := s.psn.filter (fun a => !inside a) }.setBank c b { k with epoch := k.epoch + 1 }

/-- The header of an empty FIFO (R65). -/
def State.emptyFifo (s : State) (c b : Nat) : State :=
  (((s.bankPut c b 0 8 0).bankPut c b 8 2 8).bankPut c b 10 4 65504).bankPut c b 14 242 0

/-- The lines of a bank that is leaving cache mode are written back and dropped, as far as they can be (R58). -/
def State.dropBank (s : State) (c : Nat) : List Nat → State × Bool
  | [] => (s, true)
  | l :: ls => match s.dropLine c l with
    | (s, true) => State.dropBank s c ls
    | (s, false) => (s, false)

/-- A window access that reached a bank before its transition is still to be performed (R59). -/
def State.bankInFlight (s : State) (c b : Nat) : Bool :=
  s.reqs.any (fun r => (decide (r.stage = .engine) || decide (r.stage = .unit) || decide (r.stage = .done)) && (match winOf s.ownPart r.ia with
    | some (.sram d off) => decide (d = c) && decide (off / 2 ^ 19 ≤ b) && decide (b ≤ (off + (r.n - 1)) / 2 ^ 19)
    | _ => false))

/-- A hart that waits for a bank's transition receives its status and goes on (R357). -/
def Hart.endSrcfg (c b : Nat) (h : Hart) : Hart :=
  match h.wait with
  | some (.srcfg rd c' b') =>
    if c' = c ∧ b' = b then { (h.wx rd (.known 0)) with wait := none, pc := h.pc + 4, instret := h.instret + 1 } else h
  | _ => h

/-- The bank takes the mode its transition leads to (R57 to R60, R65). -/
def State.enterMode (s : State) (c b : Nat) : State :=
  let k := s.getBank c b
  let s := if k.mode = 2 ∧ k.target = 1 then s else s.discardBank c b
  let k := s.getBank c b
  let s := s.setBank c b { k with mode := k.target, busy := false, last := 0, target := 0,
                                  owned := k.owned && decide (k.target ≠ 0), octx := if k.target = 0 then 0 else k.octx }
  let s := if k.target = 2 then s.emptyFifo c b else s
  { s with hart := s.hart.endSrcfg c b, harts := s.harts.map (Hart.endSrcfg c b) }

/-- BANK_TRANSITION_DONE (R58, R59). -/
def execBankTransitionDone (cluster bank : Nat) (s : State) : Out :=
  let k := s.getBank cluster bank
  if !k.busy then .next s
  else
    let mine := if k.mode = 0 then ((s.getClu cluster).lines.filter (fun l => decide (l.bank = bank))).map (·.line) else []
    match s.dropBank cluster mine with
    | (s, false) => .next (s.postOnce (.bankTransitionDone cluster bank))
    | (s, true) =>
      if s.bankInFlight cluster bank then .next (s.postOnce (.bankTransitionDone cluster bank))
      else .next (s.enterMode cluster bank)

/-! ## Window accesses -/

/-- An AMO request arrives at an atomic unit, behind those already there (R73). -/
def State.arriveReq (s : State) (r : Req) : State :=
  { s with reqs := s.reqs.filter (fun q => decide (q.id ≠ r.id)) ++ [{ r with stage := .unit }] }

/-- Another AMO request on the line of one reached the unit before it. -/
def State.behindAmo (s : State) (r : Req) : Bool :=
  { s with reqs := s.reqs.takeWhile (fun q => decide (q.id ≠ r.id)) }.amoAhead r.ia

/-- A request at an atomic unit has its turn, or waits for the earlier ones on its line (R73). One that has its turn is performed as its
symbol is bound (R172). -/
def State.unitTurn (s : State) (r : Req) (again : Instr) : State :=
  let s := if r.stage = .unit then s else s.arriveReq r
  if s.behindAmo r then s.postOnce again else s.serveReq r.id 0

/-- SRAM_WINDOW_ACCESS (R62, R63, R66): the banks allow the access or it faults with 0x30; an AMO goes to the cluster's engine. -/
def execSramWindowAccess (req : Nat) (s : State) : Out :=
  match s.reqAt req with
  | none => .next s
  | some r =>
    if r.stage ≠ .sent then .next s
    else match winOf s.ownPart r.ia with
      | some (.sram c off) =>
        if s.fenced (c / 2) then .next (s.failReq req 0x34)
        else (match r.op with
          | .amo _ _ _ =>
            if s.sramAllows c off r.n .amo then .next ((s.onReq req (fun q => { q with stage := .engine })).offer c r)
            else .next (s.failReq req 0x30)
          | .read => .next (if s.sramAllows c off r.n .load then s.serveReq req 0 else s.failReq req 0x30)
          | .write => .next s)
      | _ => .next s

/-- LANTERN_WINDOW_ACCESS (R73, R75, R77): a load's answer is on its way; an AMO takes its turn at the Lantern interface. -/
def execLanternWindowAccess (req : Nat) (s : State) : Out :=
  match s.reqAt req with
  | none => .next s
  | some r =>
    if r.stage ≠ .sent ∧ r.stage ≠ .unit then .next s
    else match winOf s.ownPart r.ia with
      | some (.lantern k off) =>
        if s.fenced k then .next (s.failReq req 0x34)
        else (match r.op with
          | .amo _ _ _ =>
            if s.slotWaited k off r.n then .next ((if r.stage = .unit then s else s.arriveReq r).postOnce (.lanternWindowAccess req))
            else .next (s.unitTurn r (.lanternWindowAccess req))
          | .read => .next (s.serveReq req 0)
          | .write => .next s)
      | _ => .next s

/-! ## Atomic engines and units -/


/-- The port that wins the next scan (R71), with its request. -/
def State.winner (s : State) (c : Nat) : Option (Nat × Req) :=
  let k := s.getClu c
  let live := k.ports.filter (fun q => (s.reqAt q.req).isSome)
  (upFrom (k.lastWin + 1) 65).findSome? (fun i =>
    let port := i % 65
    match live.find? (fun q => decide (q.port = port)) with
    | none => none
    | some q => (s.reqAt q.req).bind (fun r => if s.eligible c r then some (port, r) else none))

/-- A request joins its line's queue; a line that is not hot takes an entry and is fetched (R70). -/
def State.enqueue (s : State) (c : Nat) (r : Req) : State × Got Unit :=
  let add (s : State) : State :=
    (s.onClu c (fun k => { k with cam := modList (fun q => decide (q.ln.line = r.line)) (fun q => { q with queue := q.queue ++ [r.id] }) k.cam })).postOnce
      (.atomicEngineOp c r.line)
  match (s.getClu c).camOf r.line with
  | some _ => (add s, .ok ())
  | none => match s.reqPieces r .both with
    | (s, .fault f) => (s, .fault f)
    | (s, .hold) => (s, .hold)
    | (s, .ok ps) => match ps with
      | [] => (s, .hold)
      | p :: _ => match s.camLine (s.reqWho r) c p with
        | (s, .line _) => (add s, .ok ())
        | (s, _) => (s, .hold)

/-- ATOMIC_ENGINE_ACCEPT (R70, R71): one request is accepted by the round-robin scan. One to a scratchpad bank is performed there
(R69), as its symbol is bound (R172). -/
def execAtomicEngineAccept (cluster : Nat) (s : State) : Out :=
  let again (s : State) : State := if (s.getClu cluster).ports = [] then s else s.postOnce (.atomicEngineAccept cluster)
  match s.winner cluster with
  | none => .next (again (s.onClu cluster (fun k => { k with ports := k.ports.filter (fun q => (s.reqAt q.req).isSome) })))
  | some (port, r) =>
    let won (s : State) : State :=
      s.onClu cluster (fun k => { k with lastWin := port, ports := k.ports.filter (fun q => decide (q.req ≠ r.id)) })
    match winOf s.ownPart r.ia with
    | some (.sram _ _) => .next (again (if s.amoAhead r.ia then s else (won s).serveReq r.id 0))
    | _ => match s.enqueue cluster r with
      | (s, .ok _) => .next (again (won s))
      | (s, .fault f) => .next (again ((won s).failReq r.id f.code))
      | (s, .hold) => .next (again s)

/-- ATOMIC_ENGINE_OP (R70, R72, R74): the oldest operation queued on a hot line has its turn, and keeps the line until its symbol is
bound, as which it is performed (R172). -/
def execAtomicEngineOp (cluster line : Nat) (s : State) : Out :=
  match (s.getClu cluster).camOf line with
  | none => .next s
  | some q =>
    match q.queue with
    | [] => .next s
    | id :: _ => match s.reqAt id with
      | none => .next (s.popCam cluster line)
      | some r =>
        if r.stage ≠ .engine then .next s
        else match s.reqPieces r .both with
        | (s, .fault f) => .next ((s.popCam cluster line).failReq id f.code)
        | (s, .hold) => .next (s.postOnce (.atomicEngineOp cluster line))
        | (s, .ok _) => .next (s.serveReq id 0)

/-- HOME_ATOMIC_OP (R69, R73, R81, R118): an AMO takes its turn at the atomic unit of the home or of the sequencer. -/
def execHomeAtomicOp (req : Nat) (s : State) : Out :=
  match s.reqAt req with
  | none => .next s
  | some r =>
    if r.stage ≠ .engine ∧ r.stage ≠ .unit then .next s
    else match s.reqPieces r .both with
      | (s, .fault f) => .next (s.failReq req f.code)
      | (s, .hold) => .next (s.holdReq ((s.home r.ia).getD 0) req)
      | (s, .ok _) => .next (s.unitTurn r (.homeAtomicOp req))

/-! ## Replicated pages -/

def State.onUpdate (s : State) (id : Nat) (f : Update → Update) : State :=
  { s with updates := modList (fun u => decide (u.id = id)) f s.updates }

/-- The replicas of an update that are still there (R78). -/
def State.replicas (s : State) (ia : Nat) : List Nat :=
  (upto 16).filter (fun k => bitOf (regionMask (s.region ia)) k && !s.fenced k)

/-- REPLICA_UPDATE_ORDER (R79, R126): the sequencer gives an update the next position, resolves it against its own newer-byte
mask, and sends every other replica the bytes it applied; one maker's updates of a unit keep their order (R148). An update whose sequencer
is fenced is lost, and logged. -/
def execReplicaUpdateOrder (req : Nat) (s : State) : Out :=
  match s.updates.find? (fun u => decide (u.id = req)) with
  | none => .next s
  | some u =>
    if u.ordered then .next s
    else if (s.updates.takeWhile (fun v => decide (v.id ≠ req))).any (fun v => !v.ordered && decide (v.place = u.place) &&
        decide (v.owner = u.owner) && decide (v.ia / 65536 = u.ia / 65536)) then .next (s.postOnce (.replicaUpdateOrder req))
    else
      let k := bitsOf (s.region u.ia) 6 3
      if s.fenced k then
        .next ({ s with updates := s.updates.filter (fun v => decide (v.id ≠ req)) }.logEvent ((s.replicas u.ia).headD 0) 6 0 0 u.ia)
      else
        let masked := s.maskedOffs (u.ia / 65536) u.tag
        let live := ((upto u.n).filter (fun i => !nmem (u.ia % 65536 + i) masked)).foldl (fun m i => m ||| (1#32 <<< i)) 0
        match s.applyReplica k u with
        | (s, false) => .next (s.postOnce (.replicaUpdateOrder req))
        | (s, true) =>
          let others := nrem k (s.replicas u.ia)
          let v : Update := { u with ordered := true, live := live, pending := others }
          let s : State := { s with updates := s.updates.filter (fun v => decide (v.id ≠ req)) ++ [v] }
          .next (if others = [] then s.postOnce (.replicaStoreAck req) else others.foldl (fun t j => t.postOnce (.replicaUpdateApply j)) s)

/-- REPLICA_UPDATE_APPLY (R79): a replica applies the oldest ordered update that it still lacks. -/
def execReplicaUpdateApply (stack : Nat) (s : State) : Out :=
  match s.updates.find? (fun u => u.ordered && nmem stack u.pending) with
  | none => .next s
  | some u =>
    let r : State × Bool := if s.fenced stack then (s, true) else s.applyReplica stack u
    if r.2 = false then .next (r.1.postOnce (.replicaUpdateApply stack))
    else
      let left := nrem stack u.pending
      let s := r.1.onUpdate u.id (fun v => { v with pending := left })
      let s := if left = [] then s.postOnce (.replicaStoreAck u.id) else s
      .next (if s.updates.any (fun v => v.ordered && nmem stack v.pending) then s.postOnce (.replicaUpdateApply stack) else s)

/-- REPLICA_STORE_ACK (R79, R142): every replica has applied the update, and its maker learns it. -/
def execReplicaStoreAck (upd : Nat) (s : State) : Out :=
  .next { s with updates := s.updates.filter (fun u => !(decide (u.id = upd) && u.ordered && decide (u.pending = []))) }

end Sys2Proof.Machine
end

