-- ==== Sys2Proof/Machine/EvGen.lean ====
section
/-! DEFINITION. Events of the generations: snapshots and flips (R114 to R121), tracked writes and preservation (R122 to R131), drain
(R132 to R135) and rollback (R137). -/
namespace Sys2Proof.Machine

/-- GSCTL_WRITE (R114, R136). -/
def execGsctlWrite (stack : Nat) (val : BitVec 64) (s : State) : Out := .next (s.gsctl (stack % 16) val)

/-! ## Snapshots (R119, R120) -/

/-- Some stack or DRAM die is fenced (R454). -/
def State.anyFence (s : State) : Bool := decide (s.plat.fstk ≠ 0) || s.stk.any (fun e => decide (e.2.rasFdie ≠ 0))

/-- The slot that a snapshot takes: a FREE one, else the DRAINED one with the older `g`; none where both are in use (R119). -/
def Gens.freeSlot (g : Gens) : Option Nat :=
  if g.slot0.state = 0 then some 0
  else if g.slot1.state = 0 then some 1
  else if g.slot0.state = 3 ∧ g.slot1.state = 3 then some (if genLe g.slot0.g g.slot1.g then 0 else 1)
  else if g.slot0.state = 3 then some 0
  else if g.slot1.state = 3 then some 1
  else none

/-- The answer of a SNAP is on its way. -/
def State.answerSnap (s : State) (place : Nat) (w : W64) : State :=
  { s with gens := { s.gens with answers := s.gens.answers ++ [(place, w)] } }.postOnce (.snapAnswer place)

/-- A slot is taken and the flip is sent to every unit; the units of a fenced stack count as acknowledged (R119). -/
def State.flip (s : State) (i : Nat) : State :=
  let g := s.gens
  let slot : GSlot := { g := g.dev, state := 1, tflip := s.tick, fence := s.anyFence, inc := s.anyFence }
  let live := s.units.filter (fun u => !s.fenced (unitStack u))
  let blocks := g.blocks.filter (fun e => decide (e.1 % 2 ≠ i))
  let s : State := { s with gens := { (g.setSlot i slot) with dev := g.dev + 1, lag := live, unsettled := live, settling := some i, blocks := blocks } }
  live.foldl (fun t u => t.postOnce (.flipArrival u)) s

/-- SNAP_REQUEST (R119): the sequencer takes the oldest request. -/
def execSnapRequest (s : State) : Out :=
  match s.gens.snapq with
  | [] => .next s
  | place :: rest =>
    let next_ (s : State) : State :=
      let s := { s with gens := { s.gens with snapq := rest } }
      if rest = [] then s else s.postOnce .snapRequest
    if s.fenced s.sequencer ∨ (s.getStk s.sequencer).gsctlEn = false then .next ((next_ s).answerSnap place (snapWord s.gens.dev 2))
    else if s.gens.settling.isSome then .next (s.postOnce .snapRequest)
    else match s.gens.freeSlot with
      | none => .next ((next_ s).answerSnap place (snapWord s.gens.dev 1))
      | some i => .next (((next_ s).flip i).answerSnap place (snapWord s.gens.dev 0))

/-- FLIP_ARRIVAL (R116): a unit adopts the device generation. -/
def execFlipArrival (unit : Nat) (s : State) : Out := .next (s.adopt unit)

/-- SNAP_ANSWER (R116, R120, R299): the hart adopts the answer's generation, then writes `x[rd]`. -/
def execSnapAnswer (place : Nat) (s : State) : Out :=
  match s.gens.answers.find? (fun q => decide (q.1 = place)) with
  | none => .next s
  | some (_, w) =>
    let s : State := { s with gens := { s.gens with answers := s.gens.answers.filter (fun q => decide (q.1 ≠ place)) } }
    match (s.hartAt place).bind (·.wait) with
    | some (.snap rd) =>
      let s := s.adopt place
      .next (s.onHart place (fun h => { (h.wx rd (.known w)) with wait := none, pc := h.pc + 4, instret := h.instret + 1 }))
    | _ => .next s

/-- The unit that sent a bank command: its hart, or the lamplighter that issued its node. -/
def BankCmd.sender (c : BankCmd) : Nat := match c.place with | some p => p | none => 8192 + 4 * c.stack

/-- The request is one that unit `u` sent. -/
def ReqSrc.sentBy (u : Nat) : ReqSrc → Bool
  | .sym p _ => decide (p = u)
  | .host => decide (u = unitHost 0)
  | .peer q => decide (u = unitGlow q)
  | .far _ => false

/-- A write that a unit sent with an older tag is still to be performed (R119): an update, a completion signal, an AMO or host write, an
invocation. -/
def State.sentOlder (s : State) (u : Nat) : Bool :=
  let older (t : BitVec 32) : Bool := decide (t ≠ s.gens.dev)
  s.updates.any (fun p => decide (p.unit = u) && older p.tag) || s.signals.any (fun g => decide (g.unit = u) && older g.tag) ||
    s.reqs.any (fun r => r.src.sentBy u &&
      decide (r.op ≠ .read) && older r.tag && (r.isAmo || decide (r.stage ≠ .done)) && decide (r.stage ≠ .failed)) ||
    s.invs.any (fun v => older v.tag && decide (v.st ≠ .ended) && s.bcmds.any (fun c => decide (c.id = v.cmd) && decide (c.sender = u)))

/-! ## The blocks of a slot (R112, R126, R132) -/

/-- The leaves of a stack's tree, as (IA of the page, entry, level); a fenced stack's are out of reach (R454). -/
def State.leaves (s : State) (k : Nat) : List (Nat × Nat × Nat) :=
  let root := (s.getStk k).troot.toNat * 2 ^ 13
  if !(s.getStk k).trootV || s.fenced k then []
  else (s.entriesOf root 64).flatMap (fun i2 =>
    let e2 := memRead s.mem (root + 8 * i2) 8
    if !bitOf e2 0 then []
    else (s.entriesOf (pteFrame e2 * 2 ^ 16) 8192).flatMap (fun i1 =>
      let e1 := memRead s.mem (pteFrame e2 * 2 ^ 16 + 8 * i1) 8
      if !bitOf e1 0 then []
      else if bitOf e1 6 then [(i2 * 2 ^ 42 + i1 * 2 ^ 29, e1, 1)]
      else ((s.entriesOf (pteFrame e1 * 2 ^ 16) 8192).filterMap (fun i0 =>
        let e0 := memRead s.mem (pteFrame e1 * 2 ^ 16 + 8 * i0) 8
        if bitOf e0 0 && bitOf e0 6 then some (i2 * 2 ^ 42 + i1 * 2 ^ 29 + i0 * 2 ^ 16, e0, 0) else none))))

/-- The tracked blocks of the part, each once: those whose page is homed on the tree's stack, or sequenced there (R112, R126). -/
def State.trackedBlocks (s : State) : List Nat :=
  (upto 16).foldl (fun l k => (s.leaves k).foldl (fun l q =>
    let own := if pteRepl q.2.1 then decide (bitsOf (s.region q.1) 6 3 = k) else decide (s.home q.1 = some k)
    if pteTracked q.2.1 && own then (upFrom (q.1 / 65536) (if q.2.2 = 1 then 8192 else 1)).foldl (fun l b => nins b l) l else l) l) []

/-- The blocks that a slot still has to record (R134, R135): a page that has been unmapped keeps what was preserved or lost. -/
def State.undrained (s : State) (i : Nat) : List Nat :=
  let g := s.gens.slot i
  if g.dfull then []
  else
    let kept := (s.gens.blocks.filter (fun e => decide (e.1 % 2 = i) && (decide (e.2.st = .PR) || decide (e.2.st = .LO)))).map (fun e => e.1 / 2)
    (kept.foldl (fun l b => nins b l) s.trackedBlocks).filter (fun b => !nmem b g.recs)

/-- The drain area of a slot: the key of its first byte and its size (R132, R136). -/
def State.drainArea (s : State) (i : Nat) : Nat × Nat :=
  let r := tierRegion (if i = 0 then (s.getStk s.sequencer).gsda0 else (s.getStk s.sequencer).gsda1)
  (keySecond + r.1 * 2 ^ 30, r.2 * 2 ^ 30)

/-- The drain area is full (R135): every block not yet drained is lost without a record. -/
def State.drainFull (s : State) (i : Nat) : State :=
  let left := (s.undrained i).filter (fun b => decide ((s.getBlock i b).st ≠ .LO))
  let frames := left.filterMap (fun b => (s.getBlock i b).frame)
  let s := left.foldl (fun t b => t.setBlock i b { st := .LO, frame := none }) s
  let g := s.gens.slot i
  let s := s.setGSlot i { g with dfull := true, inc := true, lost := g.lost + left.length, visit := none }
  (frames.foldl (fun t f => t.leaveFrame f i) s).postOnce (.drainComplete i)

/-- The next block of a DRAINING slot, in an order of the part's choosing, joins class 3 of its stack's copy engines (R132), or the drain
ends; a slot with no drain area drains nothing (R136). -/
def State.drainOn (s : State) (i : Nat) : State :=
  let g := s.gens.slot i
  if (s.drainArea i).2 = 0 ∧ g.dfull = false then s.drainFull i
  else match s.undrained i with
  | [] => (s.setGSlot i { g with visit := none }).postOnce (.drainComplete i)
  | l =>
    let b := l.getD ((Config.freeWord s.moves).toNat % l.length) 0
    let k := s.drainStack b
    ((s.setGSlot i { g with visit := some b }).setStk k { s.getStk k with drained := 0 }).postOnce (.copyClassRound k)

/-- The last acknowledgement is in: the slot is DRAINING and its masks are discarded (R119, R124). -/
def State.settleFlip (s : State) (i : Nat) : State :=
  let g := s.gens.slot i
  let (n, s) := s.fresh
  let s := s.setGSlot i { g with state := 2, arr := n }
  let s : State := { s with gens := { s.gens with settling := none, frames := s.gens.frames.map (fun f => if nmem i f.slots then { f with mask := [] } else f) } }
  (if s.gens.snapq = [] then s else s.postOnce .snapRequest).drainOn i

/-- SETTLE_ACK (R119): the acknowledgement of a unit that has adopted and whose older writes have been performed. -/
def execSettleAck (unit : Nat) (s : State) : Out :=
  if nmem unit s.gens.unsettled = false ∨ nmem unit s.gens.lag then .next s
  else if s.sentOlder unit then .next (s.postOnce (.settleAck unit))
  else
    let left := nrem unit s.gens.unsettled
    let s : State := { s with gens := { s.gens with unsettled := left } }
    match s.gens.settling with
    | some i => .next (if left = [] then s.settleFlip i else s)
    | none => .next s

/-! ## Tracked writes and preservation -/

/-- TRACKED_WRITE (R117, R122 to R124, R506): a host write is performed at its home, with the preservation it may need; until a
frame is free it waits. -/
def execTrackedWrite (req : Nat) (s : State) : Out :=
  match s.reqAt req with
  | none => .next s
  | some r =>
    if r.stage ≠ .engine ∨ r.op ≠ .write then .next s
    else match s.reqPieces r .write with
      | (s, .fault f) => .next (s.failReq req f.code)
      | (s, .hold) => .next (s.holdReq ((s.home r.ia).getD 0) req)
      | (s, .ok ps) =>
        let w := s.reqWho r
        (match s.readyAll w r.tag ps with
         | (s, false) => .next (s.postOnce (.trackedWrite req))
         | (s, true) => .next ((s.putAll w r.tag [] ps (bytesLE r.n r.data.toNat)).serveReq req 0))

/-- PRESERVE_ROW_COPIED (R123): the next row of a preservation, in ascending order. -/
def execPreserveRowCopied (frame : Nat) (s : State) : Out :=
  match s.getFrame frame with
  | none => .next s
  | some f => match (upto 64).find? (fun r => !f.rows.getLsbD r) with
    | none => .next s
    | some r => .next ((s.copyRow frame r).1.postOnce (.preserveRowCopied frame))

/-- RESERVE_FRAME_FREED (R130): a frame that no slot needs is free, and a write that waits for one may go on. -/
def execReserveFrameFreed (frame : Nat) (s : State) : Out :=
  match s.getFrame frame with
  | none => .next s
  | some f =>
    if f.slots ≠ [] then .next s
    else .next { s with gens := { s.gens with frames := s.gens.frames.filter (fun q => decide (q.id ≠ frame)) } }

/-- A write to a block still waits for a frame for a slot (R131): the block is shared, or preserved in a frame that must be split (R506), and no
frame is free. -/
def State.stalled (s : State) (i b : Nat) : Bool :=
  (decide ((s.getBlock i b).st = .SH) || decide ((s.getBlock i b).st = .PR)) && (match s.peekKey (b * 2 ^ 16) with
    | some key => (s.reserveFor key).isNone
    | none => false)

/-- RESERVE_TIMEOUT (R131): the wait of a slot's first stalled write has outlasted `rtmo`. -/
def execReserveTimeout (slot : Nat) (s : State) : Out :=
  let g := s.gens.slot slot
  let left := g.stalls.filter (fun q => s.stalled slot q.1)
  let s := s.setGSlot slot { g with stalls := left }
  match left with
  | [] => .next s
  | (_, t) :: _ =>
    if g.timedOut then .next s
    else if (s.tick - t).toNat < (s.getStk s.sequencer).gsctlRtmo.toNat then .next (s.postOnce (.reserveTimeout slot))
    else .next (s.setGSlot slot { g with stalls := left, inc := true, timedOut := true })

/-! ## Drain -/

/-- Bytes written to second-tier memory as they stand, with the keys that their lines are encrypted under; their words are
whole again. -/
def State.putRaw (s : State) (key : Nat) (bytes : List Byte) (enc : Nat → Nat) : State :=
  let n := bytes.length
  { s with
    mem := (bytes.zip (upFrom key n)).foldl (fun m e => memSet m e.2 e.1) s.mem
    psn := s.psn.filter (fun w => !(decide (key ≤ w) && decide (w < key + n)))
    encKey := (upto (n / 64)).foldl (fun m i => sset 0 m (key / 64 + i) (enc i)) s.encKey }

/-- Offset of record `k` in a drain image (R133). -/
def recordAt (k : Nat) : Nat := 64 + 65600 * k

/-- The descriptor of a record (R133). -/
def drainDesc (b rflags tier kslot : Nat) : List Byte :=
  bytesLE 8 (b * 65536) ++ bytesLE 1 rflags ++ bytesLE 1 tier ++ bytesLE 1 kslot ++ bytesLE 53 0

/-- The payload of a block (R133, R134): its bytes, poisoned words as all ones, whether there are any, and the keys of its
lines. -/
structure Payload where
  bytes : List Byte
  poison : Bool
  enc : Nat → Nat

/-- Bytes with those of poisoned words replaced by ones. -/
def onesAt (bad : Nat → Bool) (l : List Byte) : List Byte := (l.zip (upto l.length)).map (fun e => if bad e.2 then 0xff#8 else e.1)

/-- The block in live memory: stale rows are recomputed before they are read (R103). -/
def State.livePayload (s : State) (key : Nat) : State × Payload :=
  let ks := upFrom key 65536
  let s := s.touch ks
  let bad (o : Nat) : Bool := nmem (wordBase (key + o)) s.psn
  (s, { bytes := onesAt bad (ks.map s.byteAt), poison := s.poisonedAt ks, enc := fun i => sget 0 s.encKey (key / 64 + i) })

/-- The block in its reserve frame, whole, read through its code; a stale row gets its check bits first (R103, R127). -/
def framePayload (f : Frame) (key : Nat) : Payload :=
  let f := if f.stale = 0 ∧ f.ecc = [] then f else f.touch key (upto 65536)
  { bytes := onesAt (fun o => nmem o f.psn) ((upto 65536).map (memGet f.bytes)), poison := decide (f.psn ≠ []), enc := fun i => sget 0 f.enc i }

/-- The reading of a shared block for its drain: normal accesses that no lock holds (R96, R98). -/
def drainWait (i key : Nat) : SlotWait := { unit := 2 ^ 42 + i, cmd := 0, key := key, len := 65536, ctx := 2 ^ 40, free := true }

/-- DRAIN_VISIT (R122, R130, R133 to R135): one block of a DRAINING slot is recorded, once its bank gives the slots (R97). -/
def execDrainVisit (slot block : Nat) (s : State) : Out :=
  let g := s.gens.slot slot
  let again (s : State) : Out := .next (s.postOnce (.drainVisit slot block))
  if g.state ≠ 2 ∨ nmem block (s.undrained slot) = false then .next s
  else
    let (area, size) := s.drainArea slot
    let at_ := recordAt g.recs.length
    if size < at_ + 65600 then .next (s.drainFull slot)
    else
      let leaf := s.peekLeaf (block * 65536)
      let e := match leaf with | some q => q.2.1 | none => 0
      let key := (leaf.map (fun q => keyUnder q.2.1 q.2.2 (block * 65536))).getD 0
      let ciph := if pteEnc e then 8 else 0
      let kslot := if pteEnc e then pteKslot e else 0
      let put (s : State) (rflags : Nat) (p : Option Payload) (st : BlockState) : State :=
        let s := match p with
          | some q => s.putRaw (area + at_ + 64) q.bytes q.enc
          | none => s
        let s := s.putRaw (area + at_) (drainDesc block rflags (pteTier e) kslot) (fun _ => 0)
        (s.setBlock slot block { st := st, frame := none }).setGSlot slot { s.gens.slot slot with recs := g.recs ++ [block] }
      match (s.getBlock slot block).st, (s.getBlock slot block).frame with
      | .PR, some f =>
        (match s.copyRows f (upto 64) with
         | (s, false) => again s
         | (s, true) => match s.getFrame f with
           | some fr =>
             let p := framePayload fr key
             .next (((put s (2 + (if p.poison then 4 else 0) + ciph) (some p) .DR).leaveFrame f slot).drainOn slot)
           | none => .next ((put s 1 none .LO).drainOn slot))
      | .SH, _ => match s.turnTaken (drainWait slot key) with
        | (s, false) => again s
        | (s, true) =>
          let (s, p) := s.livePayload key
          .next ((put s ((if p.poison then 4 else 0) + ciph) (some p) .DR).drainOn slot)
      | _, _ => .next ((put s (1 + ciph) none .LO).drainOn slot)

/-- The header of a drain image (R133). -/
def State.drainHeader (s : State) (i : Nat) : List Byte :=
  let g := s.gens.slot i
  let lost := (g.recs.filter (fun b => decide ((s.getBlock i b).st = .LO))).length
  bytesLE 4 g.g.toNat ++ bytesLE 4 g.recs.length ++ bytesLE 4 lost ++
    bytesLE 4 (b2n g.inc + 2 * b2n g.exh + 4 * b2n g.dfull + 8 * b2n g.fence) ++ bytesLE 8 g.tflip.toNat ++ bytesLE 8 s.tick.toNat ++ bytesLE 32 0

/-- DRAIN_COMPLETE (R135): every block is DR or LO; the header is written, and the sequencer's lamplighter is interrupted (R440). -/
def execDrainComplete (slot : Nat) (s : State) : Out :=
  let g := s.gens.slot slot
  if g.state ≠ 2 then .next s
  else if s.undrained slot ≠ [] then .next (s.drainOn slot)
  else
    let (area, size) := s.drainArea slot
    let s := if size = 0 then s else s.putRaw area (s.drainHeader slot) (fun _ => 0)
    let s := s.setGSlot slot { s.gens.slot slot with state := 3 }
    .next (s.pend (8192 + 4 * s.sequencer) 2 0)

/-! ## Rollback (R137, R432) -/

/-- The snapshot slot that holds a drained generation. -/
def State.drainedSlot (s : State) (g : BitVec 32) : Option Nat :=
  [0, 1].find? (fun i => decide ((s.gens.slot i).state = 3) && decide ((s.gens.slot i).g = g))

/-- The blocks of a slot that a rollback restores: every one, or those whose page belongs to a VF (R23, R137). -/
def State.rollBlocks (s : State) (i : Nat) (arg : W64) : List (Nat × Nat) :=
  ((s.gens.slot i).recs.zip (upto (s.gens.slot i).recs.length)).filter (fun q => arg.getLsbD 63 ||
    (match s.peekLeaf (q.1 * 65536) with | some l => decide (pteKslot l.2.1 = bitsOf arg.toNat 5 0) | none => false))

/-- A context maps a byte of a block. -/
def Ctx.mapsBlock (c : Ctx) (b : Nat) : Bool :=
  (upto 16).any (fun j =>
    let base := ((c.base[j]?).getD 0).toNat
    let off := ((c.off[j]?).getD 0).toNat
    decide (((c.ctl[j]?).getD 0).getLsbD 0) && decide (off ≤ b) && decide (b - off + base ≤ ((c.lim[j]?).getD 0).toNat))

/-- One record is written back at the current generation, if its page is still there. None: it must wait. -/
def State.rollOne (s : State) (i : Nat) (q : Nat × Nat) : Option State :=
  if (s.getBlock i q.1).st = .LO then some s
  else match s.peekLeaf (q.1 * 65536) with
    | none => some s
    | some (k, e, size) =>
      let src := (s.drainArea i).1 + recordAt q.2 + 64
      let p : Piece := { ia := q.1 * 65536, len := 65536, key := keyUnder e size (q.1 * 65536), pte := e, size := size, home := k }
      let w := devWho s.sequencer .mon
      match s.readyWrite w p s.gens.dev with
      | (_, false) => none
      | (s, true) =>
        let bytes := (upFrom src 65536).map (memGet s.mem)
        let enc (n : Nat) : Nat := sget 0 s.encKey (src / 64 + n)
        if pteRepl e then some (s.putPiece w p bytes s.gens.dev)
        else
          let s := s.putPiece w { p with pte := if pteEnc e then e - 2 ^ 9 else e } bytes s.gens.dev
          some { s with encKey := (upto 1024).foldl (fun m n => sset 0 m (p.key / 64 + n) (enc n)) s.encKey }

def State.rollAll (s : State) (i : Nat) : List (Nat × Nat) → State × Bool
  | [] => (s, true)
  | q :: l => match s.rollOne i q with
    | some s => State.rollAll s i l
    | none => (s, false)

/-- MAILBOX_ROLLBACK (R137, R432): every context that maps an affected page is pre-empted, then the records are written back and
the lost ones counted. -/
def execMailboxRollback (stack i : Nat) (s : State) : Out :=
  let m := s.getBox stack i
  if !m.go ∨ m.svc ≠ 1 then .next s
  else if stack ≠ s.sequencer then .next (s.answerBox stack i 2)
  else if s.plat.rollback.isSome ∧ s.plat.rollback ≠ some (16 * stack + i) then .next (s.answerBox stack i 3)
  else match s.drainedSlot (m.arg0.extractLsb' 0 32) with
    | none => .next ({ s with plat := { s.plat with rollback := none } }.answerBox stack i 1)
    | some slot =>
      let s : State := { s with plat := { s.plat with rollback := some (16 * stack + i) } }
      let bs := s.rollBlocks slot m.arg1
      let hit := (s.hart :: s.harts).filter (fun h => !h.lamp && bs.any (fun b => (s.getCtx h.ctxKey).mapsBlock b.1))
      if hit ≠ [] then
        .next (((hit.filter (fun h => h.pre.isNone)).foldl (fun t h => t.postOnce (.preemptRequest h.place t.saveArea)) s).postOnce (.mailboxRollback stack i))
      else match s.rollAll slot bs with
        | (s, false) => .next (s.postOnce (.mailboxRollback stack i))
        | (s, true) =>
          let lost := (bs.filter (fun b => decide ((s.getBlock slot b.1).st = .LO))).length
          let s : State := { s with plat := { s.plat with rollback := none } }
          .next ((upto 16).foldl (fun t k => t.askDispatch k) (s.answerBox stack i (BitVec.ofNat 64 (256 * lost))))

end Sys2Proof.Machine
end

