-- ==== Sys2Proof/Machine/EvSym.lean ====
section
/-! DEFINITION. Events of symbols: a producer's value or fault arrives (R186, R190 to R192, R278, R283). -/
namespace Sys2Proof.Machine

/-- The value of a symbolic load (R278): extended as its `w` field states. -/
def Producer.value (p : Producer) (v : Nat) : W64 := if p.sext then BitVec.ofInt 64 (intVal (8 * p.width) true v) else BitVec.ofNat 64 v

/-- An AMO request that has its turn is performed: at its hot line, its window or its home (R69, R70, R73). -/
def State.symAmo (s : State) (r : Req) (win : Win) : State × Got Nat :=
  let w := s.reqWho r
  match win with
  | .trans => match s.reqPieces r .both with
    | (s, .fault f) => (s, .fault f)
    | (s, .hold) => (s, .hold)
    | (s, .ok ps) => match ps with
      | [] => (s, .hold)
      | p :: _ =>
        if ((s.getClu r.cluster).camOf (r.ia / 128)).any (fun q => decide (q.queue.head? = some r.id)) then
          (match s.rmwHot w r.cluster r.va p r.tag r.amoFun with
           | (s, .hold) => (s, .hold)
           | (s, g) => (s.popCam r.cluster (r.ia / 128), g))
        else s.rmwHome w r.va p r.tag r.amoFun
  | win => s.rmwWin w r.va r.ia r.n win r.tag r.amoFun

/-- A symbolic load's bytes; one that reached an SRAM bank is performed under the mode in which it arrived (R59, R62). -/
def State.symLoad (s : State) (r : Req) (win : Win) : State × Got Nat :=
  let w := s.reqWho r
  match win with
  | .sram _ _ =>
    let (ks, u) := win.keys r.n
    let s := s.touch ks
    (s.answer w u, valueOf r.va (s.taken ks none))
  | win => match s.loadAt w r.va r.ia r.n r.attr win r.scope .read with
    | (s, .hold) => (s, .hold)
    | (s, .fault f) => (s, .fault f)
    | (s, .ok l) => (s, valueOf r.va l)

/-- What a request yields to its symbol: it is performed now (R172, R190). -/
def State.symValue (s : State) (p : Producer) (r : Req) : State × Got W64 :=
  match winOf s.ownPart r.ia with
  | none => (s, .fault { code := 0x24, tval := r.va })
  | some win => match (if p.amo ≠ 0 then s.symAmo r win else s.symLoad r win) with
    | (s, .hold) => (s, .hold)
    | (s, .fault f) => (s, .fault f)
    | (s, .ok v) => (s, .ok (if p.amo ≠ 0 then BitVec.ofNat 64 v else p.value v))

/-- The producer and the request of a pending slot. -/
def State.producerOf (s : State) (place slot : Nat) : Option (Producer × Req) :=
  match s.hartAt place with
  | none => none
  | some h => match h.slot slot with
    | .pending p id => (s.reqAt id).map (fun r => (p, r))
    | _ => none

/-- SYMBOL_RESOLVE (R190): every form over the symbol receives its value in one step, then the acquire of the producer (R146);
a released command that must wait makes the step wait (R191). -/
def execSymbolResolve (place slot : Nat) (s : State) : Out :=
  match s.producerOf place slot with
  | none => .next ((s.reqs.filter (fun r => decide (r.src = .sym place slot) && decide (r.stage = .done) && (s.slotOf r).isNone)).foldl
      (fun t r => t.strayReq r) s)
  | some (p, r) =>
    if r.stage ≠ .done then .next s
    else match s.symValue p r with
      | (t, .fault f) => .next (t.failReq r.id f.code)
      | (t, .hold) => .next (t.postOnce (.symbolResolve place slot))
      | (t, .ok v) => match t.resolve place slot v with
        | none => .next (s.postOnce (.symbolResolve place slot))
        | some u =>
          let u := if p.acq then u.acquire (u.reqWho r) p.scope else u
          .next (u.dropReq r.id)

/-- SYMBOL_POISON (R38, R192): the producer's fault reaches its slot; during run-ahead it waits (R43). -/
def execSymbolPoison (place slot : Nat) (s : State) : Out :=
  match s.producerOf place slot with
  | none => .next s
  | some (p, r) =>
    if r.stage ≠ .failed then .next s
    else if s.ras.any (fun q => decide (q.place = place)) then .next (s.postOnce (.symbolPoison place slot))
    else .next ((s.poisonSym place slot r.cause p.va).dropReq r.id)

end Sys2Proof.Machine
end

