-- ==== Sys2Proof/Machine/EvRas.lean ====
section
/-! DEFINITION. Events of faults and reliability: traps that no instruction raises (R246, R437, R452), interrupts (R441), the firmware's
watchdog and restart (R429, R452), fences (R450 to R456), fatal errors and the dump (R459, R460), and the end of a context (R61). -/
namespace Sys2Proof.Machine

/-! ## Fatal errors (R459, R460) -/

/-- CRC-32 of the IEEE 802.3 polynomial: one bit, then a byte, then a list of bytes. -/
def crcBits : Nat → BitVec 32 → BitVec 32
  | 0, c => c
  | n + 1, c => crcBits n (if c.getLsbD 0 then (c >>> 1) ^^^ 0xEDB88320#32 else c >>> 1)

def crcBytes (c : BitVec 32) (l : List Byte) : BitVec 32 := l.foldl (fun c b => crcBits 8 (c ^^^ b.setWidth 32)) c

def crc32 (l : List Byte) : BitVec 32 := ~~~(crcBytes (BitVec.allOnes 32) l)

/-- The bytes of a stack's reliability log (R458). -/
def State.logBytes (s : State) (k : Nat) : List Byte :=
  (upto 256).flatMap (fun n => bytesLE 8 (s.devValue k (.log n 0)) ++ bytesLE 8 (s.devValue k (.log n 1)))

/-- The queue status words of every VF (R427). -/
def State.statusBytes (s : State) : List Byte := (upto 64).flatMap (fun f => bytesLE 8 (s.getVf f).qstat)

/-- The sections of a dump, as (type, stack, bytes): the reliability log of the writing stack and the queue status words. What the other types hold
the spec does not say (log 37). -/
def State.dumpSections (s : State) (k : Nat) : List (Nat × Nat × List Byte) := [(1, k, s.logBytes k), (3, 0, s.statusBytes)]

/-- The section table and the sections, from offset `o`. -/
def sectionTable : Nat → List (Nat × Nat × List Byte) → List Byte
  | _, [] => []
  | o, (t, k, b) :: l => bytesLE 1 t ++ bytesLE 1 k ++ bytesLE 2 0 ++ bytesLE 4 b.length ++ bytesLE 8 o ++ sectionTable (o + b.length) l

/-- The first 124 bytes of the header (R460). -/
def State.dumpHead (s : State) (k why nsec size : Nat) : List Byte :=
  bytesLE 4 0x5A314455 ++ bytesLE 2 1 ++ bytesLE 1 k ++ bytesLE 1 why ++ bytesLE 8 s.tick.toNat ++ bytesLE 2 s.plat.fstk.toNat ++ bytesLE 2 0 ++
    (upto 16).flatMap (fun j => bytesLE 2 (s.getStk j).rasFdie.toNat) ++ bytesLE 4 nsec ++ bytesLE 8 size ++
    bytesLE 8 s.gens.slot0.word ++ bytesLE 8 s.gens.slot1.word ++ bytesLE 4 (s.getStk k).logHead.toNat ++ bytesLE 40 0

/-- The dump, if its region has a size. -/
def State.writeDump (s : State) (k why : Nat) : State :=
  let (base, size) := tierRegion ((s.getStk k).rasdump.extractLsb' 0 28)
  if size = 0 then s
  else
    let secs := s.dumpSections k
    let start := 128 + 16 * secs.length
    let body := sectionTable start secs ++ secs.flatMap (fun q => q.2.2)
    let head := s.dumpHead k why secs.length (128 + body.length)
    s.putRaw (keySecond + base * 2 ^ 30) (head ++ bytesLE 4 (crc32 head).toNat ++ body) (fun _ => 0)

/-- Every hart and engine stops; the dump is written, and the host sees the recovery surface (R459, R476). -/
def State.fatal (s : State) (why : Nat) : State :=
  if s.stopped.isSome then s
  else
    let k := ((upto 16).find? (fun k => !s.fenced k)).getD 0
    let s := s.writeDump k why
    { s with stopped := some why, agenda := [], plat := { s.plat with recovery := true, recState := 0, dump := some k } }

/-- FATAL_ERROR (R459). -/
def execFatalError (why : Nat) (s : State) : Out := .next (s.fatal why)

/-! ## Fences (R453 to R456) -/

/-- A fence of a stack or die while a slot settles makes the snapshot incomplete; the units of the stack count as acknowledged (R119). -/
def State.fenceGens (s : State) (gone : Nat → Bool) : State :=
  match s.gens.settling with
  | none => s
  | some i =>
    let s := s.setGSlot i { s.gens.slot i with fence := true, inc := true }
    let left := s.gens.unsettled.filter (fun u => !gone u)
    let s : State := { s with gens := { s.gens with unsettled := left, lag := s.gens.lag.filter (fun u => !gone u) } }
    if left = [] then s.settleFlip i else s

/-- The interrupts and signals of a fence (R440, R456, R468). -/
def State.tellFence (s : State) (stack die : Nat) (whole : Bool) : State :=
  let s := s.pendAll 4 (BitVec.ofNat 64 (stack + 16 * die + 256 * b2n whole))
  if whole then s.msixAll3 else s

/-- A context that a stack's fence kills (R455): it has a hart, a command or an engine operation there, or a range that covers a region with the stack
in its mask. -/
def State.hitByStack (s : State) (k ctx : Nat) : Bool :=
  let c := s.getCtx ctx
  (s.hart :: s.harts).any (fun h => decide (h.ctxKey = ctx) && decide (stackOf h.place = k)) ||
    s.copies.any (fun q => decide (q.ctx = ctx) && decide (q.stack = k) && decide (q.st ≠ .ended)) ||
    s.mops.any (fun o => decide (o.ctx = ctx) && decide (o.stack = k) && decide (o.st ≠ .ended)) ||
    s.bcmds.any (fun q => decide (q.ctx = ctx) && decide (q.stack = k) && !q.sent) ||
    s.invs.any (fun v => decide (v.ctx = ctx) && decide (v.die / 16 = k) && decide (v.st ≠ .ended)) ||
    s.saved.any (fun a => decide (a.ctxKey = ctx) && decide (stackOf a.was.place = k) && decide (a.was.held ≠ [])) ||
    (upto 16).any (fun j =>
      let b := ((c.base[j]?).getD 0).toNat
      let l := ((c.lim[j]?).getD 0).toNat
      let o := ((c.off[j]?).getD 0).toNat
      ((c.ctl[j]?).getD 0).getLsbD 0 && decide (b ≤ l) && decide (o < 2 ^ 32) &&
        (upFrom (o / 2 ^ 20) ((min (o + (l - b)) (2 ^ 32 - 1)) / 2 ^ 20 - o / 2 ^ 20 + 1)).any (fun r =>
          bitOf (sget 0 s.regions r).toNat 0 && bitOf (regionMask (sget 0 s.regions r).toNat) k))

/-- Every live context, and those that harts run in. -/
def State.liveCtxs (s : State) : List Nat :=
  ((s.hart :: s.harts).filter (fun h => !h.lamp)).foldl (fun l h => nins h.ctxKey l)
    ((s.ctxs.filter (fun e => e.2.live && decide (e.1 < 65536))).foldl (fun l e => nins e.1 l) [])

/-- What a fenced stack held is out of reach: its harts, its clusters' caches and what waited there (R454). -/
def State.cutStack (s : State) (k : Nat) : State :=
  let lamps := (s.hart :: s.harts).filter (fun h => h.lamp && decide (stackOf h.place = k))
  let s := lamps.foldl (fun t h => t.removeHart h.place) s
  let s := [2 * k, 2 * k + 1].foldl (fun t c => t.onClu c (fun q => { q with lines := [], cam := [], ports := [] })) s
  let t := s.getStk k
  let s := s.setStk k { t with batch := none, missed := [], walked := [], biWait := [] }
  let there (r : Req) : Bool := decide (s.home r.ia = some k) || (match winOf s.ownPart r.ia with
    | some w => decide (w.stack = k) && (match w with | .trans | .peer _ _ => false | _ => true)
    | none => false)
  (s.reqs.filter (fun r => there r && decide (r.stage ≠ .done) && decide (r.stage ≠ .failed))).foldl (fun t r => t.failReq r.id 0x34) s

/-- The gangs that a fenced stack coordinates are aborted at each of their participants (R420, R421). -/
def State.cutGangs (s : State) (k : Nat) : State :=
  (s.gangs.filter (fun g => !s.gangAway && decide (g.coord = k))).foldl (fun t g =>
    let parts := t.nodes.filter (fun n => decide (n.vf = g.vf) && decide (n.gang = g.gang) && decide (n.gst ≠ GangState.none))
    parts.foldl (fun t n => t.postOnce (.gangAbort n.id)) (t.sendAbort g)) s

/-- A whole stack is fenced. -/
def State.fenceStack (s : State) (k : Nat) : State :=
  if s.fenced k then s
  else if k = 0 then s.fatal 1
  else if 8 < popcount 16 (s.plat.fstk ||| (1#16 <<< k)).toNat then s.fatal 2
  else
    let hit := s.liveCtxs.filter (s.hitByStack k)
    let s : State := { s with plat := { s.plat with fstk := s.plat.fstk ||| (1#16 <<< k) } }
    let s := (s.tellFence k 0 true).requestReplace
    let s := hit.foldl (fun t c => t.killCtx c) s
    let s := (s.cutStack k).cutGangs k
    let s := s.fenceGens (fun u => decide (unitStack u = k))
    (upFrom (16 * k) 16).foldl (fun t d => t.postOnce (.invocationStart d)) s

/-- STACK_FENCE (R453 to R456). -/
def execStackFence (stack : Nat) (s : State) : Out := .next (s.fenceStack (stack % 16))

/-- Fenced DRAM dies of the part (R456). -/
def State.fencedDies (s : State) : Nat := (s.stk.map (fun e => popcount 16 e.2.rasFdie.toNat)).sum

/-- A context that a die's fence kills (R455): a leaf of its VF that it maps has its frame on the die, in the tree of the die's stack. -/
def State.hitByDie (s : State) (d ctx : Nat) : Bool :=
  let c := s.getCtx ctx
  (s.leaves (d / 16)).any (fun q =>
    let size := leafSize q.2.2 q.2.1
    let key := keyUnder q.2.1 size q.1
    decide (pteTier q.2.1 = 0) && decide (keyDie key = d) && decide (pteKslot q.2.1 = c.vf) && c.mapsBlock (q.1 / 65536))

/-- DIE_FENCE (R453 to R456). -/
def execDieFence (die : Nat) (s : State) : Out :=
  let d := die % 256
  if s.dieFenced d then .next s
  else
    let hit := s.liveCtxs.filter (s.hitByDie d)
    let t := s.getStk (d / 16)
    let s := (s.setStk (d / 16) { t with rasFdie := t.rasFdie ||| (1#16 <<< (d % 16)) }).tellFence (d / 16) (d % 16) false
    let s := if max 1 (s.getStk 0).dthr.toNat ≤ s.fencedDies then s.requestReplace else s
    let s := hit.foldl (fun t c => t.killCtx c) s
    .next ((s.fenceGens (fun _ => false)).postOnce (.invocationStart d))

/-- MESH_FLIT_CRC_ERROR (R450, R458): each retry is logged; a ninth failure of one flit fences the link's stack. Which flit fails is open
(log 38). -/
def execMeshFlitCrcError (stack port : Nat) (s : State) : Out :=
  let k := stack % 16
  let t := s.getStk k
  let again := bitOf (Config.freeWord s.free).toNat 0
  let n := if again then t.meshRetry + 1 else 1
  let s : State := { s with free := s.free + 1 }
  if 8 < n then .next ((s.setStk k { t with meshRetry := 0 }).postOnce (.stackFence k))
  else .next ((s.setStk k { t with meshRetry := n }).logEvent k 3 port 0 0)

/-! ## The firmware (R429, R452) -/

/-- A lamplighter hart begins its firmware anew. -/
def Hart.restart (now : W64) (h : Hart) : Hart :=
  { place := h.place, ctxKey := h.ctxKey, ctxid := h.ctxid, gen := h.gen, cycle := h.cycle, instret := h.instret, lastTick64 := now }

/-- The firmware of a stack restarts: the fetch pointers return to the oldest held entry (R429), the watchdog starts again, and a third
restart within a second fences the stack (R452). -/
def State.restartFirmware (s : State) (k : Nat) : State :=
  if s.fenced k then s
  else
    let t := s.getStk k
    let recent := s.tick :: t.restarts.filter (fun a => decide ((s.tick - a).toNat < 1000000000))
    let places := ((s.hart :: s.harts).filter (fun h => h.lamp && decide (stackOf h.place = k))).map (·.place)
    let s := s.setStk k { t with restarts := recent, hbAt := (upto 4).foldl (fun m i => sset 0 m i s.tick) t.hbAt }
    let s := places.foldl (fun u p => (u.forget p).onHart p (Hart.restart s.tick)) s
    let s : State := { s with ras := s.ras.filter (fun r => !nmem r.place places) }
    let s := if k = 0 then { s with vfs := s.vfs.map (fun e => (e.1, { e.2 with fetched := 0 })) } else s
    if 3 ≤ recent.length then s.fenceStack k else s

/-- FIRMWARE_RESTART (R429, R452). -/
def execFirmwareRestart (stack : Nat) (s : State) : Out := .next (s.restartFirmware (stack % 16))

/-- WATCHDOG_EXPIRY (R452, R457): `wdog` µs have passed without a heartbeat. -/
def execWatchdogExpiry (stack hart : Nat) (s : State) : Out :=
  let k := stack % 16
  let t := s.getStk k
  if t.wdog = 0 ∨ (s.tick - sget 0 t.hbAt (hart % 4)).toNat < 1000 * t.wdog.toNat then .next s
  else .next (s.restartFirmware k)

/-- RASHB_WRITE (R457). -/
def execRashbWrite (stack : Nat) (val : BitVec 64) (s : State) : Out := .next (s.heartbeat (stack % 16) val)

/-- HDOOR_WRITE (R440, R457): a core with no hart discards it. -/
def execHdoorWrite (stack core : Nat) (s : State) : Out := .next (s.hdoor (stack % 16) (core % 512))

/-! ## Interrupts and traps -/

/-- The pending interrupt with the highest code (R441). -/
def Hart.topIrq (h : Hart) : Option (Nat × W64) :=
  h.irqs.foldl (fun m q => match m with | some n => if n.1 < q.1 then some q else some n | none => some q) none

/-- INTERRUPT_TAKE (R440, R441): at a scalar boundary, or out of a wait that executes again. -/
def execInterruptTake (place : Nat) (s : State) : Out :=
  let s := s.focus place
  let h := s.hart
  let open_ : Bool := match h.wait with | none => true | some w => w.yields
  if h.place ≠ place ∨ !h.interruptible ∨ !open_ ∨ s.inAhead ∨ h.pre.isSome then .next s
  else match h.topIrq with
    | none => .next s
    | some (code, v) =>
      let s := s.unlate
      let s := s.upd (fun h => { h with irqs := h.irqs.filter (fun q => decide (q.1 ≠ code)), wait := none })
      .next (s.trap (causeOf code 0 false false true) v s.hart.pc)

/-- ILLEGAL_INSTRUCTION (R246, R438): cause 0x01 where `ver` is not 00, else 0x00, with the word as trap value; in run-ahead, reason 4. -/
def execIllegalInstruction (word : BitVec 32) (s : State) : Out :=
  if s.inAhead then s.stopAhead 4
  else if s.isLate then s.stall
  else s.trapHere (if word.extractLsb' 0 2 ≠ 0 then 1 else 0) (word.setWidth 64)

/-- The level at which the walk of an IA ends (R42). -/
def State.walkLevel (s : State) (ia : Nat) : Nat :=
  match s.home ia with
  | none => 0
  | some k => match s.walk k ia with
    | .fault _ l => l
    | .leaf _ l _ => l

/-- A double fault (R452): at mon it is fatal; a lamplighter hart's firmware restarts; an application hart's context is killed. -/
def State.doubleFault (s : State) : State :=
  if s.hart.level = .mon then s.fatal 3
  else if s.hart.lamp then s.restartFirmware (stackOf s.hart.place)
  else s.killCtx s.hart.ctxKey

/-- INSTRUCTION_FETCH_FAULT (R39, R40, R41, R437, R438, R452). A batched cause is recorded; one that starts no run-ahead has a record of one
entry. -/
def execInstructionFetchFault (cause : Nat) (tval : BitVec 64) (s : State) : Out :=
  let f : Flt := { code := cause, tval := tval, ia := tval.toNat, level := s.walkLevel tval.toNat }
  match s.ahead with
  | some r =>
    if batched cause then
      (s.onAhead (fun q => { q with entries := noteUnit r.entries f kFetch })).stopAhead 6
    else s.stopAhead 4
  | none =>
    if s.isLate then s.stall
    else if s.hart.hfirst then .next s.doubleFault
    else if batched cause then
      s.batchTrap s (recordBytes s.hart.pc s.hart.pc (noteUnit [] f kFetch) (if s.hart.lamp then 4 else 6) 0) cause tval
    else s.trapHere cause tval

/-! ## The end of a context (R11, R61, R68, R99, R424) -/

/-- The engine nodes of a context that run (R424). -/
def State.engineNodes (s : State) (ctx : Nat) : List Node :=
  s.nodes.filter (fun n => decide (n.ctx = ctx) && decide (n.kind ≠ 0) && decide (n.st = .running) && decide (n.phase = 0))

/-- A request reaches the engine nodes of a context: they have T1 + T2 to complete (R424). One that finds nothing running says so (R426, R427). -/
def State.requestEngines (s : State) (ctx : Nat) : State :=
  let l := s.engineNodes ctx
  let s := l.foldl (fun t n =>
    let k := t.getStk n.home
    if n.due.isSome then t else t.onNode n.id (fun q => { q with due := some (t.tick + BitVec.ofNat 64 (k.t1Ticks + k.t2Ticks)) })) s
  let busy := decide (l ≠ []) || (s.hart :: s.harts).any (fun h => !h.lamp && decide (h.ctxKey = ctx)) ||
    s.saved.any (fun a => decide (a.ctxKey = ctx))
  if busy || !(s.getCtx ctx).live then s else s.reached (s.getCtx ctx).vf none 0

/-- CONTEXT_DESTRUCTION: its harts are pre-empted first, and its engine nodes have the time of R424; then its banks, locks and row-locks end, and its
ranges are 0 again. -/
def execContextDestruction (ctx : Nat) (s : State) : Out :=
  let hs := (s.hart :: s.harts).filter (fun h => !h.lamp && decide (h.ctxKey = ctx))
  let s := s.requestEngines ctx
  let late := (s.engineNodes ctx).filter (fun n => match n.due with | some d => decide (d.toNat ≤ s.tick.toNat) | none => false)
  if hs ≠ [] ∨ late.length < (s.engineNodes ctx).length then
    .next (((hs.filter (fun h => h.pre.isNone)).foldl (fun t h => t.postOnce (.preemptRequest h.place t.saveArea)) s).postOnce (.contextDestruction ctx))
  else if 65536 ≤ ctx then .next s
  else
    let s := late.foldl (fun t n => t.reached n.vf (some n.id) 3) s
    .next ((s.killCtx ctx).setCtx ctx {})

end Sys2Proof.Machine
end

