-- ==== Sys2Proof/Machine/EvPlatform.lean ====
section
/-! DEFINITION. Events of the platform: host ports and the HDM-DB window (R462 to R466), the far tier (R467), QoS buckets (R469), VFs and
keys (R470, R471), Glowline (R472 to R474), reset, recovery and attestation (R475 to R477), and power (R478). -/
namespace Sys2Proof.Machine

/-! ## Host ports (R461 to R466) -/

/-- HOST_LINK_TRAINED (R462, R476): the written role takes effect; a disabled port does not come up, nor does a far port in recovery. -/
def execHostLinkTrained (port : Nat) (cxl : Bool) (width gen : Nat) (s : State) : Out :=
  let q := port % 4
  let p := s.getPort q
  if s.fenced (5 * q) ∨ (s.plat.recovery ∧ q ≠ 0) then .next s
  else
    let up := decide (p.role ≠ 2) && decide (p.role ≠ 3)
    .next (s.setPort q { p with inForce := p.role, up := up, cxl := up && cxl, width := if up then BitVec.ofNat 5 width else 0,
                                gen := if up then BitVec.ofNat 4 gen else 0 })

/-- The 8-byte word of a host address in the window, as an IA (R464); none outside it. -/
def State.hdmIa (s : State) (off : Nat) : Option Nat :=
  let ia := s.plat.hdmBase.toNat * 2 ^ 28 + off
  if s.plat.hdmEn && decide (off + 8 ≤ s.plat.hdmSize.toNat * 2 ^ 28) && decide (ia + 8 ≤ 2 ^ 48) then some ia else none

/-- HOST_MEM_REQUEST (R117, R463, R464): an access of 8 bytes at an offset of the decoder range. Outside the window a read returns all ones and a write
is discarded, with a log entry. -/
def execHostMemRequest (off : Nat) (wr : Bool) (data : BitVec 64) (s : State) : Out :=
  if !s.port0.up ∨ !s.port0.cxl ∨ s.port0.inForce ≠ 0 ∨ off % 8 ≠ 0 then .next s
  else match s.hdmIa off with
    | none =>
      let s : State := if wr then s else { s with reads := s.reads ++ [(BitVec.allOnes 64, true)] }
      .next (s.logEvent 0 6 0 0 (s.plat.hdmBase.toNat * 2 ^ 28 + off))
    | some ia =>
      let (id, s) := s.fresh
      let r : Req :=
        { id := id, src := .host, op := if wr then .write else .read, va := 0, ia := ia, n := 8, data := data, scope := 5, attr := 1, lvl := .sup,
          vf := s.plat.hdmVf.toNat, tag := s.unitGen (unitHost 0), cluster := 0, stage := .sent, result := 0, cause := 0 }
      .next ({ s with reqs := s.reqs ++ [r] }.post (.homeAccess id))

/-- The host's copy of a line is written back at its home, tagged with port 0's generation (R117, R465). False: it waits. -/
def State.hostBack (s : State) (line : Nat) (data : BitVec 512) : State × Bool :=
  match s.peekLeaf (64 * line) with
  | none => (s.logEvent 0 6 0 0 (64 * line), true)
  | some (k, e, size) =>
    let p : Piece := { ia := 64 * line, len := 64, key := keyUnder e size (64 * line), pte := e, size := size, home := k }
    let w : Who := { devWho 0 .sup with ctx := 2 ^ 40 + 1 }
    let tag := s.unitGen (unitHost 0)
    match s.readyWrite w p tag with
    | (s, false) => (s, false)
    | (s, true) => (s.putPiece w p (bytesLE 64 data.toNat) tag, true)

/-- BISNP_RESPONSE (R176, R465): modified data of an exclusive line is applied first; then the line is given up, or kept shared after
BISnpData, and the waiting access goes on. -/
def execBisnpResponse (line : Nat) (dirty : Bool) (data : BitVec 512) (s : State) : Out :=
  match s.stk.find? (fun e => e.2.biWait.any (fun q => decide (q.1 = line))) with
  | none => .next s
  | some (k, t) =>
    let inv := t.biWait.any (fun q => decide (q.1 = line) && q.2)
    let excl := t.hostLines.any (fun q => decide (q.1 = line) && q.2)
    let r : State × Bool := if dirty && excl then s.hostBack line data else (s, true)
    if r.2 = false then .next (r.1.postOnce (.bisnpResponse line dirty data))
    else
      let s := r.1
      let t := s.getStk k
      .next (s.setStk k { t with
        biWait := t.biWait.filter (fun q => decide (q.1 ≠ line))
        hostLines := if inv then t.hostLines.filter (fun q => decide (q.1 ≠ line))
          else modList (fun q => decide (q.1 = line)) (fun _ => (line, false)) t.hostLines })

/-- HOST_SNOOP (R466): the part holds no host memory; the answer, 0, is "not held". -/
def execHostSnoop (_addr : Nat) (s : State) : Out := .next { s with reads := s.reads ++ [(0, false)] }

/-! ## The far tier (R467) -/

/-- A far request that is still out, with its line. -/
def State.farReq (s : State) (req : Nat) : Option (Req × Nat) :=
  match s.reqAt req with
  | some r => (match r.src with | .far l => some (r, l) | _ => none)
  | none => none

/-- A far request ends. -/
def State.endFar (s : State) (r : Req) (line : Nat) : State :=
  let t := s.getStk r.cluster
  { (s.setStk r.cluster { t with uio := nrem r.id t.uio }).dropReq r.id with uioDone := nins line s.uioDone }

/-- UIO_COMPLETION (R467): one with poison poisons its line. -/
def execUioCompletion (req : Nat) (psn : Bool) (s : State) : Out :=
  match s.farReq req with
  | none => .next s
  | some (r, l) => .next (if psn then (s.endFar r l).poison (64 * l) else s.endFar r l)

/-- UIO_TIMEOUT (R467): after 50 ms a read has poisoned data and a write is discarded and logged. -/
def execUioTimeout (req : Nat) (s : State) : Out :=
  match s.farReq req with
  | none => .next s
  | some (r, l) =>
    if (s.tick - r.va).toNat < 50000000 then .next s
    else if r.op = .read then .next ((s.endFar r l).poison (64 * l))
    else .next ({ s.endFar r l with uioLost := nins l s.uioLost }.logEvent r.cluster 6 0 0 (64 * l))

/-! ## QoS (R469) -/

/-- TOKEN_BUCKET_REFILL (R469): each metered share of the VF is refilled, to at most four refills. The capacity of an interval is open (log 21). -/
def execTokenBucketRefill (stack vf : Nat) (s : State) : Out :=
  let k := stack % 16
  let q := (s.getVf vf).qos.toNat
  .next ([0, 1].foldl (fun t kind =>
    let share := if kind = 0 then bitsOf q 40 33 else bitsOf q 48 41
    let amount := max 1 (share * Config.bandwidth kind / 256)
    let e := t.getStk k
    if share = 0 then t
    else t.setStk k { e with buckets := sset 0 e.buckets (2 * vf + kind) (min (4 * amount) (sget 0 e.buckets (2 * vf + kind) + amount)) }) s)

/-! ## Virtual functions and keys (R470, R471) -/

/-- The contexts of a VF. -/
def State.ctxsOf (s : State) (f : Nat) : List Nat :=
  ((s.hart :: s.harts).filter (fun h => !h.lamp && decide (h.vfid.toNat = f))).foldl (fun l h => nins h.ctxKey l)
    ((s.nodes.filter (fun n => decide (n.vf = f))).foldl (fun l n => nins n.ctx l)
      ((s.ctxs.filter (fun e => e.2.live && decide (e.1 < 65536) && decide (e.2.vf = f))).foldl (fun l e => nins e.1 l) []))

/-- Work of a VF that is still to end: its nodes, copies, bank commands and invocations. -/
def State.vfBusy (s : State) (f : Nat) : Bool :=
  s.nodes.any (fun n => decide (n.vf = f)) || s.copies.any (fun c => decide (c.vf = f) && decide (c.st ≠ .ended)) ||
    s.invs.any (fun v => decide (v.vf = f) && decide (v.st ≠ .ended)) || s.mops.any (fun o => decide (o.vf = f) && decide (o.st ≠ .ended))

/-- VF_FLR (R470): entries are dropped and interrupts discarded, the VF's contexts are destroyed and its nodes killed; when its work has ended, its
key is replaced and its registers are as after reset. -/
def execVfFlr (vf : Nat) (s : State) : Out :=
  let f := vf % 64
  let v := s.getVf f
  if !v.flr then
    let cs := s.ctxsOf f
    let s := s.setVf f { v with flr := true, entries := [], fetched := 0, accepted := 0 }
    let begun (n : Node) : Bool := decide (n.vf = f) && (decide (n.st = .running) || decide (n.st = .savedN))
    let s : State := { s with nodes := modList begun (fun n => { n with rung := 3 }) s.nodes }
    let s := cs.foldl (fun t c => (t.killCtx c).setCtx c {}) s
    .next (s.postOnce (.vfFlr vf))
  else if s.vfBusy f then .next (s.postOnce (.vfFlr vf))
  else .next ((s.setVf f { qos := v.qos, key := v.key }).freshKey f)

/-- KEYGEN_WRITE (R471). -/
def execKeygenWrite (val : BitVec 64) (s : State) : Out := .next (if val.toNat < 64 then s.freshKey val.toNat else s)

/-! ## Glowline (R472 to R474) -/

/-- GLOWLINE_LINK_TRAINED (R472, R476): the port exchanges part numbers and becomes ACTIVE; in recovery it stays DOWN. -/
def execGlowlineLinkTrained (port peer pport : Nat) (s : State) : Out :=
  let p := port % 64
  if s.fenced (p / 4) ∨ s.plat.recovery then .next s
  else .next (s.setGlow p { s.getGlow p with state := 2, peer := BitVec.ofNat 8 peer, pport := BitVec.ofNat 6 pport, fails := 0, expect := 0, met := true })

/-- A request that a peer part makes of this part's translated window (R18): an access of 8 bytes, with the generation of the port that receives it
(R117). What it asks is the peer's to say (log 91). -/
def State.peerRequest (s : State) (port : Nat) : State :=
  let free (i : Nat) : W64 := Config.freeWord (s.free + i)
  let (id, s) := s.fresh
  let lvl : Level := match (free 0).toNat / 2 % 3 with | 0 => .app | 1 => .sup | _ => .mon
  let r : Req :=
    { id := id, src := .peer port, op := if bitOf (free 0).toNat 0 then .write else .read, va := 0, ia := (free 1).toNat % 2 ^ 45 * 8, n := 8,
      data := free 2, scope := 5, attr := 1, lvl := lvl, vf := (free 3).toNat % 64, tag := s.unitGen (unitGlow port), cluster := 0, stage := .sent,
      result := 0, cause := 0 }
  { s with reqs := s.reqs ++ [r], free := s.free + 4 }.post (.homeAccess id)

/-- A gang message of a participant on a peer part reaches this part's coordinator (R420, R430): READY, ACK, NAY or LATE, of a gang of this part. Which,
and of which participant, is the peer's to say (log 91). -/
def State.peerGang (s : State) (part : Nat) : State :=
  let w := (Config.freeWord s.free).toNat
  let x := (Config.freeWord (s.free + 1)).toNat
  let s : State := { s with free := s.free + 2 }
  match s.gangs[w / 4 % max 1 s.gangs.length]? with
  | none => s
  | some g =>
    let far := g.readys.filter (fun i => (s.nodeAt i).isNone)
    let size := ((s.gangNodes g.vf g.gang).map Node.gsize).headD 0
    let told (typ : Nat) : State := s.setStk g.coord { s.getStk g.coord with
      inbox := (s.getStk g.coord).inbox ++ [BitVec.ofNat 64 (2 ^ 63 + typ * 2 ^ 60 + g.vf * 2 ^ 54 + g.gang * 2 ^ 30 + x % 16 * 2 ^ 8 + part)] }
    if w % 4 = 0 then
      if size ≤ g.readys.length then told 1
      else
        let (id, t) := (told 1).fresh
        t.joinGang g id size
    else match far[x / 16 % max 1 far.length]? with
      | none => s
      | some i =>
        if !g.started then s
        else if w % 4 = 1 then (if nmem i g.acks ∨ !s.ackInTime g then told 3 else (told 3).ackGang g i)
        else if w % 4 = 2 then (told 4).sendAbort g
        else if nmem i g.acks ∧ g.acks.length = g.readys.length then ((told 7).llError g.coord 1 g.vf (x % 2 ^ 32)).sendAbort g
        else s

/-- GLOWLINE_FLIT (R117, R450, R458, R472): a flit that fails its CRC is replayed and logged; the eighth failed replay takes the port down. A later flit is
dropped until the failed one arrives again. One in its order may carry a request, or a gang message, or one that asks nothing (log 91). -/
def execGlowlineFlit (port : Nat) (crcOk : Bool) (seq : Nat) (s : State) : Out :=
  let p := port % 64
  let g := s.getGlow p
  if g.state ≠ 2 ∨ s.fenced (p / 4) then .next s
  else if crcOk then
    if seq % 65536 ≠ g.expect then .next s
    else
      let what := (Config.freeWord s.free).toNat
      let s := s.setGlow p { g with fails := 0, expect := (g.expect + 1) % 65536 }
      let s : State := { s with free := s.free + 1 }
      .next (if bitOf what 0 then s.peerRequest p else if bitOf what 1 && !s.gangAway then s.peerGang g.peer.toNat else s)
  else
    if 8 ≤ g.fails then .next (s.setGlow p { g with state := 0, fails := 0 })
    else .next ((s.setGlow p { g with replay := satAdd g.replay 1, fails := g.fails + 1 }).logEvent (p / 4) 4 p 0 0)

/-- TIMEBASE_FLIT (R6, R474): the receiver's tick counter is corrected; the master's is not. -/
def execTimebaseFlit (port : Nat) (delta : BitVec 64) (s : State) : Out :=
  if (s.getGlow (port % 64)).state ≠ 2 ∨ s.fenced (port % 64 / 4) ∨ (s.getStk 0).glTbm then .next s
  else .next { s with tick := s.tick + delta }

/-! ## Reset and recovery (R475, R476) -/

/-- The part as a reset leaves it: what non-volatile storage holds stays; memory holds what it held (log 40), and every key is new. -/
def State.cold (s : State) : State :=
  { harts := lampHarts, mem := s.mem, psn := s.psn, ecc := s.ecc, stale := s.stale, encKey := s.encKey, moves := s.moves, free := s.free, nextId := s.nextId, reads := s.reads,
    vfs := (upto 64).foldl (fun m f => sset ({} : Vf) m f { key := (s.getVf f).key + 1 }) [],
    plat := { fuse := s.plat.fuse, slotVersion := s.plat.slotVersion, slotImage := s.plat.slotImage } }

/-- The check of a firmware image (R475): 0 OK, 1 signature, 2 version. -/
def State.imageCheck (s : State) (img : Nat) : Nat :=
  if !Config.imageGood img then 1 else if Config.imageVersion img < s.plat.fuse then 2 else 0

/-- The firmware slots in the order in which the ROM tries them. -/
def Platform.slotOrder (p : Platform) : List Nat := if sget 0 p.slotVersion 0 < sget 0 p.slotVersion 1 then [1, 0] else [0, 1]

/-- The ROM's verification after a reset (R475): the first slot that passes is run; with none, the part enters recovery. -/
def State.romVerify (s : State) : State :=
  match s.plat.slotOrder.find? (fun i => decide (s.imageCheck (sget 0 s.plat.slotImage i) = 0)) with
  | some i => { s with plat := { s.plat with boot := 1, runningSlot := some i } }
  | none => { s with plat := { s.plat with boot := 1, recovery := true } }

/-- PART_RESET (R475). The reset that `State.reset` stands for has been made already. -/
def execPartReset (s : State) : Out := .next (if s.plat.boot = 0 then s.romVerify else s.cold.romVerify)

/-- A firmware image as one number. -/
def imageCode (m : Sparse Byte) (size : Nat) : Nat := m.foldl (fun a e => (a * 2 ^ 28 + e.1) * 256 + e.2.toNat) size

/-- A recovery command is taken: in recovery, with the state 0 (R476). -/
def State.takesCommand (s : State) : Bool := s.plat.recovery && decide (s.plat.recState = 0)

/-- RECOVERY_LOAD (R476): the staging window goes into the image at the argument's offset; images are at most 256 MiB. -/
def execRecoveryLoad (s : State) : Out :=
  if !s.takesCommand then .next s
  else
    let o := s.plat.recArg.toNat * 32768
    if 2 ^ 28 < o + 32768 then .next { s with plat := { s.plat with recResult := 3 } }
    else
      let img := s.plat.image.filter (fun e => decide (e.1 < o) || decide (o + 32768 ≤ e.1))
      .next { s with plat := { s.plat with
        image := s.plat.staging.foldl (fun m e => if e.1 < 32768 then memSet m (o + e.1) e.2 else m) img
        imageSize := max s.plat.imageSize (o + 32768), recResult := 0 } }

/-- RECOVERY_COMMIT (R476): the staged image is verified (state 1), then written to the slot of argument bit 0 (state 2), and the command is done
(state 3). An image that fails is not written. -/
def execRecoveryCommit (s : State) : Out :=
  let p := s.plat
  if !p.recovery then .next s
  else
    let go (q : Platform) : Out := .next ({ s with plat := q }.postOnce .recoveryCommit)
    if p.recState = 0 then go { p with recState := 1, recDest := p.recArg.getLsbD 0 }
    else if p.recState = 1 then
      (match s.imageCheck (imageCode p.image p.imageSize) with
       | 0 => go { p with recState := 2 }
       | c => .next { s with plat := { p with recState := 0, recResult := BitVec.ofNat 4 c } })
    else if p.recState = 2 then
      let i := b2n p.recDest
      let img := imageCode p.image p.imageSize
      go { p with recState := 3, recResult := 0, recSlot := p.recDest, slotImage := sset 0 p.slotImage i img, slotVersion := sset 0 p.slotVersion i (Config.imageVersion img) }
    else .next { s with plat := { p with recState := 0 } }

/-- RECOVERY_RESET (R476). -/
def execRecoveryReset (s : State) : Out := .next (if s.takesCommand then s.cold.romVerify else s)

/-! ## Attestation (R477); the codes and the order of requests are SPDM's (log 19) -/

/-- A response of the given code to a request over the trained port 0, with its contents; out of its place a request is answered with an error. -/
def State.spdmAnswer (s : State) (need next_ code arg : Nat) : Out :=
  if !s.port0.up then .next s
  else
    let n := s.plat.spdm.length
    if s.plat.spdmState < need then .next { s with plat := { s.plat with spdm := s.plat.spdm ++ [(0x7F, 0x04)] } }
    else .next { s with plat := { s.plat with spdm := s.plat.spdm ++ [(code, Config.spdmReply (code + 256 * arg) n)], spdmState := next_ } }

/-- GET_VERSION (R477): negotiation begins anew. -/
def execGetVersion (s : State) : Out := s.spdmAnswer 0 1 0x04 0
/-- GET_CAPABILITIES (R477). -/
def execGetCapabilities (s : State) : Out := s.spdmAnswer 1 2 0x61 0
/-- NEGOTIATE_ALGORITHMS (R477). -/
def execNegotiateAlgorithms (s : State) : Out := s.spdmAnswer 2 3 0x63 0
/-- GET_DIGESTS (R477). -/
def execGetDigests (s : State) : Out := s.spdmAnswer 3 (max 3 s.plat.spdmState) 0x01 0
/-- GET_CERTIFICATE (R477). -/
def execGetCertificate (s : State) : Out := s.spdmAnswer 3 (max 3 s.plat.spdmState) 0x02 0
/-- CHALLENGE (R477). -/
def execChallenge (s : State) : Out := s.spdmAnswer 3 (max 3 s.plat.spdmState) 0x03 0

/-- What a measurement is taken of (R477): the ROM, the firmware image (none in recovery), the handlers in stack 0's slots. -/
def State.measured (s : State) (idx : Nat) : Nat :=
  if idx = 2 then (match s.plat.runningSlot with
    | some i => if s.plat.recovery then 0 else 1 + sget 0 s.plat.slotImage i
    | none => 0)
  else if idx = 3 then
    (upto 16).foldl (fun a d => (s.getDie d).slots.foldl (fun a e => e.2.foldl (fun a w => a * 65536 + w.toNat) (a * 16 + e.1)) a) 1
  else 0

/-- GET_MEASUREMENTS (R477): of one of the three indices, or of all. -/
def execGetMeasurements (idx : Nat) (s : State) : Out :=
  if idx = 0 ∨ idx = 1 ∨ idx = 2 ∨ idx = 3 ∨ idx = 255 then
    s.spdmAnswer 3 (max 3 s.plat.spdmState) 0x60 (idx + 256 * (s.measured 2 + s.measured 3 * 2 ^ 64 + s.measured idx))
  else s.spdmAnswer 100 0 0x7F 0

/-- KEY_EXCHANGE (R477). -/
def execKeyExchange (s : State) : Out := s.spdmAnswer 3 4 0x64 0
/-- FINISH (R477): it follows a KEY_EXCHANGE. -/
def execFinish (s : State) : Out := s.spdmAnswer 4 5 0x65 0

/-! ## Power (R110, R478) -/

/-- INPUT_VOLTAGE_FAULT (R478): every engine is held idle. -/
def execInputVoltageFault (s : State) : Out := .next { s with plat := { s.plat with vfault := true } }

/-- INPUT_VOLTAGE_RESTORED (R478). -/
def execInputVoltageRestored (s : State) : Out := .next { s with plat := { s.plat with vfault := false } }

/-- POWER_THROTTLE (R478): the power of the last 10 µs; above the cap the bank dividers are raised and issue gaps inserted, by steps of the firmware's
choosing (log 17). -/
def execPowerThrottle (s : State) : Out :=
  let m := Config.power s.free
  let b := Config.power (s.free + 1)
  let thr := decide (s.plat.capMod.toNat < m.toNat)
  let s : State := { s with free := s.free + 2, plat := { s.plat with pmod := m, pbank := b, thr := thr }, gaps := if thr then s.gaps + 1 else 0 }
  .next (if thr then (upto 256).foldl (fun t d =>
    let e := t.getDie d
    t.setDie d { e with div := if e.div.toNat < (Config.divider d s.free).toNat then Config.divider d s.free else e.div }) s else s)

end Sys2Proof.Machine
end

