-- ==== Sys2Proof/Machine/ScalarAmo.lean ====
section
/-! DEFINITION. Atomic memory operations (R69, R256, R280 to R283). -/
namespace Sys2Proof.Machine

/-- The scope of an AMO's field (R256): cluster, die, device, system. -/
def amoScope (p : BitVec 2) : Nat := p.toNat + 2

/-- The register value of the old contents (R281). -/
def amoResult (op n old : Nat) : W64 :=
  if op = 0xA then BitVec.ofNat 64 old else BitVec.ofInt 64 (intVal (8 * n) true old)

/-- The source registers of an AMO: AMOCAS also reads `rd` (R256). -/
def amoRegs (op : Nat) (rd rs1 rs2 : Reg) : List Reg := if op = 9 then [rs1, rs2, rd] else [rs1, rs2]

/-- An AMO of known operands (R281): release, the atomic step, acquire, the old value, and AMOFADD's flags (R282). -/
def State.amoRun (s : State) (op n : Nat) (rd : Reg) (va v c : W64) (scope : Nat) (rel acq : Bool) : Out :=
  match s.releaseFor rel scope with
  | .out o => o
  | .skip s => s.stopAhead 2
  | .go s _ =>
    match s.rmw va n scope (fun old => let (r, w, _) := amoApply op n old v.toNat c.toNat; (r, w)) with
    | .out o => o
    | .skip s => s.stopAhead 2
    | .go s old =>
      (s.acquireFor acq scope).doneFlags rd (amoResult op n old) (amoApply op n old v.toNat c.toNat).2.2

/-- A non-symbolic AMO (R280, R281): it stops run-ahead (R40). -/
def State.amo (s : State) (op n : Nat) (sc : Sc) (rd rs1 rs2 : Reg) (p : BitVec 2) (r q : BitVec 1) : Out :=
  match s.ready sc true (amoRegs op rd rs1 rs2) with
  | .out o => o
  | .skip s => s.stopAhead 2
  | .go s _ => s.amoRun op n rd (s.hart.kx rs1) (s.hart.kx rs2) (s.hart.kx rd) (amoScope p) (r = 1) (q = 1)

/-- A symbolic AMO (R283): with `rd` `x0` it is its non-symbolic form. -/
def State.amoSym (s : State) (op : Nat) (sc : Sc) (rd rs1 rs2 : Reg) (p : BitVec 2) (r q : BitVec 1) : Out :=
  match s.ready sc true (amoRegs op rd rs1 rs2) with
  | .out o => o
  | .skip s => s.stopAhead 2
  | .go s _ =>
    let va := s.hart.kx rs1
    let v := s.hart.kx rs2
    let c := s.hart.kx rd
    if rd = 0 then s.amoRun op 8 rd va v c (amoScope p) (r = 1) (q = 1)
    else match s.releaseFor (r = 1) (amoScope p) with
      | .out o => o
      | .skip s => s.stopAhead 2
      | .go s _ =>
        if s.symHold va 8 .both then s.stall
        else s.symIssue rd { va := va, width := 8, sext := false, acq := q = 1, rel := r = 1, scope := amoScope p, amo := op + 1,
                             opnd := v, cmp := if op = 9 then c else 0 } (.amo op v (if op = 9 then c else 0)) .both

/-- AMOADD_32 (R281). -/
def execAmoadd32 (sc : Sc) (rd rs1 rs2 : Reg) (p : BitVec 2) (r q : BitVec 1) (s : State) : Out := s.amo 0 4 sc rd rs1 rs2 p r q

/-- AMOADD_64 (R281). -/
def execAmoadd64 (sc : Sc) (rd rs1 rs2 : Reg) (p : BitVec 2) (r q : BitVec 1) (s : State) : Out := s.amo 0 8 sc rd rs1 rs2 p r q

/-- AMOADD_SY (R283). -/
def execAmoaddSy (sc : Sc) (rd rs1 rs2 : Reg) (p : BitVec 2) (r q : BitVec 1) (s : State) : Out := s.amoSym 0 sc rd rs1 rs2 p r q

/-- AMOAND_32 (R281). -/
def execAmoand32 (sc : Sc) (rd rs1 rs2 : Reg) (p : BitVec 2) (r q : BitVec 1) (s : State) : Out := s.amo 1 4 sc rd rs1 rs2 p r q

/-- AMOAND_64 (R281). -/
def execAmoand64 (sc : Sc) (rd rs1 rs2 : Reg) (p : BitVec 2) (r q : BitVec 1) (s : State) : Out := s.amo 1 8 sc rd rs1 rs2 p r q

/-- AMOAND_SY (R283). -/
def execAmoandSy (sc : Sc) (rd rs1 rs2 : Reg) (p : BitVec 2) (r q : BitVec 1) (s : State) : Out := s.amoSym 1 sc rd rs1 rs2 p r q

/-- AMOOR_32 (R281). -/
def execAmoor32 (sc : Sc) (rd rs1 rs2 : Reg) (p : BitVec 2) (r q : BitVec 1) (s : State) : Out := s.amo 2 4 sc rd rs1 rs2 p r q

/-- AMOOR_64 (R281). -/
def execAmoor64 (sc : Sc) (rd rs1 rs2 : Reg) (p : BitVec 2) (r q : BitVec 1) (s : State) : Out := s.amo 2 8 sc rd rs1 rs2 p r q

/-- AMOOR_SY (R283). -/
def execAmoorSy (sc : Sc) (rd rs1 rs2 : Reg) (p : BitVec 2) (r q : BitVec 1) (s : State) : Out := s.amoSym 2 sc rd rs1 rs2 p r q

/-- AMOXOR_32 (R281). -/
def execAmoxor32 (sc : Sc) (rd rs1 rs2 : Reg) (p : BitVec 2) (r q : BitVec 1) (s : State) : Out := s.amo 3 4 sc rd rs1 rs2 p r q

/-- AMOXOR_64 (R281). -/
def execAmoxor64 (sc : Sc) (rd rs1 rs2 : Reg) (p : BitVec 2) (r q : BitVec 1) (s : State) : Out := s.amo 3 8 sc rd rs1 rs2 p r q

/-- AMOXOR_SY (R283). -/
def execAmoxorSy (sc : Sc) (rd rs1 rs2 : Reg) (p : BitVec 2) (r q : BitVec 1) (s : State) : Out := s.amoSym 3 sc rd rs1 rs2 p r q

/-- AMOMIN_32 (R281). -/
def execAmomin32 (sc : Sc) (rd rs1 rs2 : Reg) (p : BitVec 2) (r q : BitVec 1) (s : State) : Out := s.amo 4 4 sc rd rs1 rs2 p r q

/-- AMOMIN_64 (R281). -/
def execAmomin64 (sc : Sc) (rd rs1 rs2 : Reg) (p : BitVec 2) (r q : BitVec 1) (s : State) : Out := s.amo 4 8 sc rd rs1 rs2 p r q

/-- AMOMIN_SY (R283). -/
def execAmominSy (sc : Sc) (rd rs1 rs2 : Reg) (p : BitVec 2) (r q : BitVec 1) (s : State) : Out := s.amoSym 4 sc rd rs1 rs2 p r q

/-- AMOMAX_32 (R281). -/
def execAmomax32 (sc : Sc) (rd rs1 rs2 : Reg) (p : BitVec 2) (r q : BitVec 1) (s : State) : Out := s.amo 5 4 sc rd rs1 rs2 p r q

/-- AMOMAX_64 (R281). -/
def execAmomax64 (sc : Sc) (rd rs1 rs2 : Reg) (p : BitVec 2) (r q : BitVec 1) (s : State) : Out := s.amo 5 8 sc rd rs1 rs2 p r q

/-- AMOMAX_SY (R283). -/
def execAmomaxSy (sc : Sc) (rd rs1 rs2 : Reg) (p : BitVec 2) (r q : BitVec 1) (s : State) : Out := s.amoSym 5 sc rd rs1 rs2 p r q

/-- AMOMINN_32 (R281). -/
def execAmominn32 (sc : Sc) (rd rs1 rs2 : Reg) (p : BitVec 2) (r q : BitVec 1) (s : State) : Out := s.amo 6 4 sc rd rs1 rs2 p r q

/-- AMOMINN_64 (R281). -/
def execAmominn64 (sc : Sc) (rd rs1 rs2 : Reg) (p : BitVec 2) (r q : BitVec 1) (s : State) : Out := s.amo 6 8 sc rd rs1 rs2 p r q

/-- AMOMINN_SY (R283). -/
def execAmominnSy (sc : Sc) (rd rs1 rs2 : Reg) (p : BitVec 2) (r q : BitVec 1) (s : State) : Out := s.amoSym 6 sc rd rs1 rs2 p r q

/-- AMOMAXN_32 (R281). -/
def execAmomaxn32 (sc : Sc) (rd rs1 rs2 : Reg) (p : BitVec 2) (r q : BitVec 1) (s : State) : Out := s.amo 7 4 sc rd rs1 rs2 p r q

/-- AMOMAXN_64 (R281). -/
def execAmomaxn64 (sc : Sc) (rd rs1 rs2 : Reg) (p : BitVec 2) (r q : BitVec 1) (s : State) : Out := s.amo 7 8 sc rd rs1 rs2 p r q

/-- AMOMAXN_SY (R283). -/
def execAmomaxnSy (sc : Sc) (rd rs1 rs2 : Reg) (p : BitVec 2) (r q : BitVec 1) (s : State) : Out := s.amoSym 7 sc rd rs1 rs2 p r q

/-- AMOSWAP_32 (R281). -/
def execAmoswap32 (sc : Sc) (rd rs1 rs2 : Reg) (p : BitVec 2) (r q : BitVec 1) (s : State) : Out := s.amo 8 4 sc rd rs1 rs2 p r q

/-- AMOSWAP_64 (R281). -/
def execAmoswap64 (sc : Sc) (rd rs1 rs2 : Reg) (p : BitVec 2) (r q : BitVec 1) (s : State) : Out := s.amo 8 8 sc rd rs1 rs2 p r q

/-- AMOSWAP_SY (R283). -/
def execAmoswapSy (sc : Sc) (rd rs1 rs2 : Reg) (p : BitVec 2) (r q : BitVec 1) (s : State) : Out := s.amoSym 8 sc rd rs1 rs2 p r q

/-- AMOCAS_32 (R281). -/
def execAmocas32 (sc : Sc) (rd rs1 rs2 : Reg) (p : BitVec 2) (r q : BitVec 1) (s : State) : Out := s.amo 9 4 sc rd rs1 rs2 p r q

/-- AMOCAS_64 (R281). -/
def execAmocas64 (sc : Sc) (rd rs1 rs2 : Reg) (p : BitVec 2) (r q : BitVec 1) (s : State) : Out := s.amo 9 8 sc rd rs1 rs2 p r q

/-- AMOCAS_SY (R283). -/
def execAmocasSy (sc : Sc) (rd rs1 rs2 : Reg) (p : BitVec 2) (r q : BitVec 1) (s : State) : Out := s.amoSym 9 sc rd rs1 rs2 p r q

/-- AMOFADD (R282): FP32, rounded RNE whatever `frm` holds. -/
def execAmofadd (sc : Sc) (rd rs1 rs2 : Reg) (p : BitVec 2) (r q : BitVec 1) (s : State) : Out := s.amo 0xA 4 sc rd rs1 rs2 p r q

end Sys2Proof.Machine
end

