-- ==== Sys2Proof/Machine/ScalarFp.lean ====
section
/-! DEFINITION. Scalar floating point (R254, R285 to R290). -/
namespace Sys2Proof.Machine

/-- The format of a scalar row (R255). -/
def scalarFmt (f : BitVec 2) : Fmt := (fmtOf f.toNat).getD fp32

/-- The effective rounding code of a row with a static field (R254): `frm` where the field is 111. -/
def Hart.mode (h : Hart) (m : BitVec 3) : BitVec 3 := if m = 7 then h.frm else m

/-- A rounding code an instruction may round under; 6 and 7 are illegal (R210). Code 5, EFB, acts as RNE here. -/
def modeOk (m : BitVec 3) : Bool := decide (m.toNat ≤ 5)

/-- An FP operand: the low bits of the register (R200). -/
def Fmt.arg (f : Fmt) (v : W64) : Nat := v.toNat % 2 ^ f.w

/-- A result of known operands with its flags (R289). -/
def State.calcFp (s : State) (sc : Sc) (rd : Reg) (rs : List Reg) (f : Hart → W64 × Nat) : Out :=
  match s.readyCalc sc rs with
  | .go s _ => s.doneFlags rd (f s.hart).1 (f s.hart).2 (s.hart.depOf rs)
  | .skip s => s.doneX rd .unknown
  | .out o => o

/-- A code with flags, zero-extended (R200). -/
def fpResult (r : Nat × Nat) : W64 × Nat := (BitVec.ofNat 64 r.1, r.2)

/-- An illegal `frm` (R210), else the row. -/
def State.rounded (s : State) (m : BitVec 3) (k : Out) : Out := if modeOk (s.hart.mode m) then k else s.illegal

/-- The step of a two-operand row with one symbolic operand (R290), if there is exactly one. -/
def chain2 (op : Nat) (f : BitVec 2) (rm : BitVec 3) (x y : XVal) : Option XVal :=
  match x, y with
  | .known _, .known _ => none
  | x, .known k => chainOn x { op := op, fmt := f.toNat, rm := rm, pos := 0, k1 := k, k2 := 0 }
  | .known k, y => chainOn y { op := op, fmt := f.toNat, rm := rm, pos := 1, k1 := k, k2 := 0 }
  | _, _ => none

/-- The step of an FMA with one symbolic operand. -/
def chain3 (f : BitVec 2) (rm : BitVec 3) (x y z : XVal) : Option XVal :=
  match x, y, z with
  | .known _, .known _, .known _ => none
  | x, .known k, .known l => chainOn x { op := 4, fmt := f.toNat, rm := rm, pos := 0, k1 := k, k2 := l }
  | .known k, y, .known l => chainOn y { op := 4, fmt := f.toNat, rm := rm, pos := 1, k1 := k, k2 := l }
  | .known k, .known l, z => chainOn z { op := 4, fmt := f.toNat, rm := rm, pos := 2, k1 := k, k2 := l }
  | _, _, _ => none

/-- A row that composes (R188, R290): a chain where it can, else the operation on known operands. -/
def State.calcChain (s : State) (sc : Sc) (rd : Reg) (rs : List Reg) (chain : Hart → Option XVal) (f : Hart → W64 × Nat) : Out :=
  match s.preface sc false with
  | some o => o
  | none => match s.badReg rs with
    | some r => s.parity r
    | none => match chain s.hart with
      | some v => s.doneX rd v (s.hart.depOf rs)
      | none => s.calcFp sc rd rs f

/-- FADD, FSUB and FMUL (R286). -/
def State.fp2 (s : State) (op : Nat) (sc : Sc) (rd rs1 rs2 : Reg) (f : BitVec 2) (m : BitVec 3) : Out :=
  s.rounded m (s.calcChain sc rd [rs1, rs2] (fun h => chain2 op f (h.mode m) (h.rx rs1) (h.rx rs2))
    (fun h => fpResult (fpStep (scalarFmt f) op (h.mode m).toNat (h.kx rs1).toNat (h.kx rs2).toNat 0)))

/-- FADD (R286). -/
def execFadd (sc : Sc) (rd rs1 rs2 : Reg) (f : BitVec 2) (m : BitVec 3) (s : State) : Out := s.fp2 1 sc rd rs1 rs2 f m

/-- FSUB (R286). -/
def execFsub (sc : Sc) (rd rs1 rs2 : Reg) (f : BitVec 2) (m : BitVec 3) (s : State) : Out := s.fp2 2 sc rd rs1 rs2 f m

/-- FMUL (R286). -/
def execFmul (sc : Sc) (rd rs1 rs2 : Reg) (f : BitVec 2) (m : BitVec 3) (s : State) : Out := s.fp2 3 sc rd rs1 rs2 f m

/-- FDIV (R286): a symbolic operand blocks (R290). -/
def execFdiv (sc : Sc) (rd rs1 rs2 : Reg) (f : BitVec 2) (m : BitVec 3) (s : State) : Out :=
  s.rounded m (s.calcFp sc rd [rs1, rs2] (fun h =>
    fpResult ((scalarFmt f).div (h.mode m).toNat ((scalarFmt f).arg (h.kx rs1)) ((scalarFmt f).arg (h.kx rs2)))))

/-- FMA (R286): `x[rs1]` × `x[rs2]` + `x[e]`, rounded once under `frm`. -/
def execFma (sc : Sc) (rd rs1 rs2 : Reg) (f : BitVec 2) (e : Reg) (s : State) : Out :=
  s.rounded 7 (s.calcChain sc rd [rs1, rs2, e] (fun h => chain3 f h.frm (h.rx rs1) (h.rx rs2) (h.rx e))
    (fun h => fpResult (fpStep (scalarFmt f) 4 h.frm.toNat (h.kx rs1).toNat (h.kx rs2).toNat (h.kx e).toNat)))

/-- FSQRT (R287). -/
def execFsqrt (sc : Sc) (rd rs1 : Reg) (f : BitVec 2) (m : BitVec 3) (s : State) : Out :=
  s.rounded m (s.calcFp sc rd [rs1] (fun h => fpResult ((scalarFmt f).sqrt (h.mode m).toNat ((scalarFmt f).arg (h.kx rs1)))))

/-- The register value of a conversion's result (R287): integers extended as their format states. -/
def cvtResult (dst : Nat) (r : Nat × Nat) : W64 × Nat :=
  match intOf dst with
  | some (w, true) => (BitVec.ofInt 64 (intVal w true r.1), r.2)
  | _ => fpResult r

/-- FCVT to `fmt` (R287): `k` is the source format. -/
def execFcvtTo (sc : Sc) (rd rs1 : Reg) (f : BitVec 2) (m : BitVec 3) (k : BitVec 5) (s : State) : Out :=
  s.rounded m (s.calcFp sc rd [rs1] (fun h =>
    cvtResult f.toNat (convert k.toNat f.toNat (h.mode m).toNat false (h.kx rs1).toNat)))

/-- FCVT from `fmt` (R287): `k` is the destination format. -/
def execFcvtFrom (sc : Sc) (rd rs1 : Reg) (f : BitVec 2) (m : BitVec 3) (k : BitVec 5) (s : State) : Out :=
  s.rounded m (s.calcFp sc rd [rs1] (fun h =>
    cvtResult k.toNat (convert f.toNat k.toNat (h.mode m).toNat false (h.kx rs1).toNat)))

/-- FMIN (R288). -/
def execFmin (sc : Sc) (rd rs1 rs2 : Reg) (f : BitVec 2) (s : State) : Out :=
  s.calcFp sc rd [rs1, rs2] (fun h => fpResult ((scalarFmt f).minmax false ((scalarFmt f).arg (h.kx rs1)) ((scalarFmt f).arg (h.kx rs2))))

/-- FMAX (R288). -/
def execFmax (sc : Sc) (rd rs1 rs2 : Reg) (f : BitVec 2) (s : State) : Out :=
  s.calcFp sc rd [rs1, rs2] (fun h => fpResult ((scalarFmt f).minmax true ((scalarFmt f).arg (h.kx rs1)) ((scalarFmt f).arg (h.kx rs2))))

/-- A comparison's 0 or 1, with its flags (R288). -/
def cmpResult (r : Bool × Nat) : W64 × Nat := (if r.1 then 1 else 0, r.2)

/-- FCMP.eq (R288). -/
def execFcmpEq (sc : Sc) (rd rs1 rs2 : Reg) (f : BitVec 2) (s : State) : Out :=
  s.calcFp sc rd [rs1, rs2] (fun h => cmpResult ((scalarFmt f).cmp 0 ((scalarFmt f).arg (h.kx rs1)) ((scalarFmt f).arg (h.kx rs2))))

/-- FCMP.lt (R288). -/
def execFcmpLt (sc : Sc) (rd rs1 rs2 : Reg) (f : BitVec 2) (s : State) : Out :=
  s.calcFp sc rd [rs1, rs2] (fun h => cmpResult ((scalarFmt f).cmp 1 ((scalarFmt f).arg (h.kx rs1)) ((scalarFmt f).arg (h.kx rs2))))

/-- FCMP.le (R288). -/
def execFcmpLe (sc : Sc) (rd rs1 rs2 : Reg) (f : BitVec 2) (s : State) : Out :=
  s.calcFp sc rd [rs1, rs2] (fun h => cmpResult ((scalarFmt f).cmp 2 ((scalarFmt f).arg (h.kx rs1)) ((scalarFmt f).arg (h.kx rs2))))

/-- FSGN (R288): no flags, NaNs kept. -/
def execFsgn (sc : Sc) (rd rs1 rs2 : Reg) (f : BitVec 2) (s : State) : Out :=
  s.calcFp sc rd [rs1, rs2] (fun h => fpResult ((scalarFmt f).sgn 0 ((scalarFmt f).arg (h.kx rs1)) ((scalarFmt f).arg (h.kx rs2)), 0))

/-- FSGN.n (R288). -/
def execFsgnN (sc : Sc) (rd rs1 rs2 : Reg) (f : BitVec 2) (s : State) : Out :=
  s.calcFp sc rd [rs1, rs2] (fun h => fpResult ((scalarFmt f).sgn 1 ((scalarFmt f).arg (h.kx rs1)) ((scalarFmt f).arg (h.kx rs2)), 0))

/-- FSGN.x (R288). -/
def execFsgnX (sc : Sc) (rd rs1 rs2 : Reg) (f : BitVec 2) (s : State) : Out :=
  s.calcFp sc rd [rs1, rs2] (fun h => fpResult ((scalarFmt f).sgn 2 ((scalarFmt f).arg (h.kx rs1)) ((scalarFmt f).arg (h.kx rs2)), 0))

/-- FCLASS (R288). -/
def execFclass (sc : Sc) (rd rs1 : Reg) (f : BitVec 2) (s : State) : Out :=
  s.calcFp sc rd [rs1] (fun h => fpResult ((scalarFmt f).cls ((scalarFmt f).arg (h.kx rs1)), 0))

end Sys2Proof.Machine
end

