-- ==== Sys2Proof/Machine/ScalarInt.lean ====
section
/-! DEFINITION. Integer register operations (R268 to R272), branches and jumps (R273 to R275). -/
namespace Sys2Proof.Machine

/-! ## Operations -/

/-- 1 for true, as a register value. -/
def w64 (b : Bool) : W64 := if b then 1 else 0

/-- Bits 127:64 of the signed product (R268). -/
def mulHigh (a b : W64) : W64 := BitVec.ofInt 64 (a.toInt * b.toInt / 2 ^ 64)
/-- Bits 127:64 of the unsigned product (R268). -/
def mulHighU (a b : W64) : W64 := BitVec.ofNat 64 (a.toNat * b.toNat / 2 ^ 64)

/-- The signed quotient, truncated toward zero, with its two borderline results (R269). -/
def divS (a b : W64) : W64 := if b = 0 then -1 else BitVec.ofInt 64 (a.toInt.tdiv b.toInt)
def divU (a b : W64) : W64 := if b = 0 then -1 else BitVec.ofNat 64 (a.toNat / b.toNat)
def remS (a b : W64) : W64 := if b = 0 then a else BitVec.ofInt 64 (a.toInt.tmod b.toInt)
def remU (a b : W64) : W64 := if b = 0 then a else BitVec.ofNat 64 (a.toNat % b.toNat)

/-- A shift amount, `b[5:0]` (R268). -/
def shamt (b : W64) : Nat := b.toNat % 64

def minS (a b : W64) : W64 := if a.toInt ≤ b.toInt then a else b
def maxS (a b : W64) : W64 := if a.toInt ≤ b.toInt then b else a
def minU (a b : W64) : W64 := if a.toNat ≤ b.toNat then a else b
def maxU (a b : W64) : W64 := if a.toNat ≤ b.toNat then b else a

/-- Leading zero bits, 64 for 0 (R268). -/
def clz64 (a : W64) : Nat := if a = 0 then 64 else 63 - Nat.log2 a.toNat

/-- Trailing zero bits among the lowest `n`. -/
def ctzFrom : Nat → Nat → Nat
  | 0, _ => 0
  | n + 1, v => if v % 2 = 1 then 0 else 1 + ctzFrom n (v / 2)

/-- The width of a SEXT or ZEXT code (R268). -/
def extWidth (c : BitVec 5) : Nat := if c = 0 then 8 else if c = 1 then 16 else 32

/-- The low `w` bits, sign-extended. -/
def sextW (w : Nat) (a : W64) : W64 := BitVec.ofInt 64 (intVal w true a.toNat)
/-- The low `w` bits, zero-extended. -/
def zextW (w : Nat) (a : W64) : W64 := BitVec.ofNat 64 (a.toNat % 2 ^ w)

/-- An I immediate (R249). -/
def immI (i : BitVec 12) : W64 := i.signExtend 64
/-- A U immediate (R249). -/
def immU (i : BitVec 17) : W64 := i.signExtend 64 <<< 12

/-! ## Register forms (R268, R269) -/

/-- ADD (R268): a + b modulo 2^64; composes (R187). -/
def execAdd (sc : Sc) (rd rs1 rs2 : Reg) (s : State) : Out :=
  s.calcSym sc rd [rs1, rs2] (fun h => symAdd (h.rx rs1) (h.rx rs2))

/-- SUB (R268): a − b; composes (R187). -/
def execSub (sc : Sc) (rd rs1 rs2 : Reg) (s : State) : Out :=
  s.calcSym sc rd [rs1, rs2] (fun h => symSub (h.rx rs1) (h.rx rs2))

/-- MUL (R268): bits 63:0 of a × b; composes (R187). -/
def execMul (sc : Sc) (rd rs1 rs2 : Reg) (s : State) : Out :=
  s.calcSym sc rd [rs1, rs2] (fun h => symMul (h.rx rs1) (h.rx rs2))

/-- MULH (R268). -/
def execMulh (sc : Sc) (rd rs1 rs2 : Reg) (s : State) : Out :=
  s.calc sc rd [rs1, rs2] (fun h => mulHigh (h.kx rs1) (h.kx rs2))

/-- MULHN (R268). -/
def execMulhn (sc : Sc) (rd rs1 rs2 : Reg) (s : State) : Out :=
  s.calc sc rd [rs1, rs2] (fun h => mulHighU (h.kx rs1) (h.kx rs2))

/-- DIV (R269). -/
def execDiv (sc : Sc) (rd rs1 rs2 : Reg) (s : State) : Out :=
  s.calc sc rd [rs1, rs2] (fun h => divS (h.kx rs1) (h.kx rs2))

/-- DIVN (R269). -/
def execDivn (sc : Sc) (rd rs1 rs2 : Reg) (s : State) : Out :=
  s.calc sc rd [rs1, rs2] (fun h => divU (h.kx rs1) (h.kx rs2))

/-- REM (R269). -/
def execRem (sc : Sc) (rd rs1 rs2 : Reg) (s : State) : Out :=
  s.calc sc rd [rs1, rs2] (fun h => remS (h.kx rs1) (h.kx rs2))

/-- REMN (R269). -/
def execRemn (sc : Sc) (rd rs1 rs2 : Reg) (s : State) : Out :=
  s.calc sc rd [rs1, rs2] (fun h => remU (h.kx rs1) (h.kx rs2))

/-- AND (R268). -/
def execAndR (sc : Sc) (rd rs1 rs2 : Reg) (s : State) : Out :=
  s.calc sc rd [rs1, rs2] (fun h => (h.kx rs1) &&& (h.kx rs2))

/-- OR (R268). -/
def execOrR (sc : Sc) (rd rs1 rs2 : Reg) (s : State) : Out :=
  s.calc sc rd [rs1, rs2] (fun h => (h.kx rs1) ||| (h.kx rs2))

/-- XOR (R268). -/
def execXorR (sc : Sc) (rd rs1 rs2 : Reg) (s : State) : Out :=
  s.calc sc rd [rs1, rs2] (fun h => (h.kx rs1) ^^^ (h.kx rs2))

/-- SLL (R268): composes with a known amount (R187). -/
def execSll (sc : Sc) (rd rs1 rs2 : Reg) (s : State) : Out :=
  s.calcSym sc rd [rs1, rs2] (fun h => symSll (h.rx rs1) (h.rx rs2))

/-- SRL (R268). -/
def execSrl (sc : Sc) (rd rs1 rs2 : Reg) (s : State) : Out :=
  s.calc sc rd [rs1, rs2] (fun h => (h.kx rs1) >>> shamt (h.kx rs2))

/-- SRA (R268). -/
def execSra (sc : Sc) (rd rs1 rs2 : Reg) (s : State) : Out :=
  s.calc sc rd [rs1, rs2] (fun h => (h.kx rs1).sshiftRight (shamt (h.kx rs2)))

/-- SLT (R268). -/
def execSlt (sc : Sc) (rd rs1 rs2 : Reg) (s : State) : Out :=
  s.calc sc rd [rs1, rs2] (fun h => w64 (decide ((h.kx rs1).toInt < (h.kx rs2).toInt)))

/-- SLTN (R268). -/
def execSltn (sc : Sc) (rd rs1 rs2 : Reg) (s : State) : Out :=
  s.calc sc rd [rs1, rs2] (fun h => w64 (decide ((h.kx rs1).toNat < (h.kx rs2).toNat)))

/-- MIN (R268). -/
def execMinR (sc : Sc) (rd rs1 rs2 : Reg) (s : State) : Out :=
  s.calc sc rd [rs1, rs2] (fun h => minS (h.kx rs1) (h.kx rs2))

/-- MAX (R268). -/
def execMaxR (sc : Sc) (rd rs1 rs2 : Reg) (s : State) : Out :=
  s.calc sc rd [rs1, rs2] (fun h => maxS (h.kx rs1) (h.kx rs2))

/-- MINN (R268). -/
def execMinn (sc : Sc) (rd rs1 rs2 : Reg) (s : State) : Out :=
  s.calc sc rd [rs1, rs2] (fun h => minU (h.kx rs1) (h.kx rs2))

/-- MAXN (R268). -/
def execMaxn (sc : Sc) (rd rs1 rs2 : Reg) (s : State) : Out :=
  s.calc sc rd [rs1, rs2] (fun h => maxU (h.kx rs1) (h.kx rs2))

/-- CLZ (R268). -/
def execClz (sc : Sc) (rd rs1 : Reg) (s : State) : Out :=
  s.calc sc rd [rs1] (fun h => BitVec.ofNat 64 (clz64 (h.kx rs1)))

/-- CTZ (R268). -/
def execCtz (sc : Sc) (rd rs1 : Reg) (s : State) : Out :=
  s.calc sc rd [rs1] (fun h => BitVec.ofNat 64 (ctzFrom 64 (h.kx rs1).toNat))

/-- POPC (R268). -/
def execPopc (sc : Sc) (rd rs1 : Reg) (s : State) : Out :=
  s.calc sc rd [rs1] (fun h => BitVec.ofNat 64 (popcount 64 (h.kx rs1).toNat))

/-- SEXT (R268): the width code is in the `rs2` field. -/
def execSext (sc : Sc) (rd rs1 w : Reg) (s : State) : Out :=
  s.calc sc rd [rs1] (fun h => sextW (extWidth w) (h.kx rs1))

/-- ZEXT (R268). -/
def execZext (sc : Sc) (rd rs1 w : Reg) (s : State) : Out :=
  s.calc sc rd [rs1] (fun h => zextW (extWidth w) (h.kx rs1))

/-! ## Immediate forms (R270, R271, R272) -/

/-- ADDI (R270): composes (R187). -/
def execAddi (sc : Sc) (rd rs1 : Reg) (i : BitVec 12) (s : State) : Out :=
  s.calcSym sc rd [rs1] (fun h => symAdd (h.rx rs1) (.known (immI i)))

/-- ANDI (R270). -/
def execAndi (sc : Sc) (rd rs1 : Reg) (i : BitVec 12) (s : State) : Out :=
  s.calc sc rd [rs1] (fun h => h.kx rs1 &&& immI i)

/-- ORI (R270). -/
def execOri (sc : Sc) (rd rs1 : Reg) (i : BitVec 12) (s : State) : Out :=
  s.calc sc rd [rs1] (fun h => h.kx rs1 ||| immI i)

/-- XORI (R270). -/
def execXori (sc : Sc) (rd rs1 : Reg) (i : BitVec 12) (s : State) : Out :=
  s.calc sc rd [rs1] (fun h => h.kx rs1 ^^^ immI i)

/-- SLTI (R270): compares signed. -/
def execSlti (sc : Sc) (rd rs1 : Reg) (i : BitVec 12) (s : State) : Out :=
  s.calc sc rd [rs1] (fun h => w64 (decide ((h.kx rs1).toInt < (immI i).toInt)))

/-- SLLI (R270): composes (R187). -/
def execSlli (sc : Sc) (rd rs1 : Reg) (n : BitVec 6) (s : State) : Out :=
  s.calcSym sc rd [rs1] (fun h => symSll (h.rx rs1) (.known (n.setWidth 64)))

/-- SRLI (R270). -/
def execSrli (sc : Sc) (rd rs1 : Reg) (n : BitVec 6) (s : State) : Out :=
  s.calc sc rd [rs1] (fun h => h.kx rs1 >>> n.toNat)

/-- SRAI (R270). -/
def execSrai (sc : Sc) (rd rs1 : Reg) (n : BitVec 6) (s : State) : Out :=
  s.calc sc rd [rs1] (fun h => (h.kx rs1).sshiftRight n.toNat)

/-- BFX (R271): `l` is len − 1. -/
def execBfx (sc : Sc) (rd rs1 : Reg) (p l : BitVec 6) (s : State) : Out :=
  s.calc sc rd [rs1] (fun h => zextW (l.toNat + 1) (h.kx rs1 >>> p.toNat))

/-- The mask of `len` bits at `pos` (R271). -/
def bfiMask (p l : BitVec 6) : W64 := BitVec.ofNat 64 ((2 ^ (l.toNat + 1) - 1) * 2 ^ p.toNat)

/-- BFI (R271): `rd` is a source. -/
def execBfi (sc : Sc) (rd rs1 : Reg) (p l : BitVec 6) (s : State) : Out :=
  s.calc sc rd [rd, rs1] (fun h => (h.kx rd &&& ~~~bfiMask p l) ||| ((h.kx rs1 <<< p.toNat) &&& bfiMask p l))

/-- LUI (R272). -/
def execLui (sc : Sc) (rd : Reg) (i : BitVec 17) (s : State) : Out :=
  s.calc sc rd [] (fun _ => immU i)

/-- AUIPC (R272). -/
def execAuipc (sc : Sc) (rd : Reg) (i : BitVec 17) (s : State) : Out :=
  s.calc sc rd [] (fun h => h.pc + immU i)

/-! ## Branches and jumps (R273 to R275) -/

/-- JAL (R273). -/
def execJal (sc : Sc) (rd : Reg) (o : BitVec 17) (s : State) : Out :=
  match s.readyCalc sc [] with
  | .go s _ => .next ((s.wx rd (s.hart.pc + 4)).jump (s.hart.pc + (o.signExtend 64 <<< 2)))
  | .skip s => .next s
  | .out o => o

/-- The target of JALR, its bits 1:0 cleared (R274). -/
def jalrTarget (a : W64) (i : BitVec 12) : W64 := (a + (immI i <<< 2)) &&& ~~~3

/-- JALR (R274): a is read before `rd` is written. An unknown target stops run-ahead (R40). -/
def execJalr (sc : Sc) (rd rs1 : Reg) (i : BitVec 12) (s : State) : Out :=
  match s.readyCalc sc [rs1] with
  | .go s _ => .next (((s.control [rs1]).wx rd (s.hart.pc + 4)).jump (jalrTarget (s.hart.kx rs1) i))
  | .skip s => s.stopAhead 3
  | .out o => o

/-- A conditional branch (R275). An unknown outcome stops run-ahead (R40). -/
def State.branch (s : State) (sc : Sc) (rs1 rs2 : Reg) (o : BitVec 11) (p : W64 → W64 → Bool) : Out :=
  match s.readyCalc sc [rs1, rs2] with
  | .go s _ =>
    let t := s.control [rs1, rs2]
    if p (s.hart.kx rs1) (s.hart.kx rs2) then .next (t.jump (s.hart.pc + (o.signExtend 64 <<< 2))) else .next t.retire
  | .skip s => s.stopAhead 3
  | .out o => o

/-- BEQ (R275). -/
def execBeq (sc : Sc) (rs1 rs2 : Reg) (o : BitVec 11) (s : State) : Out :=
  s.branch sc rs1 rs2 o (fun a b => decide (a = b))

/-- BNE (R275). -/
def execBne (sc : Sc) (rs1 rs2 : Reg) (o : BitVec 11) (s : State) : Out :=
  s.branch sc rs1 rs2 o (fun a b => decide (a ≠ b))

/-- BLT (R275). -/
def execBlt (sc : Sc) (rs1 rs2 : Reg) (o : BitVec 11) (s : State) : Out :=
  s.branch sc rs1 rs2 o (fun a b => decide (a.toInt < b.toInt))

/-- BGE (R275). -/
def execBge (sc : Sc) (rs1 rs2 : Reg) (o : BitVec 11) (s : State) : Out :=
  s.branch sc rs1 rs2 o (fun a b => decide (b.toInt ≤ a.toInt))

/-- BLTN (R275). -/
def execBltn (sc : Sc) (rs1 rs2 : Reg) (o : BitVec 11) (s : State) : Out :=
  s.branch sc rs1 rs2 o (fun a b => decide (a.toNat < b.toNat))

/-- BGEN (R275). -/
def execBgen (sc : Sc) (rs1 rs2 : Reg) (o : BitVec 11) (s : State) : Out :=
  s.branch sc rs1 rs2 o (fun a b => decide (b.toNat ≤ a.toNat))

end Sys2Proof.Machine
end

