-- ==== Sys2Proof/Machine/VectorInt.lean ====
section
/-! DEFINITION. Vector integer arithmetic (R309, R313, R315 to R317) and the integer lane chains (R331). -/
namespace Sys2Proof.Machine

/-- A row of R315 or R316: both sources and the destination have width SEW. -/
def State.vint (s : State) (sc : Sc) (d : Reg) (a : VA) (b : Reg) (vm : BitVec 3) (rule : TagRule) (sh useD : Bool)
    (f : Nat → Nat → Nat → Nat → Nat) : Out :=
  let e8 := s.hart.lm8
  let w := s.hart.sew
  s.vlegal sc (a.ok e8 && groupOk b e8 && groupOk d e8)
    (s.vbin sc d a b vm rule sh true useD 1 (fun x y z => (f w x y z % 2 ^ w, 0)))

/-- VADD, VSUB and VMUL, which compose over a symbol (R313). -/
def State.vsym (s : State) (sc : Sc) (o : VSymOp) (d : Reg) (a : VA) (b : Reg) (vm : BitVec 3) (rule : TagRule)
    (f : Nat → Nat → Nat → Nat → Nat) : Out :=
  let e8 := s.hart.lm8
  s.vlegal sc (a.ok e8 && groupOk b e8 && groupOk d e8)
    (match s.vcompose sc o d a b vm with
     | some r => r
     | none => s.vint sc d a b vm rule false false f)

/-- The form of majors 0x23 to 0x25. -/
def vaForm3 (g : BitVec 3) (r : Reg) : VA := vaForm (g.toNat - 3) r

/-- A signed integer of `w` bits. -/
def sInt (w x : Nat) : Int := intVal w true x

/-- An integer read as signed, or unsigned under `.n`. -/
def nInt (w : Nat) (u : BitVec 1) (x : Nat) : Int := intVal w (decide (u = 0)) x

/-- A value kept in the range of a width (R218). -/
def clampInt (w : Nat) (u : BitVec 1) (v : Int) : Nat :=
  intCode w (min (max v (intMin w (decide (u = 0)))) (intMax w (decide (u = 0))))

/-! ## Majors 0x20 to 0x22 (R315) -/

/-- VADD (R315): A + B. -/
def execVadd (sc : Sc) (rd rs1 rs2 : Reg) (m : BitVec 3) (g : BitVec 2) (s : State) : Out :=
  s.vsym sc .add rd (vaForm g.toNat rs1) rs2 m .affine (fun _ a b _ => a + b)

/-- VSUB (R315): B − A. -/
def execVsub (sc : Sc) (rd rs1 rs2 : Reg) (m : BitVec 3) (g : BitVec 2) (s : State) : Out :=
  s.vsym sc .sub rd (vaForm g.toNat rs1) rs2 m .affine (fun w a b _ => b + 2 ^ w - a)

/-- VRSUB (R315): A − B. -/
def execVrsub (sc : Sc) (rd rs1 rs2 : Reg) (m : BitVec 3) (g : BitVec 2) (s : State) : Out :=
  s.vint sc rd (vaForm g.toNat rs1) rs2 m .affine false false (fun w a b _ => a + 2 ^ w - b)

/-- VMUL (R315): the low half of A × B. -/
def execVmul (sc : Sc) (rd rs1 rs2 : Reg) (m : BitVec 3) (g : BitVec 2) (s : State) : Out :=
  s.vsym sc .mul rd (vaForm g.toNat rs1) rs2 m .scaled (fun _ a b _ => a * b)

/-- VMACC (R315): `vd` + A × B. -/
def execVmacc (sc : Sc) (rd rs1 rs2 : Reg) (m : BitVec 3) (g : BitVec 2) (s : State) : Out :=
  s.vint sc rd (vaForm g.toNat rs1) rs2 m .allU false true (fun _ a b d => d + a * b)

/-- VNMSAC (R315): `vd` − A × B. -/
def execVnmsac (sc : Sc) (rd rs1 rs2 : Reg) (m : BitVec 3) (g : BitVec 2) (s : State) : Out :=
  s.vint sc rd (vaForm g.toNat rs1) rs2 m .allU false true (fun w a b d => d + 2 ^ w - a * b % 2 ^ w)

/-- VAND (R315). -/
def execVand (sc : Sc) (rd rs1 rs2 : Reg) (m : BitVec 3) (g : BitVec 2) (s : State) : Out :=
  s.vint sc rd (vaForm g.toNat rs1) rs2 m .allU false false (fun _ a b _ => a &&& b)

/-- VOR (R315). -/
def execVor (sc : Sc) (rd rs1 rs2 : Reg) (m : BitVec 3) (g : BitVec 2) (s : State) : Out :=
  s.vint sc rd (vaForm g.toNat rs1) rs2 m .allU false false (fun _ a b _ => a ||| b)

/-- VXOR (R315). -/
def execVxor (sc : Sc) (rd rs1 rs2 : Reg) (m : BitVec 3) (g : BitVec 2) (s : State) : Out :=
  s.vint sc rd (vaForm g.toNat rs1) rs2 m .allU false false (fun _ a b _ => a ^^^ b)

/-- VSLL (R315): B shifted left by the low bits of A. -/
def execVsll (sc : Sc) (rd rs1 rs2 : Reg) (m : BitVec 3) (g : BitVec 2) (s : State) : Out :=
  s.vint sc rd (vaForm g.toNat rs1) rs2 m .shifted true false (fun w a b _ => b * 2 ^ (a % w))

/-- VSRL (R315): zero fill. -/
def execVsrl (sc : Sc) (rd rs1 rs2 : Reg) (m : BitVec 3) (g : BitVec 2) (s : State) : Out :=
  s.vint sc rd (vaForm g.toNat rs1) rs2 m .allU true false (fun w a b _ => b / 2 ^ (a % w))

/-- VSRA (R315): sign fill. -/
def execVsra (sc : Sc) (rd rs1 rs2 : Reg) (m : BitVec 3) (g : BitVec 2) (s : State) : Out :=
  s.vint sc rd (vaForm g.toNat rs1) rs2 m .allU true false (fun w a b _ => intCode w (sInt w b >>> (a % w)))

/-- VMERGE (R315): A where the mask bit is 1, else B, for every element. -/
def execVmerge (sc : Sc) (rd rs1 rs2 : Reg) (m : BitVec 3) (g : BitVec 2) (s : State) : Out :=
  let h := s.hart
  let w := h.sew
  let e8 := h.lm8
  let a := vaForm g.toNat rs1
  s.vlegal sc (a.ok e8 && groupOk rs2 e8 && groupOk rd e8)
    (s.vrun { sc := sc, xs := a.xs, vs := a.regs e8 ++ groupRegs rs2 e8, ds := groupRegs rd e8, ms := maskOf m, els := h.actives 0,
              reads := fun i => if h.active m i then a.reads w i else [(rs2.toNat, w, i)],
              comp := fun i _ => (if h.active m i then h.va a w false i else h.vel rs2.toNat w i, 0, 0),
              put := fun h l => h.putEls rd w e8 l, psn := fun h l => h.poisonEls rd w e8 l, unk := fun h => h.unkGroup rd e8 })

/-- VMV (R315): A. -/
def execVmv (sc : Sc) (rd rs1 : Reg) (m : BitVec 3) (g : BitVec 2) (s : State) : Out :=
  let e8 := s.hart.lm8
  let a := vaForm g.toNat rs1
  s.vlegal sc (a.ok e8 && groupOk rd e8) (s.vbin sc rd a 0 m .affine false false false 1 (fun x _ _ => (x, 0)))

/-- The member registers of a 2 × SEW group that member `k` of a SEW group is computed from are both U, with one value. -/
def Hart.pairU (h : Hart) (b : Reg) (k : Nat) : Bool :=
  let p := h.vreg (b.toNat + 2 * k)
  let q := h.vreg (b.toNat + 2 * k + 1)
  decide (p.tagAt (h.vsew + 1) = .U) && decide (q.tagAt (h.vsew + 1) = .U) && decide (p.base = q.base)

/-- VNSRA (R315): the low half of B, of twice the width, shifted right with its sign. -/
def execVnsra (sc : Sc) (rd rs1 rs2 : Reg) (m : BitVec 3) (g : BitVec 2) (s : State) : Out :=
  let h := s.hart
  let w := h.sew
  let e8 := h.lm8
  let a := vaForm g.toNat rs1
  s.vlegal sc (decide (w ≠ 64) && a.ok e8 && groupOk rs2 (2 * e8) && groupOk rd e8 && !groupsMeet rd e8 rs2 (2 * e8))
    (s.vrun { sc := sc, xs := a.xs, vs := a.regs e8 ++ groupRegs rs2 (2 * e8), ds := groupRegs rd e8, ms := maskOf m,
              whole := h.whole m, els := h.actives m,
              reads := fun i => a.reads w i ++ [(rs2.toNat, 2 * w, i)],
              comp := fun i _ => (intCode w (sInt (2 * w) (h.vel rs2.toNat (2 * w) i) >>> (h.va a w true i % (2 * w))), 0, 0),
              put := fun h l => h.putEls rd w e8 l,
              fin := fun k => if h.whole m then k.retag rd e8 h.vsew (fun j => decide (h.vaTag a h.vsew j = .U) && h.pairU rs2 j) else k,
              psn := fun h l => h.poisonEls rd w e8 l, unk := fun h => h.unkGroup rd e8 })

/-- VADD.ch (R331). -/
def execVaddCh (sc : Sc) (rd rs1 : Reg) (m : BitVec 3) (g : BitVec 2) (s : State) : Out :=
  let w := s.hart.sew
  let e8 := s.hart.lm8
  let a := vaForm g.toNat rs1
  s.vlegal sc (a.ok e8 && groupOk rd e8) (s.vchain sc rd a m (fun x p => ((x + p) % 2 ^ w, 0)))

/-! ## Majors 0x23 to 0x25 (R316) -/

/-- VMULH (R316): the high half of A × B. -/
def execVmulh (sc : Sc) (rd rs1 rs2 : Reg) (u : BitVec 1) (m : BitVec 3) (g : BitVec 3) (s : State) : Out :=
  s.vint sc rd (vaForm3 g rs1) rs2 m .allU false false (fun w a b _ => intCode w ((nInt w u a * nInt w u b) >>> w))

/-- VDIV (R316): B / A truncated; all ones for A = 0. -/
def execVdiv (sc : Sc) (rd rs1 rs2 : Reg) (u : BitVec 1) (m : BitVec 3) (g : BitVec 3) (s : State) : Out :=
  s.vint sc rd (vaForm3 g rs1) rs2 m .allU false false (fun w a b _ =>
    if a = 0 then 2 ^ w - 1 else intCode w ((nInt w u b).tdiv (nInt w u a)))

/-- VREM (R316): B − A × (B / A); B for A = 0. -/
def execVrem (sc : Sc) (rd rs1 rs2 : Reg) (u : BitVec 1) (m : BitVec 3) (g : BitVec 3) (s : State) : Out :=
  s.vint sc rd (vaForm3 g rs1) rs2 m .allU false false (fun w a b _ =>
    if a = 0 then b else intCode w ((nInt w u b).tmod (nInt w u a)))

/-- VMIN (R316). -/
def execVmin (sc : Sc) (rd rs1 rs2 : Reg) (u : BitVec 1) (m : BitVec 3) (g : BitVec 3) (s : State) : Out :=
  s.vint sc rd (vaForm3 g rs1) rs2 m .allU false false (fun w a b _ => intCode w (min (nInt w u a) (nInt w u b)))

/-- VMAX (R316). -/
def execVmax (sc : Sc) (rd rs1 rs2 : Reg) (u : BitVec 1) (m : BitVec 3) (g : BitVec 3) (s : State) : Out :=
  s.vint sc rd (vaForm3 g rs1) rs2 m .allU false false (fun w a b _ => intCode w (max (nInt w u a) (nInt w u b)))

/-- VSADD (R316): A + B saturated. -/
def execVsadd (sc : Sc) (rd rs1 rs2 : Reg) (u : BitVec 1) (m : BitVec 3) (g : BitVec 3) (s : State) : Out :=
  s.vint sc rd (vaForm3 g rs1) rs2 m .allU false false (fun w a b _ => clampInt w u (nInt w u a + nInt w u b))

/-- VSSUB (R316): B − A saturated. -/
def execVssub (sc : Sc) (rd rs1 rs2 : Reg) (u : BitVec 1) (m : BitVec 3) (g : BitVec 3) (s : State) : Out :=
  s.vint sc rd (vaForm3 g rs1) rs2 m .allU false false (fun w a b _ => clampInt w u (nInt w u b - nInt w u a))

/-- VCLAMP (R316): min(max(`vd`, A), B). -/
def execVclamp (sc : Sc) (rd rs1 rs2 : Reg) (u : BitVec 1) (m : BitVec 3) (g : BitVec 3) (s : State) : Out :=
  s.vint sc rd (vaForm3 g rs1) rs2 m .allU false true (fun w a b d => intCode w (min (max (nInt w u d) (nInt w u a)) (nInt w u b)))

/-! ## Major 0x2C (R317) -/

/-- A comparison of integers. -/
def State.vicmp (s : State) (sc : Sc) (d rs1 rs2 : Reg) (u : BitVec 1) (vm : BitVec 3) (f : Int → Int → Bool) : Out :=
  let e8 := s.hart.lm8
  let w := s.hart.sew
  s.vlegal sc (groupOk rs1 e8 && groupOk rs2 e8)
    (s.vcompare sc d (.vv rs1) rs2 vm 1 (fun a b => (f (nInt w u b) (nInt w u a), 0)))

/-- VCMP.eq (R317): B = A. -/
def execVcmpEq (sc : Sc) (rd rs1 rs2 : Reg) (u : BitVec 1) (m : BitVec 3) (s : State) : Out :=
  s.vicmp sc rd rs1 rs2 u m (fun b a => decide (b = a))

/-- VCMP.ne (R317): B ≠ A. -/
def execVcmpNe (sc : Sc) (rd rs1 rs2 : Reg) (u : BitVec 1) (m : BitVec 3) (s : State) : Out :=
  s.vicmp sc rd rs1 rs2 u m (fun b a => decide (b ≠ a))

/-- VCMP.lt (R317): B < A. -/
def execVcmpLt (sc : Sc) (rd rs1 rs2 : Reg) (u : BitVec 1) (m : BitVec 3) (s : State) : Out :=
  s.vicmp sc rd rs1 rs2 u m (fun b a => decide (b < a))

/-- VCMP.le (R317): B ≤ A. -/
def execVcmpLe (sc : Sc) (rd rs1 rs2 : Reg) (u : BitVec 1) (m : BitVec 3) (s : State) : Out :=
  s.vicmp sc rd rs1 rs2 u m (fun b a => decide (b ≤ a))

/-- A widening row (R317): the destination has twice the width. -/
def State.vwiden (s : State) (sc : Sc) (d rs1 rs2 : Reg) (u : BitVec 1) (vm : BitVec 3) (f : Int → Int → Int) : Out :=
  let h := s.hart
  let w := h.sew
  let e8 := h.lm8
  s.vlegal sc (decide (w ≠ 64) && groupOk rs1 e8 && groupOk rs2 e8 && groupOk d (2 * e8) && !groupsMeet d (2 * e8) rs1 e8 &&
      !groupsMeet d (2 * e8) rs2 e8)
    (s.vrun { sc := sc, vs := groupRegs rs1 e8 ++ groupRegs rs2 e8, ds := groupRegs d (2 * e8), ms := maskOf vm,
              whole := h.whole vm, els := h.actives vm,
              reads := fun i => [(rs1.toNat, w, i), (rs2.toNat, w, i)],
              comp := fun i _ => (intCode (2 * w) (f (nInt w u (h.vel rs1.toNat w i)) (nInt w u (h.vel rs2.toNat w i))), 0, 0),
              put := fun h l => h.putEls d (2 * w) (2 * e8) l,
              psn := fun h l => h.poisonEls d (2 * w) (2 * e8) l, unk := fun h => h.unkGroup d (2 * e8) })

/-- VWADD (R317). -/
def execVwadd (sc : Sc) (rd rs1 rs2 : Reg) (u : BitVec 1) (m : BitVec 3) (s : State) : Out :=
  s.vwiden sc rd rs1 rs2 u m (fun a b => a + b)

/-- VWMUL (R317). -/
def execVwmul (sc : Sc) (rd rs1 rs2 : Reg) (u : BitVec 1) (m : BitVec 3) (s : State) : Out :=
  s.vwiden sc rd rs1 rs2 u m (fun a b => a * b)

/-- A chain of signed or unsigned extremes (R331). -/
def State.vextremeCh (s : State) (sc : Sc) (d rs1 : Reg) (u : BitVec 1) (vm : BitVec 3) (f : Int → Int → Int) : Out :=
  let w := s.hart.sew
  let e8 := s.hart.lm8
  s.vlegal sc (groupOk rs1 e8 && groupOk d e8) (s.vchain sc d (.vv rs1) vm (fun a p => (intCode w (f (nInt w u a) (nInt w u p)), 0)))

/-- VMAX.ch (R331). -/
def execVmaxCh (sc : Sc) (rd rs1 : Reg) (u : BitVec 1) (m : BitVec 3) (s : State) : Out :=
  s.vextremeCh sc rd rs1 u m max

/-- VMIN.ch (R331). -/
def execVminCh (sc : Sc) (rd rs1 : Reg) (u : BitVec 1) (m : BitVec 3) (s : State) : Out :=
  s.vextremeCh sc rd rs1 u m min

end Sys2Proof.Machine
end

