-- ==== Sys2Proof/Machine/VectorFp.lean ====
section
/-! DEFINITION. Vector floating point (R314, R318 to R320) and its lane chains (R331). -/
namespace Sys2Proof.Machine

/-! ## The exact functions of R320 -/

/-- Fraction bits kept by the functions of R320: far more than any result of theirs needs. -/
def expBits : Nat := 256
def logBits : Nat := 128

/-- 2^f for a fraction f of `k` bits, least significant bit first, as a number of `expBits` fraction bits rounded down. -/
def exp2Frac : Nat → Nat → Nat → Nat
  | 0, _, y => y
  | k + 1, f, y =>
    let z := if f % 2 = 1 then 2 * y else y
    exp2Frac k (f / 2) (isqrt (expBits + 1) 0 (z * 2 ^ expBits))

/-- 2^x for a finite x (R320). Operands far beyond any format's range are cut, which changes no result. -/
def Fmt.exp2 (f : Fmt) (rm a : Nat) : Nat × Nat :=
  match f.decode a with
  | .nan s => (f.canon, flagIf s fNv)
  | .inf n => (if n then 0 else f.infCode, 0)
  | .fin n m e =>
    if m = 0 then (f.bias * 2 ^ f.mb, 0)
    else if 12 ≤ Nat.log2 m + e then f.round rm false false 1 (if n then -5000 else 5000) true
    else
      let k := (-e).toNat
      let v : Int := (if n then -1 else 1) * ((m : Int) * 2 ^ e.toNat)
      let i := v / 2 ^ k
      let r := (v % 2 ^ k).toNat
      f.round rm false false (exp2Frac k r (2 ^ expBits)) (i - expBits) (decide (r ≠ 0))

/-- Binary digits of the logarithm of x in [1, 2), x having `3 × logBits` fraction bits. -/
def log2Frac : Nat → Nat → Nat → Nat
  | 0, _, d => d
  | k + 1, x, d =>
    let y := x * x / 2 ^ (3 * logBits)
    if 2 ^ (3 * logBits + 1) ≤ y then log2Frac k (y / 2) (2 * d + 1) else log2Frac k y (2 * d)

/-- log₂ x (R320). -/
def Fmt.log2 (f : Fmt) (rm a : Nat) : Nat × Nat :=
  match f.decode a with
  | .nan s => (f.canon, flagIf s fNv)
  | .inf n => if n then (f.canon, fNv) else (f.infCode, 0)
  | .fin n m e =>
    if m = 0 then (f.sign + f.infCode, fDz)
    else if n then (f.canon, fNv)
    else
      let l := Nat.log2 m
      if m = 2 ^ l then f.put rm false (ofInt (e + l))
      else
        let d := log2Frac logBits (m * 2 ^ (3 * logBits) / 2 ^ l) 0
        let v : Int := (e + l) * 2 ^ logBits + d
        if v < 0 then f.round rm false true (v.natAbs - 1) (-logBits) true else f.round rm false false v.natAbs (-logBits) true

/-- 1/√x (R320). -/
def Fmt.rsqrt (f : Fmt) (rm a : Nat) : Nat × Nat :=
  match f.decode a with
  | .nan s => (f.canon, flagIf s fNv)
  | .inf n => if n then (f.canon, fNv) else (0, 0)
  | .fin n m e =>
    if m = 0 then ((if n then f.sign else 0) + f.infCode, fDz)
    else if n then (f.canon, fNv)
    else
      let m := if e % 2 = 0 then m else 2 * m
      let e := if e % 2 = 0 then e else e - 1
      let r := isqrt (logBits + 1) 0 (2 ^ (2 * logBits) / m)
      f.round rm false false r (-logBits - e / 2) (decide (r * r * m ≠ 2 ^ (2 * logBits)))

/-- round(c − a × b), one rounding. -/
def Fmt.fnma (f : Fmt) (rm a b c : Nat) : Nat × Nat := f.fma rm (a ^^^ f.sign) b c

/-! ## Rows -/

/-- The format of a vector FP row at an element width (R318). -/
def vfFmt (bf : Bool) (w : Nat) : Option Fmt :=
  if w = 16 then some (if bf then bf16 else fp16) else if w = 32 ∧ bf = false then some fp32 else none

/-- The rounding mode in force for vector arithmetic; EFB acts as RNE (R314). -/
def Hart.vmode (h : Hart) : Nat := h.frm.toNat

/-- A row of R318: operands of one format; `rounds` where an illegal `frm` is illegal (R210). -/
def State.vfp (s : State) (bf rounds useB useD : Bool) (sc : Sc) (d : Reg) (a : VA) (b : Reg) (vm : BitVec 3)
    (f : Fmt → Nat → Nat → Nat → Nat → Nat × Nat) : Out :=
  let e8 := s.hart.lm8
  let q := vfFmt bf s.hart.sew
  s.vlegal sc (q.isSome && (!rounds || modeOk s.hart.frm) && a.ok e8 && (!useB || groupOk b e8) && groupOk d e8)
    (s.vbin sc d a b vm .never false useB useD 5 (fun x y z => f (q.getD fp32) s.hart.vmode x y z))

/-- A comparison of R318: of B with A. -/
def State.vfcmp (s : State) (bf : Bool) (k : Nat) (sc : Sc) (d : Reg) (a : VA) (b : Reg) (vm : BitVec 3) : Out :=
  let e8 := s.hart.lm8
  let q := vfFmt bf s.hart.sew
  s.vlegal sc (q.isSome && a.ok e8 && groupOk b e8) (s.vcompare sc d a b vm 5 (fun x y => (q.getD fp32).cmp k y x))

/-- VFADD.ch (R331). -/
def State.vfchain (s : State) (bf : Bool) (sc : Sc) (d : Reg) (a : VA) (vm : BitVec 3) : Out :=
  let e8 := s.hart.lm8
  let q := vfFmt bf s.hart.sew
  s.vlegal sc (q.isSome && modeOk s.hart.frm && a.ok e8 && groupOk d e8)
    (s.vchain sc d a vm (fun x p => (q.getD fp32).add s.hart.vmode x p))

/-- VFADD (R318): A + B. -/
def execVfadd (sc : Sc) (rd rs1 rs2 : Reg) (m : BitVec 3) (g : BitVec 1) (s : State) : Out :=
  s.vfp false true true false sc rd (vaForm g.toNat rs1) rs2 m (fun f r a b _ => f.add r a b)

/-- VFSUB (R318): B − A. -/
def execVfsub (sc : Sc) (rd rs1 rs2 : Reg) (m : BitVec 3) (g : BitVec 1) (s : State) : Out :=
  s.vfp false true true false sc rd (vaForm g.toNat rs1) rs2 m (fun f r a b _ => f.sub r b a)

/-- VFMUL (R318): A × B. -/
def execVfmul (sc : Sc) (rd rs1 rs2 : Reg) (m : BitVec 3) (g : BitVec 1) (s : State) : Out :=
  s.vfp false true true false sc rd (vaForm g.toNat rs1) rs2 m (fun f r a b _ => f.mul r a b)

/-- VFDIV (R318): B / A. -/
def execVfdiv (sc : Sc) (rd rs1 rs2 : Reg) (m : BitVec 3) (g : BitVec 1) (s : State) : Out :=
  s.vfp false true true false sc rd (vaForm g.toNat rs1) rs2 m (fun f r a b _ => f.div r b a)

/-- VFMA (R318): A × B + `vd`. -/
def execVfma (sc : Sc) (rd rs1 rs2 : Reg) (m : BitVec 3) (g : BitVec 1) (s : State) : Out :=
  s.vfp false true true true sc rd (vaForm g.toNat rs1) rs2 m (fun f r a b d => f.fma r a b d)

/-- VFNMA (R318): `vd` − A × B. -/
def execVfnma (sc : Sc) (rd rs1 rs2 : Reg) (m : BitVec 3) (g : BitVec 1) (s : State) : Out :=
  s.vfp false true true true sc rd (vaForm g.toNat rs1) rs2 m (fun f r a b d => f.fnma r a b d)

/-- VFMIN (R318): the smaller, as FMIN. -/
def execVfmin (sc : Sc) (rd rs1 rs2 : Reg) (m : BitVec 3) (g : BitVec 1) (s : State) : Out :=
  s.vfp false false true false sc rd (vaForm g.toNat rs1) rs2 m (fun f _ a b _ => f.minmax false a b)

/-- VFMAX (R318): the larger, as FMAX. -/
def execVfmax (sc : Sc) (rd rs1 rs2 : Reg) (m : BitVec 3) (g : BitVec 1) (s : State) : Out :=
  s.vfp false false true false sc rd (vaForm g.toNat rs1) rs2 m (fun f _ a b _ => f.minmax true a b)

/-- VFCMP (R318): B = A. -/
def execVfcmpEq (sc : Sc) (rd rs1 rs2 : Reg) (m : BitVec 3) (g : BitVec 1) (s : State) : Out := s.vfcmp false 0 sc rd (vaForm g.toNat rs1) rs2 m

/-- VFCMP (R318): B < A. -/
def execVfcmpLt (sc : Sc) (rd rs1 rs2 : Reg) (m : BitVec 3) (g : BitVec 1) (s : State) : Out := s.vfcmp false 1 sc rd (vaForm g.toNat rs1) rs2 m

/-- VFCMP (R318): B ≤ A. -/
def execVfcmpLe (sc : Sc) (rd rs1 rs2 : Reg) (m : BitVec 3) (g : BitVec 1) (s : State) : Out := s.vfcmp false 2 sc rd (vaForm g.toNat rs1) rs2 m

/-- VFADD.ch (R331). -/
def execVfaddCh (sc : Sc) (rd rs1 : Reg) (m : BitVec 3) (g : BitVec 1) (s : State) : Out :=
  s.vfchain false sc rd (vaForm g.toNat rs1) m

/-- VFSQRT (R319). -/
def execVfsqrt (sc : Sc) (rd rs2 : Reg) (m : BitVec 3) (s : State) : Out := s.vfp false true false false sc rd (.vv rs2) 0 m (fun f r b _ _ => f.sqrt r b)

/-- VFRSQRT (R319). -/
def execVfrsqrt (sc : Sc) (rd rs2 : Reg) (m : BitVec 3) (s : State) : Out := s.vfp false true false false sc rd (.vv rs2) 0 m (fun f r b _ _ => f.rsqrt r b)

/-- VFEXP2 (R319). -/
def execVfexp2 (sc : Sc) (rd rs2 : Reg) (m : BitVec 3) (s : State) : Out := s.vfp false true false false sc rd (.vv rs2) 0 m (fun f r b _ _ => f.exp2 r b)

/-- VFLOG2 (R319). -/
def execVflog2 (sc : Sc) (rd rs2 : Reg) (m : BitVec 3) (s : State) : Out := s.vfp false true false false sc rd (.vv rs2) 0 m (fun f r b _ _ => f.log2 r b)

/-- VFCLASS (R319). -/
def execVfclass (sc : Sc) (rd rs2 : Reg) (m : BitVec 3) (s : State) : Out := s.vfp false false false false sc rd (.vv rs2) 0 m (fun f _ b _ _ => (f.cls b, 0))

/-- VFADD.bf16 (R318): A + B. -/
def execVfaddBf16 (sc : Sc) (rd rs1 rs2 : Reg) (m : BitVec 3) (g : BitVec 1) (s : State) : Out :=
  s.vfp true true true false sc rd (vaForm g.toNat rs1) rs2 m (fun f r a b _ => f.add r a b)

/-- VFSUB.bf16 (R318): B − A. -/
def execVfsubBf16 (sc : Sc) (rd rs1 rs2 : Reg) (m : BitVec 3) (g : BitVec 1) (s : State) : Out :=
  s.vfp true true true false sc rd (vaForm g.toNat rs1) rs2 m (fun f r a b _ => f.sub r b a)

/-- VFMUL.bf16 (R318): A × B. -/
def execVfmulBf16 (sc : Sc) (rd rs1 rs2 : Reg) (m : BitVec 3) (g : BitVec 1) (s : State) : Out :=
  s.vfp true true true false sc rd (vaForm g.toNat rs1) rs2 m (fun f r a b _ => f.mul r a b)

/-- VFDIV.bf16 (R318): B / A. -/
def execVfdivBf16 (sc : Sc) (rd rs1 rs2 : Reg) (m : BitVec 3) (g : BitVec 1) (s : State) : Out :=
  s.vfp true true true false sc rd (vaForm g.toNat rs1) rs2 m (fun f r a b _ => f.div r b a)

/-- VFMA.bf16 (R318): A × B + `vd`. -/
def execVfmaBf16 (sc : Sc) (rd rs1 rs2 : Reg) (m : BitVec 3) (g : BitVec 1) (s : State) : Out :=
  s.vfp true true true true sc rd (vaForm g.toNat rs1) rs2 m (fun f r a b d => f.fma r a b d)

/-- VFNMA.bf16 (R318): `vd` − A × B. -/
def execVfnmaBf16 (sc : Sc) (rd rs1 rs2 : Reg) (m : BitVec 3) (g : BitVec 1) (s : State) : Out :=
  s.vfp true true true true sc rd (vaForm g.toNat rs1) rs2 m (fun f r a b d => f.fnma r a b d)

/-- VFMIN.bf16 (R318): the smaller, as FMIN. -/
def execVfminBf16 (sc : Sc) (rd rs1 rs2 : Reg) (m : BitVec 3) (g : BitVec 1) (s : State) : Out :=
  s.vfp true false true false sc rd (vaForm g.toNat rs1) rs2 m (fun f _ a b _ => f.minmax false a b)

/-- VFMAX.bf16 (R318): the larger, as FMAX. -/
def execVfmaxBf16 (sc : Sc) (rd rs1 rs2 : Reg) (m : BitVec 3) (g : BitVec 1) (s : State) : Out :=
  s.vfp true false true false sc rd (vaForm g.toNat rs1) rs2 m (fun f _ a b _ => f.minmax true a b)

/-- VFCMP.bf16 (R318): B = A. -/
def execVfcmpEqBf16 (sc : Sc) (rd rs1 rs2 : Reg) (m : BitVec 3) (g : BitVec 1) (s : State) : Out := s.vfcmp true 0 sc rd (vaForm g.toNat rs1) rs2 m

/-- VFCMP.bf16 (R318): B < A. -/
def execVfcmpLtBf16 (sc : Sc) (rd rs1 rs2 : Reg) (m : BitVec 3) (g : BitVec 1) (s : State) : Out := s.vfcmp true 1 sc rd (vaForm g.toNat rs1) rs2 m

/-- VFCMP.bf16 (R318): B ≤ A. -/
def execVfcmpLeBf16 (sc : Sc) (rd rs1 rs2 : Reg) (m : BitVec 3) (g : BitVec 1) (s : State) : Out := s.vfcmp true 2 sc rd (vaForm g.toNat rs1) rs2 m

/-- VFADD.ch.bf16 (R331). -/
def execVfaddChBf16 (sc : Sc) (rd rs1 : Reg) (m : BitVec 3) (g : BitVec 1) (s : State) : Out :=
  s.vfchain true sc rd (vaForm g.toNat rs1) m

/-- VFSQRT.bf16 (R319). -/
def execVfsqrtBf16 (sc : Sc) (rd rs2 : Reg) (m : BitVec 3) (s : State) : Out := s.vfp true true false false sc rd (.vv rs2) 0 m (fun f r b _ _ => f.sqrt r b)

/-- VFRSQRT.bf16 (R319). -/
def execVfrsqrtBf16 (sc : Sc) (rd rs2 : Reg) (m : BitVec 3) (s : State) : Out := s.vfp true true false false sc rd (.vv rs2) 0 m (fun f r b _ _ => f.rsqrt r b)

/-- VFEXP2.bf16 (R319). -/
def execVfexp2Bf16 (sc : Sc) (rd rs2 : Reg) (m : BitVec 3) (s : State) : Out := s.vfp true true false false sc rd (.vv rs2) 0 m (fun f r b _ _ => f.exp2 r b)

/-- VFLOG2.bf16 (R319). -/
def execVflog2Bf16 (sc : Sc) (rd rs2 : Reg) (m : BitVec 3) (s : State) : Out := s.vfp true true false false sc rd (.vv rs2) 0 m (fun f r b _ _ => f.log2 r b)

/-- VFCLASS.bf16 (R319). -/
def execVfclassBf16 (sc : Sc) (rd rs2 : Reg) (m : BitVec 3) (s : State) : Out := s.vfp true false false false sc rd (.vv rs2) 0 m (fun f _ b _ _ => (f.cls b, 0))

end Sys2Proof.Machine
end

