-- ==== Sys2Proof/Machine/VectorCvt.lean ====
section
/-! DEFINITION. Vector conversions (R321, R322), error-feedback rounding (R230, R231) and MX packing (R232 to R236, R323 to
R326). -/
namespace Sys2Proof.Machine

/-! ## Error feedback (R230) -/

/-- One step of error feedback: the FP32 sum of the element and the residual, with its flags. -/
def efbSum (x : FV) (e : Nat) : Nat × Nat := fp32.sum 0 false x (fp32.decode e)

/-- An element rounded into a format with the residual `e`: the code, the flags, the next residual. The target's unit is
2^`k`: the code stands for its value times 2^`k` (R230, R326). -/
def efbTo (f : Fmt) (k : Int) (x : FV) (e : Nat) : Nat × Nat × Nat :=
  let (s, fl) := efbSum x e
  match fp32.decode s with
  | .fin n m g =>
    let (c, g2) := f.round 0 true n m (g - k) false
    if m ≠ 0 ∧ bitOf g2 2 then (c, fl ||| fEs ||| fNx, 0)
    else (c, fl ||| g2, (fp32.sum 0 false (.fin n m g) (((f.decode c).scale k).neg)).1)
  | v => let (c, g2) := f.put 0 false v; (c, fl ||| g2, 0)

/-- The same into an integer format of `w` bits (R230, R326). A sum that is NaN or infinite goes as in a conversion to an integer (R220), with
the residual cleared (log 95). -/
def efbToInt (w : Nat) (k : Int) (x : FV) (e : Nat) : Nat × Nat × Nat :=
  let (s, fl) := efbSum x e
  match fp32.decode s with
  | .fin n m g =>
    let (r, g2) := toInt 0 w true (.fin n m (g - k))
    if bitOf g2 4 then (intCode w r, fl ||| fEs ||| fNx, 0)
    else (intCode w r, fl ||| g2, (fp32.sum 0 false (.fin n m g) (((ofInt r).scale k).neg)).1)
  | v => let (r, g2) := toInt 0 w true v; (intCode w r, fl ||| g2, 0)

/-- The residual after an instruction (R231): that of its last active element, or at a stop the one entering the element. -/
def keepResid (els : List Nat) (k : Hart) (c : Nat) : Hart :=
  if els = [] then k else { k with vresid := BitVec.ofNat 32 c }

/-! ## VFCVT -/

/-- The target holds every value of a source of at most 8 bits exactly: E2M1 in every other such format, E3M2 in the FP8 formats, E2M3 in
E4M3 (R217). -/
def exactSmall (src dst : Nat) : Bool :=
  decide (src = dst) || decide (src = 7) || (decide (src = 5) && (decide (dst = 3) || decide (dst = 4))) || (decide (src = 6) && decide (dst = 3))

/-- The conversions that EFB governs (R210, R322): from one floating-point format to another that does not hold every operand exactly
(log 92). -/
def efbPair (src dst : Nat) : Bool :=
  (fmtOf src).isSome && (fmtOf dst).isSome && decide (dst ≠ 0) && decide (src ≠ dst) &&
    !(decide (3 ≤ src) && (decide (dst = 1) || decide (dst = 2) || exactSmall src dst))

/-- VFCVT (R321, R322): `t` is the source format and `k` the destination format. -/
def execVfcvt (sc : Sc) (rd rs2 : Reg) (m : BitVec 3) (t k : BitVec 5) (s : State) : Out :=
  let h := s.hart
  let ws := formatSew t.toNat
  let wd := formatSew k.toNat
  let es := h.em8 ws
  let ed := h.em8 wd
  let efb := decide (h.frm = 5) && efbPair t.toNat k.toNat
  s.vlegal sc (decide (h.sew = max ws wd) && modeOk h.frm && groupOk rs2 es && groupOk rd ed && (decide (ws = wd) || !groupsMeet rd ed rs2 es))
    (s.vrun { sc := sc, vs := groupRegs rs2 es, ds := groupRegs rd ed, ms := maskOf m, cu := if efb then 5 else 1, whole := h.whole m,
              els := h.actives m,
              reads := fun i => [(rs2.toNat, ws, i)],
              comp := fun i c =>
                let x := h.vel rs2.toNat ws i
                if efb then efbTo ((fmtOf k.toNat).getD fp32) 0 (elemVal t.toNat x).1 c
                else let (v, fl) := convert t.toNat k.toNat h.vmode false x; (v, fl, 0),
              carry := h.vresid.toNat,
              put := fun h l => h.putEls rd wd ed l,
              keep := fun k c _ => if efb then keepResid (h.actives m) k c else k,
              psn := fun h l => h.poisonEls rd wd ed l,
              unk := fun h => { h.unkGroup rd ed with cUnk := if efb then h.cUnk ||| 4 else h.cUnk } })

/-! ## MX blocks (R323) -/

/-- The format code of an MX selector. -/
def mxCode (e : BitVec 3) : Nat := #v[3, 4, 5, 6, 7, 0x10, 0x11, 0x12][e.toNat]

/-- The width for which the narrow group is sized. -/
def mxSize (e : BitVec 3) : Nat := formatSew (mxCode e)

/-- The exponent of the largest power of two of an element format (R325). -/
def mxEmax (e : BitVec 3) : Nat := #v[8, 15, 4, 2, 2, 0, 2, 6][e.toNat]

/-- The width an element takes in the narrow group: FP6 elements are packed. -/
def mxBits (e : BitVec 3) : Nat := formatBits (mxCode e)

/-- The wide format at an element width. -/
def mxWide (w : Nat) : Option Fmt := if w = 32 then some fp32 else if w = 16 then some bf16 else none

/-- Bits of an element that may cross registers, lowest first. -/
def Hart.velBits (h : Hart) (r w i : Nat) : Nat :=
  ((upto w).map (fun j => h.vel r 1 (w * i + j) * 2 ^ j)).foldl (· + ·) 0

/-- A narrow element. -/
def Hart.mxEl (h : Hart) (r : Reg) (e : BitVec 3) (i : Nat) : Nat :=
  if mxBits e = 6 then h.velBits r.toNat 6 i else h.vel r.toNat (mxBits e) i

/-- Narrow elements written. -/
def Hart.putMx (h : Hart) (r : Reg) (e : BitVec 3) (e8 : Nat) (l : List (Nat × Nat)) : Hart :=
  if mxBits e = 6 then h.putEls r 1 e8 (l.flatMap (fun q => (upto 6).map (fun j => (6 * q.1 + j, q.2 / 2 ^ j % 2))))
  else h.putEls r (mxBits e) e8 l

/-- Narrow elements poisoned. -/
def Hart.poisonMx (h : Hart) (r : Reg) (e : BitVec 3) (e8 : Nat) (l : List Nat) : Hart :=
  if mxBits e = 6 then h.poisonEls r 1 e8 (l.flatMap (fun i => upFrom (6 * i) 6)) else h.poisonEls r (mxBits e) e8 l

/-- A finite value rounded into a format where a scale is applied, with the overflow of R235. -/
def Fmt.roundScaled (f : Fmt) (rm : Nat) (ieee n : Bool) (m : Nat) (e : Int) : Nat × Nat :=
  let (c, fl) := f.round rm true n m e false
  if m ≠ 0 ∧ bitOf fl 2 ∧ ieee then ((if n then f.sign else 0) + f.infCode, fl) else (c, fl)

/-- An unpacked element (R324). -/
def mxUnpack (f : Fmt) (code rm : Nat) (ieee : Bool) (x c : Nat) : Nat × Nat :=
  let (v, fl) := elemVal code c
  match scaleExp x, v with
  | none, _ => (f.canon, fl)
  | some _, .nan _ => (f.canon, fl)
  | some _, .inf n => ((if n then f.sign else 0) + f.infCode, fl)
  | some k, .fin n m e => let (r, g) := f.roundScaled rm ieee n m (e + k); (r, fl ||| g)

/-- VMXUNP (R324): a poisoned scale byte poisons its block's outputs (R236). -/
def execVmxunp (sc : Sc) (rd rs1 rs2 : Reg) (e m : BitVec 3) (s : State) : Out :=
  let h := s.hart
  let w := h.sew
  let e8 := h.lm8
  let en := h.em8 (mxSize e)
  let f := (mxWide w).getD fp32
  let bad (i : Nat) : Bool := h.velPsn rs1.toNat 8 (i / 32)
  s.vlegal sc ((mxWide w).isSome && modeOk h.frm && groupOk rs2 en && groupOk rd e8 && !groupsMeet rd e8 rs2 en && !groupsMeet rd e8 rs1 8)
    (s.vrun { sc := sc, vs := rs1.toNat :: groupRegs rs2 en, ds := groupRegs rd e8, ms := maskOf m, cu := 1, whole := h.whole m,
              els := h.actives m,
              reads := fun i => [(rs2.toNat, mxBits e, i)],
              comp := fun i _ =>
                let (v, fl) := mxUnpack f (mxCode e) h.vmode (h.tctl.getLsbD 1) (h.vel rs1.toNat 8 (i / 32)) (h.mxEl rs2 e i)
                if bad i then (0, 0, 0) else (v, fl, 0),
              put := fun h l => (h.putEls rd w e8 l).poisonEls rd w e8 ((l.map (·.1)).filter bad),
              psn := fun h l => h.poisonEls rd w e8 l, unk := fun h => h.unkGroup rd e8 })

/-- Active elements of block `b` below `vl`. -/
def Hart.mxBlock (h : Hart) (vm : BitVec 3) (b : Nat) : List Nat :=
  (upFrom (32 * b) (min 32 (h.vl - 32 * b))).filter (h.active vm)

/-- The scale of a block's values (R325). -/
def mxScale (emax : Nat) (l : List FV) : Nat :=
  if l.any (fun v => match v with | .fin _ _ _ => false | _ => true) then 0xFF
  else
    let lg := l.filterMap (fun v => match v with | .fin _ m e => if m = 0 then none else some ((Nat.log2 m : Int) + e) | _ => none)
    match lg with
    | [] => 0
    | a :: t => (min (max (t.foldl max a - emax + 127) 0) 254).toNat

/-- The block that a restart begins in where its active elements all lie below `vstart`: it holds an element from `vstart` to `vl` − 1, so
its scale is written too (R325), unless an element of it is poisoned, when nothing of it is (log 95). -/
def Hart.mxRest (h : Hart) (vm : BitVec 3) (src w : Nat) : Option Nat :=
  let v := h.vstart.toNat
  let l := h.mxBlock vm (v / 32)
  if v < h.vl ∧ l ≠ [] ∧ l.all (fun i => decide (i < v)) = true ∧ h.readsPoison (l.map (fun j => (src, w, j))) = none then some (v / 32) else none

/-- A packed element (R326): `x` its scale, `c` the residual. An element whose block scale is 0xFF leaves the residual as it is: R326 gives
it a code and no EFB step (log 95). -/
def mxPack (code rm x : Nat) (efb : Bool) (v : FV) (c : Nat) : Nat × Nat × Nat :=
  match scaleExp x with
  | none => (0, sigFlags [v], c)
  | some k =>
    match fmtOf code, efb with
    | some f, true => efbTo f k v c
    | none, true => efbToInt (formatSew code) k v c
    | some f, false => let (r, fl) := f.put rm true (v.scale (-k)); (r, fl, c)
    | none, false =>
      let (r, fl) := toInt rm (formatSew code) true (v.scale (-k))
      (intCode (formatSew code) r, if bitOf fl 4 then fOf + fNx else fl, c)

/-- VMXPACK (R325, R326): narrow elements in `vd`, scale bytes in `vs1`. -/
def execVmxpack (sc : Sc) (rd rs1 rs2 : Reg) (e m : BitVec 3) (s : State) : Out :=
  let h := s.hart
  let w := h.sew
  let e8 := h.lm8
  let en := h.em8 (mxSize e)
  let f := (mxWide w).getD fp32
  let val (i : Nat) : FV := f.decode (h.vel rs2.toNat w i)
  let scale (i : Nat) : Nat := mxScale (mxEmax e) ((h.mxBlock m (i / 32)).map val)
  let efb := decide (h.frm = 5)
  s.vlegal sc ((mxWide w).isSome && modeOk h.frm && groupOk rs2 e8 && groupOk rd en && !groupsMeet rd en rs2 e8 &&
      !groupsMeet rd en rs1 8 && !groupsMeet rs1 8 rs2 e8)
    (s.vrun { sc := sc, vs := groupRegs rs2 e8, ds := rs1.toNat :: groupRegs rd en, ms := maskOf m, cu := if efb then 5 else 1,
              els := h.actives m,
              reads := fun i => (rs2.toNat, w, i) :: (h.mxBlock m (i / 32)).map (fun j => (rs2.toNat, w, j)),
              comp := fun i c => mxPack (mxCode e) h.vmode (scale i) efb (val i) c,
              carry := h.vresid.toNat,
              put := fun h l => (h.putMx rd e en l).putEls rs1 8 8 ((l.map (fun q => (q.1 / 32, scale q.1))) ++
                (h.mxRest m rs2.toNat w).toList.map (fun b => (b, scale (32 * b)))),
              keep := fun k c _ => if efb then keepResid (h.actives m) k c else k,
              psn := fun h l => h.poisonMx rd e en l,
              unk := fun h => { (h.unkGroup rd en).unkGroup rs1 8 with cUnk := if efb then h.cUnk ||| 4 else h.cUnk } })

end Sys2Proof.Machine
end

