-- ==== Sys2Proof/Machine/VectorPerm.lean ====
section
/-! DEFINITION. Reductions (R327, R328), permutes (R329) and mask instructions (R330). -/
namespace Sys2Proof.Machine

/-! ## Reductions -/

/-- A reduction (R327): `f` of the initial value and the active elements gives element 0 of `vd`. -/
def State.vreduce (s : State) (ok : Bool) (sc : Sc) (d rs1 rs2 : Reg) (vm : BitVec 3) (cu : BitVec 3) (f : Nat → List Nat → Nat × Nat) : Out :=
  let h := s.hart
  let w := h.sew
  let els := h.actives0 vm
  s.vlegal sc (ok && groupOk rs2 h.lm8 && decide (h.vstart = 0))
    (s.vone { sc := sc, vs := rs1.toNat :: groupRegs rs2 h.lm8, ds := [d.toNat], ms := maskOf vm, cu := cu,
              reads := if h.vl = 0 then [] else (rs1.toNat, w, 0) :: els.map (fun i => (rs2.toNat, w, i)),
              eff := fun h =>
                if h.vl = 0 then (h, 0)
                else
                  let (v, fl) := f (h.vel rs1.toNat w 0) (els.map (h.vel rs2.toNat w))
                  (h.putEls d w 8 [(0, v)], fl),
              unk := fun h => h.unkGroup d 8 })

/-- An integer reduction. -/
def State.vired (s : State) (sc : Sc) (d rs1 rs2 : Reg) (vm : BitVec 3) (f : Nat → Nat → Nat → Nat) : Out :=
  let w := s.hart.sew
  s.vreduce true sc d rs1 rs2 vm 1 (fun a l => (l.foldl (f w) a, 0))

/-- VREDSUM (R327). -/
def execVredsum (sc : Sc) (rd rs1 rs2 : Reg) (m : BitVec 3) (s : State) : Out := s.vired sc rd rs1 rs2 m (fun w a b => (a + b) % 2 ^ w)
/-- VREDMAX (R327). -/
def execVredmax (sc : Sc) (rd rs1 rs2 : Reg) (m : BitVec 3) (s : State) : Out :=
  s.vired sc rd rs1 rs2 m (fun w a b => intCode w (max (sInt w a) (sInt w b)))
/-- VREDMIN (R327). -/
def execVredmin (sc : Sc) (rd rs1 rs2 : Reg) (m : BitVec 3) (s : State) : Out :=
  s.vired sc rd rs1 rs2 m (fun w a b => intCode w (min (sInt w a) (sInt w b)))
/-- VREDMAX.n (R327). -/
def execVredmaxN (sc : Sc) (rd rs1 rs2 : Reg) (m : BitVec 3) (s : State) : Out := s.vired sc rd rs1 rs2 m (fun _ a b => max a b)
/-- VREDMIN.n (R327). -/
def execVredminN (sc : Sc) (rd rs1 rs2 : Reg) (m : BitVec 3) (s : State) : Out := s.vired sc rd rs1 rs2 m (fun _ a b => min a b)

/-- One level of the tree of R328: neighbours added in FP32, with the flags. -/
def pairSums (rm : Nat) : List Nat → List Nat × Nat
  | a :: b :: l =>
    let (c, f) := fp32.add rm a b
    let (r, g) := pairSums rm l
    (c :: r, f ||| g)
  | l => (l, 0)

/-- The tree down to one value (R328). -/
def treeSum (rm : Nat) : Nat → List Nat → Nat × Nat
  | 0, l => (l.headD 0, 0)
  | k + 1, l =>
    if l.length ≤ 1 then (l.headD 0, 0)
    else
      let (r, f) := pairSums rm l
      let (v, g) := treeSum rm k r
      (v, f ||| g)

/-- The number of levels of the tree over `n` elements: the smallest k with n ≤ 2^k. -/
def treeLevels (n : Nat) : Nat := if n ≤ 1 then 0 else Nat.log2 (n - 1) + 1

/-- The FP sum (R328): `l` has an element for every index below `vl`, none where it is inactive. -/
def fpRedSum (f : Fmt) (rm a : Nat) (l : List (Option Nat)) : Nat × Nat :=
  let wide (c : Nat) : Nat × Nat := fp32.put rm false (f.decode c)
  let t := l.map (fun o => match o with | some c => wide c | none => (fp32.sign, 0))
  let k := treeLevels l.length
  let (r, g) := treeSum rm k (t.map (·.1) ++ List.replicate (2 ^ k - l.length) fp32.sign)
  let (v, g2) := fp32.add rm r (wide a).1
  let fl := t.foldl (fun x e => x ||| e.2) (g ||| g2 ||| (wide a).2)
  if f.w = 32 then (v, fl) else let (q, g3) := f.put rm false (fp32.decode v); (q, fl ||| g3)

/-- VFREDSUM (R327, R328). -/
def State.vfsum (s : State) (bf : Bool) (sc : Sc) (d rs1 rs2 : Reg) (vm : BitVec 3) : Out :=
  let h := s.hart
  let q := vfFmt bf h.sew
  s.vreduce (q.isSome && modeOk h.frm) sc d rs1 rs2 vm 5 (fun a _ =>
    fpRedSum (q.getD fp32) h.vmode a ((upto h.vl).map (fun i => if h.active vm i then some (h.vel rs2.toNat h.sew i) else none)))

/-- The FP maximum (R327): NaNs give way; all NaN gives the canonical NaN. -/
def fpRedMax (f : Fmt) (a : Nat) (l : List Nat) : Nat × Nat :=
  let (r, g) := l.foldl (fun q b => let (c, fl) := f.minmax true q.1 b; (c, q.2 ||| fl)) (a, sigFlags [f.decode a])
  (if (f.decode r).isNan then f.canon else r, g)

/-- VFREDMAX (R327). -/
def State.vfmaxRed (s : State) (bf : Bool) (sc : Sc) (d rs1 rs2 : Reg) (vm : BitVec 3) : Out :=
  let q := vfFmt bf s.hart.sew
  s.vreduce q.isSome sc d rs1 rs2 vm 5 (fpRedMax (q.getD fp32))

/-- VFREDSUM (R327). -/
def execVfredsum (sc : Sc) (rd rs1 rs2 : Reg) (m : BitVec 3) (s : State) : Out := s.vfsum false sc rd rs1 rs2 m
/-- VFREDMAX (R327). -/
def execVfredmax (sc : Sc) (rd rs1 rs2 : Reg) (m : BitVec 3) (s : State) : Out := s.vfmaxRed false sc rd rs1 rs2 m
/-- VFREDSUM.bf16 (R327). -/
def execVfredsumBf16 (sc : Sc) (rd rs1 rs2 : Reg) (m : BitVec 3) (s : State) : Out := s.vfsum true sc rd rs1 rs2 m
/-- VFREDMAX.bf16 (R327). -/
def execVfredmaxBf16 (sc : Sc) (rd rs1 rs2 : Reg) (m : BitVec 3) (s : State) : Out := s.vfmaxRed true sc rd rs1 rs2 m

/-! ## Permutes -/

/-- A permute whose elements have width SEW: element `i` is element `src i` of the group `b`, or 0 where there is none. -/
def State.vperm (s : State) (ok : Bool) (sc : Sc) (xs : List Reg) (vs : List Nat) (ms : List Nat) (d b : Reg) (els : List Nat)
    (more : Nat → List (Nat × Nat × Nat)) (src : Nat → Option Nat) (at0 whole : Bool) (fin : Hart → Hart) : Out :=
  let h := s.hart
  let w := h.sew
  let e8 := h.lm8
  s.vlegal sc (ok && groupOk b e8 && groupOk d e8)
    (s.vrun { sc := sc, xs := xs, vs := vs ++ groupRegs b e8, ds := groupRegs d e8, ms := ms, whole := whole, els := els,
              reads := fun i => more i ++ (match src i with | some j => [(b.toNat, w, j)] | none => []),
              comp := fun i _ => (match src i with | some j => h.vel b.toNat w j | none => 0, 0, 0),
              put := fun h l => h.putEls d w e8 l, fin := fin,
              psn := fun h l => h.poisonEls d w e8 l, unk := fun h => h.unkGroup d e8, at0 := at0 })

/-- VSLIDEUP (R329). -/
def execVslideup (sc : Sc) (rd rs1 rs2 : Reg) (m : BitVec 3) (s : State) : Out :=
  let h := s.hart
  let k := (h.kx rs1).toNat
  s.vperm (!groupsMeet rd h.lm8 rs2 h.lm8) sc [rs1] [] (maskOf m) rd rs2 ((h.actives m).filter (fun i => decide (k ≤ i)))
    (fun _ => []) (fun i => some (i - k)) false false id

/-- VSLIDEDN (R329). -/
def execVslidedn (sc : Sc) (rd rs1 rs2 : Reg) (m : BitVec 3) (s : State) : Out :=
  let h := s.hart
  let k := (h.kx rs1).toNat
  s.vperm true sc [rs1] [] (maskOf m) rd rs2 (h.actives m) (fun _ => [])
    (fun i => if i + k < h.vlmax then some (i + k) else none) false (h.whole m) id

/-- VRGATHER (R329). -/
def execVrgather (sc : Sc) (rd rs1 rs2 : Reg) (m : BitVec 3) (s : State) : Out :=
  let h := s.hart
  let e8 := h.lm8
  let w := h.sew
  s.vperm (groupOk rs1 e8 && !groupsMeet rd e8 rs1 e8 && !groupsMeet rd e8 rs2 e8) sc [] (groupRegs rs1 e8) (maskOf m) rd rs2
    (h.actives m) (fun i => [(rs1.toNat, w, i)])
    (fun i => let j := h.vel rs1.toNat w i; if j < h.vlmax then some j else none) false (h.whole m) id

/-- The elements below `vl` whose bit of a mask register is set, in order. -/
def Hart.setEls (h : Hart) (m : Nat) : List Nat := (upto h.vl).filter (h.mbit m)

/-- VCOMPRESS (R329): `rs1` names the mask. -/
def execVcompress (sc : Sc) (rd rs1 rs2 : Reg) (s : State) : Out :=
  let h := s.hart
  let l := h.setEls rs1.toNat
  s.vperm (decide (h.vstart = 0) && !groupsMeet rd h.lm8 rs2 h.lm8) sc [] [] (if rs1 = 0 then [] else [rs1.toNat]) rd rs2 (upto l.length)
    (fun _ => []) (fun j => some (l.getD j 0)) true false id

/-- VIOTA (R329): `rs1` names the mask. -/
def execViota (sc : Sc) (rd rs1 : Reg) (m : BitVec 3) (s : State) : Out :=
  let h := s.hart
  let w := h.sew
  let e8 := h.lm8
  s.vlegal sc (decide (h.vstart = 0) && groupOk rd e8)
    (s.vrun { sc := sc, ds := groupRegs rd e8, ms := (if rs1 = 0 then [] else [rs1.toNat]) ++ maskOf m, whole := h.whole m,
              els := h.actives0 m, reads := fun _ => [],
              comp := fun i c => (c % 2 ^ w, 0, c + b2n (h.mbit rs1.toNat i)),
              put := fun h l => h.putEls rd w e8 l,
              psn := fun h l => h.poisonEls rd w e8 l, unk := fun h => h.unkGroup rd e8, at0 := true })

/-- VID (R329). -/
def execVid (sc : Sc) (rd : Reg) (m : BitVec 3) (s : State) : Out :=
  let h := s.hart
  let w := h.sew
  let e8 := h.lm8
  s.vlegal sc (groupOk rd e8)
    (s.vrun { sc := sc, ds := groupRegs rd e8, ms := maskOf m, whole := h.whole m, els := h.actives m, reads := fun _ => [],
              comp := fun i _ => (i % 2 ^ w, 0, 0),
              put := fun h l => h.putEls rd w e8 l,
              fin := fun k => if h.whole m then k.retag rd e8 h.vsew (fun _ => true) else k,
              psn := fun h l => h.poisonEls rd w e8 l, unk := fun h => h.unkGroup rd e8 })

/-- VBCAST (R329). -/
def execVbcast (sc : Sc) (rd rs1 : Reg) (m : BitVec 3) (s : State) : Out :=
  let h := s.hart
  s.vperm true sc [] [] (maskOf m) rd rs1 (h.actives m) (fun _ => []) (fun _ => some 0) false (h.whole m)
    (fun k => if h.whole m then k.retag rd h.lm8 h.vsew (fun _ => true) else k)

/-- VEXT (R329): `vl`, `vstart` and the mask are ignored. -/
def execVext (sc : Sc) (rd rs1 rs2 : Reg) (_m : BitVec 3) (s : State) : Out :=
  let h := s.hart
  let w := h.sew
  let i := (h.kx rs1).toNat
  s.vlegal sc (groupOk rs2 h.lm8)
    (s.vone { sc := sc, xs := [rs1], vs := groupRegs rs2 h.lm8, reads := if i < h.vlmax then [(rs2.toNat, w, i)] else [],
              eff := fun h => (h.wx rd (.known (if i < h.vlmax then BitVec.ofInt 64 (sInt w (h.vel rs2.toNat w i)) else 0)), 0),
              unk := fun h => h.wx rd .unknown, vs0 := false, xd := some rd })

/-- VINS (R329): the field of `vs2` names the `x` register of the index. -/
def execVins (sc : Sc) (rd rs1 rs2 : Reg) (m : BitVec 3) (s : State) : Out :=
  let h := s.hart
  let w := h.sew
  let i := (h.kx rs2).toNat
  s.vlegal sc (groupOk rd h.lm8)
    (s.vone { sc := sc, xs := [rs1, rs2], ds := groupRegs rd h.lm8, ms := maskOf m, reads := [],
              eff := fun h =>
                (if i < h.vlmax ∧ h.active m i then h.putEls rd w h.lm8 [(i, (h.kx rs1).toNat % 2 ^ w)] else h, 0),
              unk := fun h => h.unkGroup rd h.lm8, vs0 := false })

/-! ## Masks (R330) -/

/-- A mask instruction: bit `i` from the source bits. -/
def State.vmask (s : State) (sc : Sc) (d a b : Reg) (f : Bool → Bool → Bool) : Out :=
  let h := s.hart
  s.vlegal sc true
    (s.vrun { sc := sc, ms := ([a, b].filter (fun r => decide (r ≠ 0))).map (·.toNat), els := h.actives 0, reads := fun _ => [],
              comp := fun i _ => (b2n (f (h.mbit a.toNat i) (h.mbit b.toNat i)), 0, 0),
              put := fun h l => h.putBits d.toNat l,
              fin := fun k => k.knownMask d.toNat (h.whole 0),
              unk := fun h => h.unkMask d.toNat })

/-- MAND (R330). -/
def execMand (sc : Sc) (rd rs1 rs2 : Reg) (s : State) : Out := s.vmask sc rd rs1 rs2 (fun a b => a && b)
/-- MOR (R330). -/
def execMor (sc : Sc) (rd rs1 rs2 : Reg) (s : State) : Out := s.vmask sc rd rs1 rs2 (fun a b => a || b)
/-- MXOR (R330). -/
def execMxor (sc : Sc) (rd rs1 rs2 : Reg) (s : State) : Out := s.vmask sc rd rs1 rs2 (fun a b => a != b)
/-- MNOT (R330). -/
def execMnot (sc : Sc) (rd rs1 : Reg) (s : State) : Out := s.vmask sc rd rs1 rs1 (fun a _ => !a)

/-- A count over a mask into an `x` register. -/
def State.vcount (s : State) (sc : Sc) (rd rs1 : Reg) (f : List Nat → W64) : Out :=
  s.vlegal sc true
    (s.vone { sc := sc, ms := if rs1 = 0 then [] else [rs1.toNat], reads := [],
              eff := fun h => (h.wx rd (.known (f (h.setEls rs1.toNat))), 0), unk := fun h => h.wx rd .unknown, xd := some rd })

/-- MPOPC (R330). -/
def execMpopc (sc : Sc) (rd rs1 : Reg) (s : State) : Out := s.vcount sc rd rs1 (fun l => BitVec.ofNat 64 l.length)
/-- MFIRST (R330): all ones where no bit is set. -/
def execMfirst (sc : Sc) (rd rs1 : Reg) (s : State) : Out :=
  s.vcount sc rd rs1 (fun l => match l with | i :: _ => BitVec.ofNat 64 i | [] => 0xffffffffffffffff#64)

end Sys2Proof.Machine
end

