-- ==== Sys2Proof/Machine/VectorMem.lean ====
section
/-! DEFINITION. Vector memory instructions (R155 to R157, R336 to R344): the checks of every element at issue, the entry in the
vector queue, and the events by which its elements are performed. -/
namespace Sys2Proof.Machine

/-! ## Elements -/

/-- An element's access: its index and address, what it reads of the vector file for its address and for its data, and the
value it stores. For elements below 8 bits it stands for a byte: its index is that of the byte's lowest active element, and `val` of
a load marks the active ones (R338). -/
structure VAcc where
  idx : Nat
  va : W64
  areads : List (Nat × Nat × Nat) := []
  dreads : List (Nat × Nat × Nat) := []
  val : W64 := 0

/-- A vector memory instruction once it is legal: `ix` gives an element's indices (R182). -/
structure VMem where
  sc : Sc
  load : Bool
  xs : List Reg
  vs : List Nat := []
  data : List Nat := []
  ds : List Nat := []
  ms : List Nat
  cu : BitVec 3 := 1
  whole : Bool := false
  vd : Reg
  e8 : Nat
  scope : Nat
  free : Bool
  ix : Nat → Vector W64 3
  accs : List VAcc
  slide : Hart → Hart := id

/-- Bytes of an element's access. -/
def Hart.vbytes (h : Hart) : Nat := max 1 (h.sew / 8)

/-- The place of an element's access: range, window, bank (R12, R16, R62, R339). -/
def State.vplace (s : State) (va : W64) (n : Nat) (load : Bool) : Except Flt (Nat × BitVec 2 × Win) :=
  match issue s.myCtx s.hart.level va n (if load then .read else .write) with
  | .error f => .error f
  | .ok (ia, attr) => match s.plainWindow va ia n attr with
    | .error f => .error f
    | .ok w =>
      if (match w with | .sram c off => !s.sramAllows c off n (if load then .load else .store) | _ => false) then
        .error { code := 0x30, tval := va, ia := ia }
      else .ok (ia, attr, w)

/-- An element translated whole (R35). -/
def State.vtranslate (s : State) (va : W64) (n : Nat) (load : Bool) : State × Got (Nat × BitVec 2 × Win) :=
  match s.vplace va n load with
  | .error f => (s, .fault f)
  | .ok (ia, attr, w) => match w with
    | .trans => match s.pieces s.me va ia n (if load then .read else .write) with
      | (s, .ok _) => (s, .ok (ia, attr, w))
      | (s, .fault f) => (s, .fault f)
      | (s, .hold) => (s, .hold)
    | w => (s, .ok (ia, attr, w))

/-- An element keeps the order of its stream: a device access, or one to a cluster's SRAM window (R63, R159). -/
def strictWin (attr : BitVec 2) (w : Win) : Bool :=
  decide (attr = 3) || (match w with | .sram _ _ => true | _ => false)

/-! ## Performing an element -/

/-- The value a load brings is written into its elements; poisoned bytes leave them poisoned (R445, R448). -/
def Hart.vland (h : Hart) (e : VQEntry) (x : VElem) (l : List Taken) : Hart :=
  let r : Reg := BitVec.ofNat 5 e.vd
  let bad := l.any (fun t => t.2.isSome)
  let v := ofBytesLE (l.map (·.1))
  let els : List (Nat × Nat) :=
    if 8 ≤ e.sew then [(x.idx, v)]
    else ((upto (8 / e.sew)).filter (fun k => x.val.getLsbD k)).map (fun k =>
        (x.idx / (8 / e.sew) * (8 / e.sew) + k, v / 2 ^ (e.sew * k) % 2 ^ e.sew))
  if bad then els.foldl (fun h q => h.poisonEl r.toNat e.sew q.1) h
  else els.foldl (fun h q => h.putEl r.toNat e.sew q.1 q.2) h

/-- An element of an entry performed by the hart that steps. False: it must wait; an element of an ordered store waits until the updates of
the elements before it are acknowledged (R155, R171). One that meets a fault after its trap point is a machine check of the memory side
(R185): a load leaves poison, a store is lost, and the log says so. -/
def State.vperform (s : State) (e : VQEntry) (x : VElem) : State × Bool :=
  let lost (s : State) : State × Bool :=
    let s := s.logEvent (stackOf s.hart.place) 6 0 0 x.ia
    (if e.load then s.upd (fun h => h.vland e x [(0, some 0)]) else s, true)
  let w := { s.me with vec := true, after := if e.free then [] else e.lines }
  match s.window x.va x.ia e.bytes x.attr with
  | .error _ => lost s
  | .ok win =>
    if e.load then
      match s.loadAt w x.va x.ia e.bytes x.attr win e.scope .read with
      | (s, .ok l) => (s.upd (fun h => h.vland e x l), true)
      | (s, .fault _) => lost s
      | (s, .hold) => (s, false)
    else if !e.free && s.unacked w true then (s, false)
    else
      match s.storeAt w x.va x.ia x.attr win e.scope (bytesLE e.bytes x.val.toNat) s.hart.gen with
      | (s, .ok _) => (s, true)
      | (s, .fault _) => lost s
      | (s, .hold) => (s, false)

/-! ## Issue -/

/-- What the checks of the elements come to: all passed, with the accesses and whether one is strict; the first that stops, with
those below it; or a wait. -/
inductive VPlan where
  | ok (l : List VElem) (strict : Bool)
  | fault (l : List VElem) (strict : Bool) (at_ : Nat) (f : Flt) (rest : List VAcc)
  | poison (l : List VElem) (strict : Bool) (at_ : Nat) (tval : W64)
  | hold

/-- The misses of the elements after one that waits for its walk join its batch (R30). -/
def State.vforesee (s : State) (n : Nat) (load : Bool) (l : List VAcc) : State :=
  l.foldl (fun t a => match t.vplace a.va n load with
    | .ok (ia, _, .trans) => t.foresee t.me ia n
    | _ => t) s

/-- The elements checked in order (R36): address poison, the causes of R34, then data poison (R437, R446). -/
def State.vplan (s : State) (n : Nat) (load : Bool) : List VAcc → List VElem → Bool → State × VPlan
  | [], l, b => (s, .ok l.reverse b)
  | a :: t, l, b =>
    match s.hart.readsPoison a.areads with
    | some (r, e) => (s, .poison l.reverse b a.idx (poisonTval r e))
    | none => match s.vtranslate a.va n load with
      | (s, .hold) => (s.vforesee n load t, .hold)
      | (s, .fault f) => (s, .fault l.reverse b a.idx f t)
      | (s, .ok (ia, attr, w)) => match s.hart.readsPoison a.dreads with
        | some (r, e) => (s, .poison l.reverse b a.idx (poisonTval r e))
        | none => State.vplan s n load t ({ idx := a.idx, va := a.va, ia := ia, attr := attr, val := a.val } :: l) (b || strictWin attr w)

/-- An ordered store has written an element's lines (R155). -/
def VQEntry.wrote (e : VQEntry) (x : VElem) : VQEntry :=
  if e.load || e.free || decide (3 ≤ e.scope) || decide (2 ^ 48 ≤ x.ia) then e
  else { e with lines := nins ((x.ia + (e.bytes - 1)) / 128) (nins (x.ia / 128) e.lines) }

/-- The elements below the one that stops are performed now, in order; at one that must wait the instruction stands there, once what it has
written before has reached its homes. -/
def State.vlower (s : State) (e : VQEntry) : List VElem → State × Option Nat
  | [] => (s, none)
  | x :: l => match s.vperform e x with
    | (s, true) => State.vlower s (e.wrote x) l
    | (s, false) => ((s.afterReady { s.me with after := e.lines }).1, some x.idx)

/-- Kinds of a vector access in a record (R42). -/
def vkind (load : Bool) : BitVec 5 := kVector ||| (if load then kRead else kWrite)

/-- The elements of an instruction in run-ahead (R39): loads are performed, stores only checked. Where one must wait, the instruction does, from `s0`. -/
def State.vahead (s0 s : State) (v : VMem) (e : VQEntry) : List VAcc → Flow Unit
  | [] => .go s ()
  | a :: t =>
    let lose (s : State) : State := if v.load then s.upd (fun h => h.unkGroup v.vd v.e8) else s
    if (s.hart.readsPoison a.areads).isSome then .out (s.stopAhead 4)
    else match s.vplace a.va e.bytes v.load with
      | .error f => match s.faulted f (vkind v.load) with
        | .out o => .out o
        | .skip s => State.vahead s0 (lose s) v e t
        | .go s _ => State.vahead s0 (lose s) v e t
      | .ok (ia, attr, w) =>
        if v.load then
          if attr = 3 ∨ s.fifoWin w then State.vahead s0 (lose s) v e t
          else match s.loadAt s.me a.va ia e.bytes attr w v.scope .read with
            | (s, .hold) => .out (.next (s0.keepWaits s))
            | (s, .fault f) => (match s.faulted f (vkind true) with
              | .out o => .out o
              | .skip s => State.vahead s0 (lose s) v e t
              | .go s _ => State.vahead s0 (lose s) v e t)
            | (s, .ok l) =>
              if l.any (fun q => q.2.isSome) then .out (s.stopAhead 4)
              else State.vahead s0 (s.upd (fun h => h.vland e { idx := a.idx, va := a.va, ia := ia, attr := attr, val := a.val } l)) v e t
        else match s.storeAhead a.va ia w (vkind false) with
          | .out o => .out o
          | .skip s => State.vahead s0 s v e t
          | .go s _ => State.vahead s0 s v e t

/-- The instruction completes: `vstart` is 0 (R212). -/
def State.vend (s : State) : Out := .next ((s.upd (fun h => { h with vstart := 0 })).retire)

/-- Accesses that are still to be performed enter the vector queue (R183). -/
def State.vqueue (s : State) (e : VQEntry) : State :=
  if e.elems = [] then s
  else (s.upd (fun h => { h with vq := h.vq ++ [e] })).postOnce (.vectorTrapPoint s.hart.place)

/-- The instruction stops at element `i`, the elements below it performed (R36, R182). -/
def State.vstop (s : State) (v : VMem) (e : VQEntry) (l : List VElem) (i : Nat) (k : State → Out) : Out :=
  let touched (s : State) : State := if v.load && !l.isEmpty then s.upd (fun h => h.onRegs (groupRegs v.vd v.e8) VReg.asG) else s
  if s.hart.vq ≠ [] then s.stall
  else match (touched (s.upd v.slide)).vlower e l with
    | (s, some j) => .next (s.upd (fun h => { h with vstart := BitVec.ofNat 14 j }))
    | (s, none) => k (s.upd (fun h => { h with vstart := BitVec.ofNat 14 i, didx := v.ix i }))

/-- A vector memory instruction (R337): its operands' producers are bound first (R145, R152), and one that meets a held page waits in the queue
(R185). A load's destination takes tag G (R202). In run-ahead an unknown address is skipped; unknown store data or an unknown destination is
not (R39), and what an unknown destination keeps stays unknown. -/
def State.vmem (s : State) (v : VMem) : Out :=
  let s0 := s
  let n := s.hart.vbytes
  let e : VQEntry := { load := v.load, vd := v.vd.toNat, sew := s.hart.sew, bytes := n, scope := v.scope, elems := [],
                       free := v.free, strict := false }
  let fresh (s : State) : State := if v.load && v.whole then s.upd (fun h => h.onRegs v.ds (fun q => { q with unk := false })) else s
  let ahead (s : State) : Out := match State.vahead s0 (fresh (if v.load && !v.accs.isEmpty then s.upd (fun h => h.onRegs (groupRegs v.vd v.e8) VReg.asG) else s)) v e v.accs with
    | .go s _ => s.vend
    | .skip s => s.vend
    | .out o => o
  let touched (s : State) : State := if v.load && !v.accs.isEmpty then s.upd (fun h => h.onRegs (groupRegs v.vd v.e8) VReg.asG) else s
  match s.vready v.sc v.xs (v.vs ++ v.data) v.ds v.ms v.cu v.whole with
  | .out o => o
  | .skip s =>
    if v.xs.any (fun r => decide (s.hart.rx r = .unknown)) || v.vs.any (fun r => (s.hart.vreg r).unk) ||
        v.ms.any (fun m => s.hart.mUnk.getLsbD m) || decide (s.hart.cUnk &&& v.cu ≠ 0) then
      (if v.load then s.upd (fun h => h.unkGroup v.vd v.e8) else s).vend
    else ahead s
  | .go s _ =>
    if s.inAhead then ahead (s.upd v.slide)
    else if s.hart.depOf v.xs ≠ 0 ∨ s.hart.vdep ≠ 0 then s.vdefer none
    else match s.vplan n v.load v.accs [] false with
      | (s, .hold) => s.vdefer none
      | (s, .ok l b) => ((touched (s.upd v.slide)).vqueue { e with elems := l, strict := b }).vend
      | (s, .poison l _ i t) => s.vstop v e l i (fun s => s.trapHere 0x40 t)
      | (s, .fault l _ i f rest) => s.vstop v e l i (fun s =>
          match s.faulted f (vkind v.load) with
          | .out o => o
          | .go s _ => .next s
          | .skip s => match State.vahead s0 (if v.load then s.upd (fun h => h.unkGroup v.vd v.e8) else s) v e rest with
            | .go s _ => s.vend
            | .skip s => s.vend
            | .out o => o)

/-! ## Address forms (R336, R338, R343) -/

/-- The indices of a one-dimensional instruction (R182). -/
def ix1 (i : Nat) : Vector W64 3 := #v[BitVec.ofNat 64 i, 0, 0]

/-- The dimensions of a sweep; a length of 0 acts under R212. -/
def Hart.dim (h : Hart) (d : Nat) : Nat :=
  let n := ((h.dlen[d]?).getD 0).toNat
  if n ≠ 0 then n else if d = 0 then max 1 h.vl else 1

/-- An element's indices in the sweep (R181). -/
def Hart.ix3 (h : Hart) (e : Nat) : Vector W64 3 :=
  #v[BitVec.ofNat 64 (e % h.dim 0), BitVec.ofNat 64 (e / h.dim 0 % h.dim 1), BitVec.ofNat 64 (e / (h.dim 0 * h.dim 1))]

/-- An element's address in the sweep (R181). -/
def Hart.sweep (h : Hart) (base : W64) (e : Nat) : W64 :=
  let i := h.ix3 e
  base + i[0] * h.dstr[0] + i[1] * h.dstr[1] + i[2] * h.dstr[2]

/-- The accesses of elements of 8 bits or more at the addresses `f`. -/
def Hart.accsAt (h : Hart) (load : Bool) (vd : Reg) (els : List Nat) (f : Nat → W64) (rd : Nat → List (Nat × Nat × Nat)) : List VAcc :=
  els.map (fun i =>
    if load then { idx := i, va := f i, areads := rd i }
    else { idx := i, va := f i, areads := rd i, dreads := [(vd.toNat, h.sew, i)], val := BitVec.ofNat 64 (h.vel vd.toNat h.sew i) })

/-- The bytes that hold elements narrower than 8 bits (R338), each with its active elements; a store's are whole. -/
def Hart.accsPacked (h : Hart) (load : Bool) (vd : Reg) (els : List Nat) (base : W64) : List VAcc :=
  let p := 8 / h.sew
  let bytes := els.foldl (fun l i => nins (i / p) l) []
  bytes.map (fun b =>
    let on := (upto p).filter (fun k => nmem (b * p + k) els)
    let va := base + BitVec.ofNat 64 b
    let idx := b * p + (on.head?).getD 0
    if load then { idx := idx, va := va, val := BitVec.ofNat 64 ((on.map (fun k => 2 ^ k)).foldl (· + ·) 0) }
    else { idx := idx, va := va, dreads := on.map (fun k => (vd.toNat, h.sew, b * p + k)),
           val := BitVec.ofNat 64 ((on.map (fun k => h.vel vd.toNat h.sew (b * p + k) * 2 ^ (h.sew * k))).foldl (· + ·) 0) })

/-- VLD and VST (R336, R338). -/
def State.vunit (s : State) (load : Bool) (sc : Sc) (rd rs1 : Reg) (p : BitVec 3) (free : Bool) (vm : BitVec 3) : Out :=
  let h := s.hart
  let w := h.sew
  let els := h.actives vm
  let packedOk := decide (8 ≤ w) || load || (decide (vm = 0) && decide (h.vstart.toNat * w % 8 = 0) && decide (h.vl * w % 8 = 0))
  let base := h.kx rs1
  let g := groupRegs rd h.lm8
  let accs := if 8 ≤ w then h.accsAt load rd els (fun i => base + BitVec.ofNat 64 (i * (w / 8))) (fun _ => [])
    else h.accsPacked load rd els base
  s.vlegal sc (packedOk && groupOk rd h.lm8)
    (s.vmem { sc := sc, load := load, xs := [rs1], data := if load then [] else g, ds := if load then g else [], ms := maskOf vm,
              whole := h.whole vm, vd := rd, e8 := h.lm8, scope := p.toNat, free := free, ix := ix1, accs := accs })

/-- VLDS and VSTS: the stride is signed, at 64 bits. -/
def State.vstrided (s : State) (load : Bool) (sc : Sc) (rd rs1 rs2 : Reg) (p : BitVec 3) (free : Bool) (vm : BitVec 3) : Out :=
  let h := s.hart
  let g := groupRegs rd h.lm8
  s.vlegal sc (decide (8 ≤ h.sew) && groupOk rd h.lm8)
    (s.vmem { sc := sc, load := load, xs := [rs1, rs2], data := if load then [] else g, ds := if load then g else [], ms := maskOf vm,
              whole := h.whole vm, vd := rd, e8 := h.lm8, scope := p.toNat, free := free, ix := ix1,
              accs := h.accsAt load rd (h.actives vm) (fun i => h.kx rs1 + BitVec.ofNat 64 i * h.kx rs2) (fun _ => []) })

/-- VLDX and VSTX: signed byte offsets. -/
def State.vindexed (s : State) (load : Bool) (sc : Sc) (rd rs1 rs2 : Reg) (p : BitVec 3) (free : Bool) (vm : BitVec 3) : Out :=
  let h := s.hart
  let w := h.sew
  let g := groupRegs rd h.lm8
  s.vlegal sc (decide (8 ≤ w) && groupOk rd h.lm8 && groupOk rs2 h.lm8 && (!load || !groupsMeet rd h.lm8 rs2 h.lm8))
    (s.vmem { sc := sc, load := load, xs := [rs1], vs := groupRegs rs2 h.lm8, data := if load then [] else g, ds := if load then g else [],
              ms := maskOf vm, whole := h.whole vm, vd := rd, e8 := h.lm8, scope := p.toNat, free := free, ix := ix1,
              accs := h.accsAt load rd (h.actives vm) (fun i => h.kx rs1 + BitVec.ofInt 64 (sInt w (h.vel rs2.toNat w i)))
                (fun i => [(rs2.toNat, w, i)]) })

/-- VLDM and VSTM (R343): elements past the third dimension are not accessed. -/
def State.vtile (s : State) (load : Bool) (sc : Sc) (rd rs1 : Reg) (p : BitVec 3) (free : Bool) (vm : BitVec 3) : Out :=
  let h := s.hart
  let g := groupRegs rd h.lm8
  let els := (h.actives vm).filter (fun e => decide (e / (h.dim 0 * h.dim 1) < h.dim 2))
  s.vlegal sc (decide (8 ≤ h.sew) && groupOk rd h.lm8)
    (s.vmem { sc := sc, load := load, xs := [rs1], data := if load then [] else g, ds := if load then g else [], ms := maskOf vm,
              cu := 3, whole := h.whole vm && decide (els.length = h.vl), vd := rd, e8 := h.lm8, scope := p.toNat, free := free, ix := h.ix3,
              accs := h.accsAt load rd els (h.sweep (h.kx rs1)) (fun _ => []) })

/-- VLD (R337). -/
def execVld (sc : Sc) (rd rs1 : Reg) (p m : BitVec 3) (s : State) : Out := s.vunit true sc rd rs1 p true m
/-- VLDS (R337). -/
def execVlds (sc : Sc) (rd rs1 rs2 : Reg) (p m : BitVec 3) (s : State) : Out := s.vstrided true sc rd rs1 rs2 p true m
/-- VLDX (R337). -/
def execVldx (sc : Sc) (rd rs1 rs2 : Reg) (p m : BitVec 3) (s : State) : Out := s.vindexed true sc rd rs1 rs2 p true m
/-- VST (R337). -/
def execVst (sc : Sc) (rd rs1 : Reg) (p : BitVec 3) (u : BitVec 1) (m : BitVec 3) (s : State) : Out :=
  s.vunit false sc rd rs1 p (decide (u = 1)) m
/-- VSTS (R337). -/
def execVsts (sc : Sc) (rd rs1 rs2 : Reg) (p : BitVec 3) (u : BitVec 1) (m : BitVec 3) (s : State) : Out :=
  s.vstrided false sc rd rs1 rs2 p (decide (u = 1)) m
/-- VSTX (R337). -/
def execVstx (sc : Sc) (rd rs1 rs2 : Reg) (p : BitVec 3) (u : BitVec 1) (m : BitVec 3) (s : State) : Out :=
  s.vindexed false sc rd rs1 rs2 p (decide (u = 1)) m
/-- VLDM (R343). -/
def execVldm (sc : Sc) (rd rs1 : Reg) (p m : BitVec 3) (s : State) : Out := s.vtile true sc rd rs1 p true m
/-- VSTM (R343). -/
def execVstm (sc : Sc) (rd rs1 : Reg) (p : BitVec 3) (u : BitVec 1) (m : BitVec 3) (s : State) : Out :=
  s.vtile false sc rd rs1 p (decide (u = 1)) m

/-! ## Slide and refill (R344) -/

/-- The register slide: elements 0 to `n` − 1 of a group take those `k` above, up to the first that reads poison. -/
def Hart.slideDown (h : Hart) (r : Reg) (e8 k : Nat) (els : List Nat) : Hart :=
  h.putEls r h.sew e8 (els.map (fun i => (i, h.vel r.toNat h.sew (i + k))))

/-- VSLD (R344). -/
def execVsld (sc : Sc) (rd rs1 rs2 : Reg) (p : BitVec 3) (s : State) : Out :=
  let h := s.hart
  let w := h.sew
  let e8 := h.lm8
  let k := min (h.kx rs2).toNat h.vl
  let slides := h.vstart = 0 ∧ k ≠ 0
  let lows := if slides then upto (h.vl - k) else []
  let first := if h.vstart = 0 then h.vl - k else max h.vstart.toNat (h.vl - k)
  let accs := h.accsAt true rd (upFrom first (h.vl - first)) (fun i => h.kx rs1 + BitVec.ofNat 64 (i * (w / 8))) (fun _ => [])
  let good := lows.takeWhile (fun i => !h.velPsn rd.toNat w (i + k))
  let v : VMem := { sc := sc, load := true, xs := [rs1, rs2], ds := groupRegs rd e8, ms := [], vd := rd, e8 := e8, scope := p.toNat,
                    free := true, ix := ix1, accs := accs, slide := fun h => h.slideDown rd e8 k good }
  s.vlegal sc (decide (8 ≤ w) && groupOk rd e8)
    (if good.length = lows.length then s.vmem v
     else match s.vready sc [rs1, rs2] [] (groupRegs rd e8) [] 1 false with
       | .out o => o
       | .skip s => (s.upd (fun h => h.unkGroup rd e8)).vend
       | .go s _ => (s.upd (fun h => (v.slide h).stopAt good.length)).vcheck 0x40 (poisonTval rd.toNat (good.length + k)))

/-! ## Events -/

/-- Two accesses share a byte. -/
def VElem.meets (x : VElem) (n : Nat) (y : VElem) (m : Nat) : Bool := Sys2Proof.Machine.meets x.ia n y.ia m

/-- An element of an entry may be performed: no fence stands before it in the queue (R144), nothing before it shares a byte with it or keeps
an order with it, and its own entry's order allows it (R63, R155 to R157, R159). The elements of one load have no order (R157). -/
def vqReady (before : List VQEntry) (e : VQEntry) (k : Nat) (x : VElem) : Bool :=
  before.all (fun b => b.fence.isNone && !(b.strict && e.strict) && b.elems.all (fun y => !x.meets e.bytes y b.bytes)) &&
    (decide (k = 0) || (e.free && !e.strict && (e.load || (e.elems.take k).all (fun y => !x.meets e.bytes y e.bytes))))

/-- The position of the element of entry `e` that is tried next. -/
def State.vqPick (s : State) (before : List VQEntry) (e : VQEntry) : Nat :=
  let k := if e.free && !e.strict then Config.element s.moves % e.elems.length else 0
  match e.elems[k]? with
  | some x => if vqReady before e k x then k else 0
  | none => 0

/-- An element of the entry at position `j` of the queue is performed if it may be, and leaves the queue; with its last element
the entry does. -/
def State.vqServe (s : State) (j : Nat) : State :=
  match s.hart.vq[j]? with
  | none => s
  | some e =>
    let before := s.hart.vq.take j
    let k := s.vqPick before e
    match e.elems[k]? with
    | none => s.upd (fun h => { h with vq := h.vq.eraseIdx j })
    | some x =>
      if !vqReady before e k x then s
      else match s.vperform e x with
        | (s, false) => s
        | (s, true) =>
          let l := e.elems.eraseIdx k
          s.upd (fun h => { h with vq := if l = [] then h.vq.eraseIdx j else h.vq.set j { e.wrote x with elems := l } })

/-- A `fence.sv` leaves the queue once the symbolic loads before it are bound and the scalar stream's writes are performed at its scope
(R144, R172). -/
def State.vqFence (s : State) (j : Nat) : State :=
  match (s.hart.vq[j]?).bind (fun e => e.fence.map (fun ids => (e, ids))) with
  | none => s
  | some (e, ids) =>
    if s.hart.symReqs.any (fun i => nmem i ids) then s
    else match s.release s.me e.scope with
      | (s, false) => s
      | (s, true) => (s.acquire s.me e.scope).upd (fun h => { h with vq := h.vq.eraseIdx j })

/-- VECTOR_TRAP_POINT (R185): a fence at which the queue waits ends if it may; then the oldest entry that has not passed its trap point passes
it; else a store performs its next element. -/
def execVectorTrapPoint (place : Nat) (s : State) : Out :=
  let s := s.focus place
  if s.hart.place ≠ place then .next s
  else
    let s := match s.hart.vq.findIdx? (fun e => e.fence.isSome) with
      | some j => s.vqFence j
      | none => s
    let more (s : State) : Bool := s.hart.vq.any (fun e => !e.tp || !e.load || e.fence.isSome)
    match s.hart.vq.findIdx? (fun e => !e.tp) with
    | some j =>
      let isLoad := ((s.hart.vq[j]?).map (·.load)).getD false
      let s := s.upd (fun h => { h with vq := h.vq.modify j (fun e => { e with tp := true }) })
      let s := if isLoad then s.postOnce (.vectorLoadData place) else s
      .next (if more s then s.postOnce (.vectorTrapPoint place) else s)
    | none => match s.hart.vq.findIdx? (fun e => !e.load) with
      | none => .next (if more s then s.postOnce (.vectorTrapPoint place) else s)
      | some j =>
        let s := s.vqServe j
        .next (if more s then s.postOnce (.vectorTrapPoint place) else s)

/-- VECTOR_LOAD_DATA (R340): an element of a load that has passed its trap point arrives. -/
def execVectorLoadData (place : Nat) (s : State) : Out :=
  let s := s.focus place
  if s.hart.place ≠ place then .next s
  else
    let due (e : VQEntry) : Bool := e.load && e.tp && e.late.isNone && e.fence.isNone
    let cand := (upto s.hart.vq.length).filter (fun j => ((s.hart.vq[j]?).map due).getD false)
    match cand[Config.element s.moves % cand.length]? with
    | none => .next s
    | some j =>
      let s := s.vqServe j
      .next (if s.hart.vq.any due then s.postOnce (.vectorLoadData place) else s)

end Sys2Proof.Machine
end

