-- ==== Sys2Proof/Machine/Dispatch.lean ====
section
/-! DEFINITION. One arm per instruction: a direct call of its meaning. -/
namespace Sys2Proof.Machine

def exec (i : Instr) (s : State) : Host.Outcome State Fault Refusal :=
  match i with
  | .registerWrite off val lvl => Sys2Proof.Machine.execRegisterWrite off val lvl s
  | .regionDescriptorWrite r val => Sys2Proof.Machine.execRegionDescriptorWrite r val s
  | .tcinvWrite stack val => Sys2Proof.Machine.execTcinvWrite stack val s
  | .tcinvRead stack => Sys2Proof.Machine.execTcinvRead stack s
  | .tcinvInvalidationDone stack => Sys2Proof.Machine.execTcinvInvalidationDone stack s
  | .migctlHold stack ix val => Sys2Proof.Machine.execMigctlHold stack ix val s
  | .migctlHoldGranted stack ix => Sys2Proof.Machine.execMigctlHoldGranted stack ix s
  | .migctlDrained stack ix => Sys2Proof.Machine.execMigctlDrained stack ix s
  | .migctlRelease stack ix => Sys2Proof.Machine.execMigctlRelease stack ix s
  | .homeAccess req => Sys2Proof.Machine.execHomeAccess req s
  | .walkBatchClose stack => Sys2Proof.Machine.execWalkBatchClose stack s
  | .walkGatherDone stack => Sys2Proof.Machine.execWalkGatherDone stack s
  | .accessResponse req => Sys2Proof.Machine.execAccessResponse req s
  | .faultResponse req => Sys2Proof.Machine.execFaultResponse req s
  | .runAheadStop place reason => Sys2Proof.Machine.execRunAheadStop place reason s
  | .retirementThreshold stack frame => Sys2Proof.Machine.execRetirementThreshold stack frame s
  | .lineFill cluster line => Sys2Proof.Machine.execLineFill cluster line s
  | .writebackArrival cluster line => Sys2Proof.Machine.execWritebackArrival cluster line s
  | .writebackAck cluster => Sys2Proof.Machine.execWritebackAck cluster s
  | .sbcfgWrite cluster bank val => Sys2Proof.Machine.execSbcfgWrite cluster bank val s
  | .bankTransitionDone cluster bank => Sys2Proof.Machine.execBankTransitionDone cluster bank s
  | .sramWindowAccess req => Sys2Proof.Machine.execSramWindowAccess req s
  | .atomicEngineAccept cluster => Sys2Proof.Machine.execAtomicEngineAccept cluster s
  | .atomicEngineOp cluster line => Sys2Proof.Machine.execAtomicEngineOp cluster line s
  | .homeAtomicOp req => Sys2Proof.Machine.execHomeAtomicOp req s
  | .lanternWindowAccess req => Sys2Proof.Machine.execLanternWindowAccess req s
  | .vbusBeatGrant stack bus => Sys2Proof.Machine.execVbusBeatGrant stack bus s
  | .replicaUpdateOrder req => Sys2Proof.Machine.execReplicaUpdateOrder req s
  | .replicaUpdateApply stack => Sys2Proof.Machine.execReplicaUpdateApply stack s
  | .replicaStoreAck upd => Sys2Proof.Machine.execReplicaStoreAck upd s
  | .bankProbe cmd => Sys2Proof.Machine.execBankProbe cmd s
  | .bankProbeAnswer cmd => Sys2Proof.Machine.execBankProbeAnswer cmd s
  | .invocationArrival inv => Sys2Proof.Machine.execInvocationArrival inv s
  | .invocationStart die => Sys2Proof.Machine.execInvocationStart die s
  | .budgetExpiry inv => Sys2Proof.Machine.execBudgetExpiry inv s
  | .accessSlot bank => Sys2Proof.Machine.execAccessSlot bank s
  | .refresh bank => Sys2Proof.Machine.execRefresh bank s
  | .syndromeCorrection inv => Sys2Proof.Machine.execSyndromeCorrection inv s
  | .cpybDestWrite inv => Sys2Proof.Machine.execCpybDestWrite inv s
  | .scrubberVisit row => Sys2Proof.Machine.execScrubberVisit row s
  | .rowLockExpiry lock => Sys2Proof.Machine.execRowLockExpiry lock s
  | .bklockHeld lock => Sys2Proof.Machine.execBklockHeld lock s
  | .bpctlWrite die val => Sys2Proof.Machine.execBpctlWrite die val s
  | .energyTelemetryTick die => Sys2Proof.Machine.execEnergyTelemetryTick die s
  | .bkopComplete cmd => Sys2Proof.Machine.execBkopComplete cmd s
  | .bkcopyComplete cmd => Sys2Proof.Machine.execBkcopyComplete cmd s
  | .wickloadDieLoad die slot => Sys2Proof.Machine.execWickloadDieLoad die slot s
  | .gsctlWrite stack val => Sys2Proof.Machine.execGsctlWrite stack val s
  | .snapRequest => Sys2Proof.Machine.execSnapRequest s
  | .flipArrival unit => Sys2Proof.Machine.execFlipArrival unit s
  | .settleAck unit => Sys2Proof.Machine.execSettleAck unit s
  | .snapAnswer place => Sys2Proof.Machine.execSnapAnswer place s
  | .trackedWrite req => Sys2Proof.Machine.execTrackedWrite req s
  | .preserveRowCopied frame => Sys2Proof.Machine.execPreserveRowCopied frame s
  | .reserveFrameFreed frame => Sys2Proof.Machine.execReserveFrameFreed frame s
  | .reserveTimeout slot => Sys2Proof.Machine.execReserveTimeout slot s
  | .drainVisit slot block => Sys2Proof.Machine.execDrainVisit slot block s
  | .drainComplete slot => Sys2Proof.Machine.execDrainComplete slot s
  | .symbolResolve place slot => Sys2Proof.Machine.execSymbolResolve place slot s
  | .symbolPoison place slot => Sys2Proof.Machine.execSymbolPoison place slot s
  | .vectorTrapPoint place => Sys2Proof.Machine.execVectorTrapPoint place s
  | .vectorLoadData place => Sys2Proof.Machine.execVectorLoadData place s
  | .barrierArm copy => Sys2Proof.Machine.execBarrierArm copy s
  | .barrierTake copy => Sys2Proof.Machine.execBarrierTake copy s
  | .barrierArrive sig => Sys2Proof.Machine.execBarrierArrive sig s
  | .bwaitReturn place => Sys2Proof.Machine.execBwaitReturn place s
  | .bwaitTimeout place => Sys2Proof.Machine.execBwaitTimeout place s
  | .cbwaitReturn place => Sys2Proof.Machine.execCbwaitReturn place s
  | .cbwaitTimeout place => Sys2Proof.Machine.execCbwaitTimeout place s
  | .wfeWake place => Sys2Proof.Machine.execWfeWake place s
  | .wfeTimeout place => Sys2Proof.Machine.execWfeTimeout place s
  | .swaitWake place => Sys2Proof.Machine.execSwaitWake place s
  | .swaitTimeout place => Sys2Proof.Machine.execSwaitTimeout place s
  | .mldwBay op => Sys2Proof.Machine.execMldwBay op s
  | .mmaBay op => Sys2Proof.Machine.execMmaBay op s
  | .mmazBay op => Sys2Proof.Machine.execMmazBay op s
  | .mstaBay op => Sys2Proof.Machine.execMstaBay op s
  | .mchkBay op => Sys2Proof.Machine.execMchkBay op s
  | .mverBay op => Sys2Proof.Machine.execMverBay op s
  | .matrixOpComplete op => Sys2Proof.Machine.execMatrixOpComplete op s
  | .copyAccept copy => Sys2Proof.Machine.execCopyAccept copy s
  | .copyClassRound stack => Sys2Proof.Machine.execCopyClassRound stack s
  | .copyBufferReady copy => Sys2Proof.Machine.execCopyBufferReady copy s
  | .copyChunkComplete copy chunk => Sys2Proof.Machine.execCopyChunkComplete copy chunk s
  | .copyComplete copy => Sys2Proof.Machine.execCopyComplete copy s
  | .decrementArrival stack vf tag => Sys2Proof.Machine.execDecrementArrival stack vf tag s
  | .nodeFire node => Sys2Proof.Machine.execNodeFire node s
  | .schedulingTick stack => Sys2Proof.Machine.execSchedulingTick stack s
  | .nodeDispatch stack bind => Sys2Proof.Machine.execNodeDispatch stack bind s
  | .reservationOpen stack quad => Sys2Proof.Machine.execReservationOpen stack quad s
  | .nodeComplete node => Sys2Proof.Machine.execNodeComplete node s
  | .gangReady node => Sys2Proof.Machine.execGangReady node s
  | .gangStart node => Sys2Proof.Machine.execGangStart node s
  | .gangAck node => Sys2Proof.Machine.execGangAck node s
  | .gangNay node => Sys2Proof.Machine.execGangNay node s
  | .gangAckDeadline vf gang => Sys2Proof.Machine.execGangAckDeadline vf gang s
  | .gangGo node => Sys2Proof.Machine.execGangGo node s
  | .gangStartTick node => Sys2Proof.Machine.execGangStartTick node s
  | .gangLate node => Sys2Proof.Machine.execGangLate node s
  | .gangAbort node => Sys2Proof.Machine.execGangAbort node s
  | .gangTimeout node => Sys2Proof.Machine.execGangTimeout node s
  | .nakReceived sender => Sys2Proof.Machine.execNakReceived sender s
  | .replayBackoffExpiry sender => Sys2Proof.Machine.execReplayBackoffExpiry sender s
  | .preemptRequest place save => Sys2Proof.Machine.execPreemptRequest place save s
  | .preemptDrainDone place => Sys2Proof.Machine.execPreemptDrainDone place s
  | .preemptT1Expiry place => Sys2Proof.Machine.execPreemptT1Expiry place s
  | .preemptT2Expiry place => Sys2Proof.Machine.execPreemptT2Expiry place s
  | .contextSaveDone place => Sys2Proof.Machine.execContextSaveDone place s
  | .contextResume save place vlen => Sys2Proof.Machine.execContextResume save place vlen s
  | .qsubWrite vf val => Sys2Proof.Machine.execQsubWrite vf val s
  | .qstatWrite vf val lvl => Sys2Proof.Machine.execQstatWrite vf val lvl s
  | .mailboxRollback stack ix => Sys2Proof.Machine.execMailboxRollback stack ix s
  | .mailboxUnknownService stack ix => Sys2Proof.Machine.execMailboxUnknownService stack ix s
  | .firmwareRestart stack => Sys2Proof.Machine.execFirmwareRestart stack s
  | .watchdogExpiry stack hart => Sys2Proof.Machine.execWatchdogExpiry stack hart s
  | .rashbWrite stack val => Sys2Proof.Machine.execRashbWrite stack val s
  | .hdoorWrite stack core => Sys2Proof.Machine.execHdoorWrite stack core s
  | .interruptTake place => Sys2Proof.Machine.execInterruptTake place s
  | .stackFence stack => Sys2Proof.Machine.execStackFence stack s
  | .dieFence die => Sys2Proof.Machine.execDieFence die s
  | .fatalError why => Sys2Proof.Machine.execFatalError why s
  | .meshFlitCrcError stack port => Sys2Proof.Machine.execMeshFlitCrcError stack port s
  | .hostLinkTrained port cxl width gen => Sys2Proof.Machine.execHostLinkTrained port cxl width gen s
  | .hostMemRequest off wr data => Sys2Proof.Machine.execHostMemRequest off wr data s
  | .bisnpResponse line dirty data => Sys2Proof.Machine.execBisnpResponse line dirty data s
  | .hostSnoop addr => Sys2Proof.Machine.execHostSnoop addr s
  | .uioCompletion req psn => Sys2Proof.Machine.execUioCompletion req psn s
  | .uioTimeout req => Sys2Proof.Machine.execUioTimeout req s
  | .tokenBucketRefill stack vf => Sys2Proof.Machine.execTokenBucketRefill stack vf s
  | .vfFlr vf => Sys2Proof.Machine.execVfFlr vf s
  | .keygenWrite val => Sys2Proof.Machine.execKeygenWrite val s
  | .glowlineLinkTrained port peer pport => Sys2Proof.Machine.execGlowlineLinkTrained port peer pport s
  | .glowlineFlit port crcOk seq => Sys2Proof.Machine.execGlowlineFlit port crcOk seq s
  | .timebaseFlit port delta => Sys2Proof.Machine.execTimebaseFlit port delta s
  | .partReset => Sys2Proof.Machine.execPartReset s
  | .recoveryLoad => Sys2Proof.Machine.execRecoveryLoad s
  | .recoveryCommit => Sys2Proof.Machine.execRecoveryCommit s
  | .recoveryReset => Sys2Proof.Machine.execRecoveryReset s
  | .getVersion => Sys2Proof.Machine.execGetVersion s
  | .getCapabilities => Sys2Proof.Machine.execGetCapabilities s
  | .negotiateAlgorithms => Sys2Proof.Machine.execNegotiateAlgorithms s
  | .getDigests => Sys2Proof.Machine.execGetDigests s
  | .getCertificate => Sys2Proof.Machine.execGetCertificate s
  | .challenge => Sys2Proof.Machine.execChallenge s
  | .getMeasurements idx => Sys2Proof.Machine.execGetMeasurements idx s
  | .keyExchange => Sys2Proof.Machine.execKeyExchange s
  | .finish => Sys2Proof.Machine.execFinish s
  | .inputVoltageFault => Sys2Proof.Machine.execInputVoltageFault s
  | .powerThrottle => Sys2Proof.Machine.execPowerThrottle s
  | .illegalInstruction word => Sys2Proof.Machine.execIllegalInstruction word s
  | .instructionFetchFault cause tval => Sys2Proof.Machine.execInstructionFetchFault cause tval s
  | .inputVoltageRestored => Sys2Proof.Machine.execInputVoltageRestored s
  | .contextDestruction ctx => Sys2Proof.Machine.execContextDestruction ctx s
  | .uNop => Sys2Proof.Machine.execUNop s
  | .uAap d src => Sys2Proof.Machine.execUAap d src s
  | .uAp3 z y x => Sys2Proof.Machine.execUAp3 z y x s
  | .uNot d src => Sys2Proof.Machine.execUNot d src s
  | .uShl d src => Sys2Proof.Machine.execUShl d src s
  | .uShr d src => Sys2Proof.Machine.execUShr d src s
  | .uZr d => Sys2Proof.Machine.execUZr d s
  | .uOn d => Sys2Proof.Machine.execUOn d s
  | .uEcr d => Sys2Proof.Machine.execUEcr d s
  | .uCpyb n src => Sys2Proof.Machine.execUCpyb n src s
  | .uLoop e v => Sys2Proof.Machine.execULoop e v s
  | .uEnd k => Sys2Proof.Machine.execUEnd k s
  | .uPar r m v => Sys2Proof.Machine.execUPar r m v s
  | .uSig v => Sys2Proof.Machine.execUSig v s
  | .uWait k => Sys2Proof.Machine.execUWait k s
  | .uHalt v => Sys2Proof.Machine.execUHalt v s
  | .add sc rd rs1 rs2 => Sys2Proof.Machine.execAdd sc rd rs1 rs2 s
  | .sub sc rd rs1 rs2 => Sys2Proof.Machine.execSub sc rd rs1 rs2 s
  | .mul sc rd rs1 rs2 => Sys2Proof.Machine.execMul sc rd rs1 rs2 s
  | .mulh sc rd rs1 rs2 => Sys2Proof.Machine.execMulh sc rd rs1 rs2 s
  | .mulhn sc rd rs1 rs2 => Sys2Proof.Machine.execMulhn sc rd rs1 rs2 s
  | .div sc rd rs1 rs2 => Sys2Proof.Machine.execDiv sc rd rs1 rs2 s
  | .divn sc rd rs1 rs2 => Sys2Proof.Machine.execDivn sc rd rs1 rs2 s
  | .rem sc rd rs1 rs2 => Sys2Proof.Machine.execRem sc rd rs1 rs2 s
  | .remn sc rd rs1 rs2 => Sys2Proof.Machine.execRemn sc rd rs1 rs2 s
  | .andR sc rd rs1 rs2 => Sys2Proof.Machine.execAndR sc rd rs1 rs2 s
  | .orR sc rd rs1 rs2 => Sys2Proof.Machine.execOrR sc rd rs1 rs2 s
  | .xorR sc rd rs1 rs2 => Sys2Proof.Machine.execXorR sc rd rs1 rs2 s
  | .sll sc rd rs1 rs2 => Sys2Proof.Machine.execSll sc rd rs1 rs2 s
  | .srl sc rd rs1 rs2 => Sys2Proof.Machine.execSrl sc rd rs1 rs2 s
  | .sra sc rd rs1 rs2 => Sys2Proof.Machine.execSra sc rd rs1 rs2 s
  | .slt sc rd rs1 rs2 => Sys2Proof.Machine.execSlt sc rd rs1 rs2 s
  | .sltn sc rd rs1 rs2 => Sys2Proof.Machine.execSltn sc rd rs1 rs2 s
  | .minR sc rd rs1 rs2 => Sys2Proof.Machine.execMinR sc rd rs1 rs2 s
  | .maxR sc rd rs1 rs2 => Sys2Proof.Machine.execMaxR sc rd rs1 rs2 s
  | .minn sc rd rs1 rs2 => Sys2Proof.Machine.execMinn sc rd rs1 rs2 s
  | .maxn sc rd rs1 rs2 => Sys2Proof.Machine.execMaxn sc rd rs1 rs2 s
  | .clz sc rd rs1 => Sys2Proof.Machine.execClz sc rd rs1 s
  | .ctz sc rd rs1 => Sys2Proof.Machine.execCtz sc rd rs1 s
  | .popc sc rd rs1 => Sys2Proof.Machine.execPopc sc rd rs1 s
  | .sext sc rd rs1 w => Sys2Proof.Machine.execSext sc rd rs1 w s
  | .zext sc rd rs1 w => Sys2Proof.Machine.execZext sc rd rs1 w s
  | .addi sc rd rs1 imm => Sys2Proof.Machine.execAddi sc rd rs1 imm s
  | .andi sc rd rs1 imm => Sys2Proof.Machine.execAndi sc rd rs1 imm s
  | .ori sc rd rs1 imm => Sys2Proof.Machine.execOri sc rd rs1 imm s
  | .xori sc rd rs1 imm => Sys2Proof.Machine.execXori sc rd rs1 imm s
  | .slti sc rd rs1 imm => Sys2Proof.Machine.execSlti sc rd rs1 imm s
  | .slli sc rd rs1 h => Sys2Proof.Machine.execSlli sc rd rs1 h s
  | .srli sc rd rs1 h => Sys2Proof.Machine.execSrli sc rd rs1 h s
  | .srai sc rd rs1 h => Sys2Proof.Machine.execSrai sc rd rs1 h s
  | .bfx sc rd rs1 p l => Sys2Proof.Machine.execBfx sc rd rs1 p l s
  | .bfi sc rd rs1 p l => Sys2Proof.Machine.execBfi sc rd rs1 p l s
  | .lui sc rd imm => Sys2Proof.Machine.execLui sc rd imm s
  | .auipc sc rd imm => Sys2Proof.Machine.execAuipc sc rd imm s
  | .jal sc rd o => Sys2Proof.Machine.execJal sc rd o s
  | .jalr sc rd rs1 imm => Sys2Proof.Machine.execJalr sc rd rs1 imm s
  | .beq sc rs1 rs2 o => Sys2Proof.Machine.execBeq sc rs1 rs2 o s
  | .bne sc rs1 rs2 o => Sys2Proof.Machine.execBne sc rs1 rs2 o s
  | .blt sc rs1 rs2 o => Sys2Proof.Machine.execBlt sc rs1 rs2 o s
  | .bge sc rs1 rs2 o => Sys2Proof.Machine.execBge sc rs1 rs2 o s
  | .bltn sc rs1 rs2 o => Sys2Proof.Machine.execBltn sc rs1 rs2 o s
  | .bgen sc rs1 rs2 o => Sys2Proof.Machine.execBgen sc rs1 rs2 o s
  | .ld sc rd rs1 o w => Sys2Proof.Machine.execLd sc rd rs1 o w s
  | .ldScoped sc rd rs1 o y q p w => Sys2Proof.Machine.execLdScoped sc rd rs1 o y q p w s
  | .st sc rs1 rs2 o w => Sys2Proof.Machine.execSt sc rs1 rs2 o w s
  | .stScoped sc rs1 rs2 o r p w => Sys2Proof.Machine.execStScoped sc rs1 rs2 o r p w s
  | .amoadd32 sc rd rs1 rs2 p r q => Sys2Proof.Machine.execAmoadd32 sc rd rs1 rs2 p r q s
  | .amoadd64 sc rd rs1 rs2 p r q => Sys2Proof.Machine.execAmoadd64 sc rd rs1 rs2 p r q s
  | .amoaddSy sc rd rs1 rs2 p r q => Sys2Proof.Machine.execAmoaddSy sc rd rs1 rs2 p r q s
  | .amoand32 sc rd rs1 rs2 p r q => Sys2Proof.Machine.execAmoand32 sc rd rs1 rs2 p r q s
  | .amoand64 sc rd rs1 rs2 p r q => Sys2Proof.Machine.execAmoand64 sc rd rs1 rs2 p r q s
  | .amoandSy sc rd rs1 rs2 p r q => Sys2Proof.Machine.execAmoandSy sc rd rs1 rs2 p r q s
  | .amoor32 sc rd rs1 rs2 p r q => Sys2Proof.Machine.execAmoor32 sc rd rs1 rs2 p r q s
  | .amoor64 sc rd rs1 rs2 p r q => Sys2Proof.Machine.execAmoor64 sc rd rs1 rs2 p r q s
  | .amoorSy sc rd rs1 rs2 p r q => Sys2Proof.Machine.execAmoorSy sc rd rs1 rs2 p r q s
  | .amoxor32 sc rd rs1 rs2 p r q => Sys2Proof.Machine.execAmoxor32 sc rd rs1 rs2 p r q s
  | .amoxor64 sc rd rs1 rs2 p r q => Sys2Proof.Machine.execAmoxor64 sc rd rs1 rs2 p r q s
  | .amoxorSy sc rd rs1 rs2 p r q => Sys2Proof.Machine.execAmoxorSy sc rd rs1 rs2 p r q s
  | .amomin32 sc rd rs1 rs2 p r q => Sys2Proof.Machine.execAmomin32 sc rd rs1 rs2 p r q s
  | .amomin64 sc rd rs1 rs2 p r q => Sys2Proof.Machine.execAmomin64 sc rd rs1 rs2 p r q s
  | .amominSy sc rd rs1 rs2 p r q => Sys2Proof.Machine.execAmominSy sc rd rs1 rs2 p r q s
  | .amomax32 sc rd rs1 rs2 p r q => Sys2Proof.Machine.execAmomax32 sc rd rs1 rs2 p r q s
  | .amomax64 sc rd rs1 rs2 p r q => Sys2Proof.Machine.execAmomax64 sc rd rs1 rs2 p r q s
  | .amomaxSy sc rd rs1 rs2 p r q => Sys2Proof.Machine.execAmomaxSy sc rd rs1 rs2 p r q s
  | .amominn32 sc rd rs1 rs2 p r q => Sys2Proof.Machine.execAmominn32 sc rd rs1 rs2 p r q s
  | .amominn64 sc rd rs1 rs2 p r q => Sys2Proof.Machine.execAmominn64 sc rd rs1 rs2 p r q s
  | .amominnSy sc rd rs1 rs2 p r q => Sys2Proof.Machine.execAmominnSy sc rd rs1 rs2 p r q s
  | .amomaxn32 sc rd rs1 rs2 p r q => Sys2Proof.Machine.execAmomaxn32 sc rd rs1 rs2 p r q s
  | .amomaxn64 sc rd rs1 rs2 p r q => Sys2Proof.Machine.execAmomaxn64 sc rd rs1 rs2 p r q s
  | .amomaxnSy sc rd rs1 rs2 p r q => Sys2Proof.Machine.execAmomaxnSy sc rd rs1 rs2 p r q s
  | .amoswap32 sc rd rs1 rs2 p r q => Sys2Proof.Machine.execAmoswap32 sc rd rs1 rs2 p r q s
  | .amoswap64 sc rd rs1 rs2 p r q => Sys2Proof.Machine.execAmoswap64 sc rd rs1 rs2 p r q s
  | .amoswapSy sc rd rs1 rs2 p r q => Sys2Proof.Machine.execAmoswapSy sc rd rs1 rs2 p r q s
  | .amocas32 sc rd rs1 rs2 p r q => Sys2Proof.Machine.execAmocas32 sc rd rs1 rs2 p r q s
  | .amocas64 sc rd rs1 rs2 p r q => Sys2Proof.Machine.execAmocas64 sc rd rs1 rs2 p r q s
  | .amocasSy sc rd rs1 rs2 p r q => Sys2Proof.Machine.execAmocasSy sc rd rs1 rs2 p r q s
  | .amofadd sc rd rs1 rs2 p r q => Sys2Proof.Machine.execAmofadd sc rd rs1 rs2 p r q s
  | .fadd sc rd rs1 rs2 f m => Sys2Proof.Machine.execFadd sc rd rs1 rs2 f m s
  | .fsub sc rd rs1 rs2 f m => Sys2Proof.Machine.execFsub sc rd rs1 rs2 f m s
  | .fmul sc rd rs1 rs2 f m => Sys2Proof.Machine.execFmul sc rd rs1 rs2 f m s
  | .fdiv sc rd rs1 rs2 f m => Sys2Proof.Machine.execFdiv sc rd rs1 rs2 f m s
  | .fma sc rd rs1 rs2 f e => Sys2Proof.Machine.execFma sc rd rs1 rs2 f e s
  | .fsqrt sc rd rs1 f m => Sys2Proof.Machine.execFsqrt sc rd rs1 f m s
  | .fcvtTo sc rd rs1 f m k => Sys2Proof.Machine.execFcvtTo sc rd rs1 f m k s
  | .fcvtFrom sc rd rs1 f m k => Sys2Proof.Machine.execFcvtFrom sc rd rs1 f m k s
  | .fmin sc rd rs1 rs2 f => Sys2Proof.Machine.execFmin sc rd rs1 rs2 f s
  | .fmax sc rd rs1 rs2 f => Sys2Proof.Machine.execFmax sc rd rs1 rs2 f s
  | .fcmpEq sc rd rs1 rs2 f => Sys2Proof.Machine.execFcmpEq sc rd rs1 rs2 f s
  | .fcmpLt sc rd rs1 rs2 f => Sys2Proof.Machine.execFcmpLt sc rd rs1 rs2 f s
  | .fcmpLe sc rd rs1 rs2 f => Sys2Proof.Machine.execFcmpLe sc rd rs1 rs2 f s
  | .fsgn sc rd rs1 rs2 f => Sys2Proof.Machine.execFsgn sc rd rs1 rs2 f s
  | .fsgnN sc rd rs1 rs2 f => Sys2Proof.Machine.execFsgnN sc rd rs1 rs2 f s
  | .fsgnX sc rd rs1 rs2 f => Sys2Proof.Machine.execFsgnX sc rd rs1 rs2 f s
  | .fclass sc rd rs1 f => Sys2Proof.Machine.execFclass sc rd rs1 f s
  | .csrr sc rd imm => Sys2Proof.Machine.execCsrr sc rd imm s
  | .csrw sc rs1 imm => Sys2Proof.Machine.execCsrw sc rs1 imm s
  | .csrs sc rs1 imm => Sys2Proof.Machine.execCsrs sc rs1 imm s
  | .csrc sc rs1 imm => Sys2Proof.Machine.execCsrc sc rs1 imm s
  | .ecall sc => Sys2Proof.Machine.execEcall sc s
  | .ebreak sc => Sys2Proof.Machine.execEbreak sc s
  | .eret sc => Sys2Proof.Machine.execEret sc s
  | .wfe sc rd rs1 => Sys2Proof.Machine.execWfe sc rd rs1 s
  | .symq sc rd n => Sys2Proof.Machine.execSymq sc rd n s
  | .symwait sc rs1 => Sys2Proof.Machine.execSymwait sc rs1 s
  | .snap sc rd => Sys2Proof.Machine.execSnap sc rd s
  | .snapq sc rd rs1 => Sys2Proof.Machine.execSnapq sc rd rs1 s
  | .tsubmit sc rd rs1 rs2 => Sys2Proof.Machine.execTsubmit sc rd rs1 rs2 s
  | .tdone sc => Sys2Proof.Machine.execTdone sc s
  | .lkline sc rd rs1 => Sys2Proof.Machine.execLkline sc rd rs1 s
  | .ulkline sc rd rs1 => Sys2Proof.Machine.execUlkline sc rd rs1 s
  | .vsetvl sc rd rs1 rs2 => Sys2Proof.Machine.execVsetvl sc rd rs1 rs2 s
  | .vsetdim sc rd rs1 rs2 e => Sys2Proof.Machine.execVsetdim sc rd rs1 rs2 e s
  | .vsetvli sc rd rs1 l src => Sys2Proof.Machine.execVsetvli sc rd rs1 l src s
  | .qfetch sc rd rs1 => Sys2Proof.Machine.execQfetch sc rd rs1 s
  | .swait sc rd rs1 rs2 => Sys2Proof.Machine.execSwait sc rd rs1 rs2 s
  | .dispatch sc rd rs1 rs2 => Sys2Proof.Machine.execDispatch sc rd rs1 rs2 s
  | .vadd sc rd rs1 rs2 m g => Sys2Proof.Machine.execVadd sc rd rs1 rs2 m g s
  | .vsub sc rd rs1 rs2 m g => Sys2Proof.Machine.execVsub sc rd rs1 rs2 m g s
  | .vrsub sc rd rs1 rs2 m g => Sys2Proof.Machine.execVrsub sc rd rs1 rs2 m g s
  | .vmul sc rd rs1 rs2 m g => Sys2Proof.Machine.execVmul sc rd rs1 rs2 m g s
  | .vmacc sc rd rs1 rs2 m g => Sys2Proof.Machine.execVmacc sc rd rs1 rs2 m g s
  | .vnmsac sc rd rs1 rs2 m g => Sys2Proof.Machine.execVnmsac sc rd rs1 rs2 m g s
  | .vand sc rd rs1 rs2 m g => Sys2Proof.Machine.execVand sc rd rs1 rs2 m g s
  | .vor sc rd rs1 rs2 m g => Sys2Proof.Machine.execVor sc rd rs1 rs2 m g s
  | .vxor sc rd rs1 rs2 m g => Sys2Proof.Machine.execVxor sc rd rs1 rs2 m g s
  | .vsll sc rd rs1 rs2 m g => Sys2Proof.Machine.execVsll sc rd rs1 rs2 m g s
  | .vsrl sc rd rs1 rs2 m g => Sys2Proof.Machine.execVsrl sc rd rs1 rs2 m g s
  | .vsra sc rd rs1 rs2 m g => Sys2Proof.Machine.execVsra sc rd rs1 rs2 m g s
  | .vmerge sc rd rs1 rs2 m g => Sys2Proof.Machine.execVmerge sc rd rs1 rs2 m g s
  | .vmv sc rd rs1 m g => Sys2Proof.Machine.execVmv sc rd rs1 m g s
  | .vnsra sc rd rs1 rs2 m g => Sys2Proof.Machine.execVnsra sc rd rs1 rs2 m g s
  | .vaddCh sc rd rs1 m g => Sys2Proof.Machine.execVaddCh sc rd rs1 m g s
  | .vmulh sc rd rs1 rs2 u m g => Sys2Proof.Machine.execVmulh sc rd rs1 rs2 u m g s
  | .vdiv sc rd rs1 rs2 u m g => Sys2Proof.Machine.execVdiv sc rd rs1 rs2 u m g s
  | .vrem sc rd rs1 rs2 u m g => Sys2Proof.Machine.execVrem sc rd rs1 rs2 u m g s
  | .vmin sc rd rs1 rs2 u m g => Sys2Proof.Machine.execVmin sc rd rs1 rs2 u m g s
  | .vmax sc rd rs1 rs2 u m g => Sys2Proof.Machine.execVmax sc rd rs1 rs2 u m g s
  | .vsadd sc rd rs1 rs2 u m g => Sys2Proof.Machine.execVsadd sc rd rs1 rs2 u m g s
  | .vssub sc rd rs1 rs2 u m g => Sys2Proof.Machine.execVssub sc rd rs1 rs2 u m g s
  | .vclamp sc rd rs1 rs2 u m g => Sys2Proof.Machine.execVclamp sc rd rs1 rs2 u m g s
  | .vfadd sc rd rs1 rs2 m g => Sys2Proof.Machine.execVfadd sc rd rs1 rs2 m g s
  | .vfsub sc rd rs1 rs2 m g => Sys2Proof.Machine.execVfsub sc rd rs1 rs2 m g s
  | .vfmul sc rd rs1 rs2 m g => Sys2Proof.Machine.execVfmul sc rd rs1 rs2 m g s
  | .vfdiv sc rd rs1 rs2 m g => Sys2Proof.Machine.execVfdiv sc rd rs1 rs2 m g s
  | .vfma sc rd rs1 rs2 m g => Sys2Proof.Machine.execVfma sc rd rs1 rs2 m g s
  | .vfnma sc rd rs1 rs2 m g => Sys2Proof.Machine.execVfnma sc rd rs1 rs2 m g s
  | .vfmin sc rd rs1 rs2 m g => Sys2Proof.Machine.execVfmin sc rd rs1 rs2 m g s
  | .vfmax sc rd rs1 rs2 m g => Sys2Proof.Machine.execVfmax sc rd rs1 rs2 m g s
  | .vfcmpEq sc rd rs1 rs2 m g => Sys2Proof.Machine.execVfcmpEq sc rd rs1 rs2 m g s
  | .vfcmpLt sc rd rs1 rs2 m g => Sys2Proof.Machine.execVfcmpLt sc rd rs1 rs2 m g s
  | .vfcmpLe sc rd rs1 rs2 m g => Sys2Proof.Machine.execVfcmpLe sc rd rs1 rs2 m g s
  | .vfaddCh sc rd rs1 m g => Sys2Proof.Machine.execVfaddCh sc rd rs1 m g s
  | .vfsqrt sc rd rs2 m => Sys2Proof.Machine.execVfsqrt sc rd rs2 m s
  | .vfrsqrt sc rd rs2 m => Sys2Proof.Machine.execVfrsqrt sc rd rs2 m s
  | .vfexp2 sc rd rs2 m => Sys2Proof.Machine.execVfexp2 sc rd rs2 m s
  | .vflog2 sc rd rs2 m => Sys2Proof.Machine.execVflog2 sc rd rs2 m s
  | .vfclass sc rd rs2 m => Sys2Proof.Machine.execVfclass sc rd rs2 m s
  | .vfaddBf16 sc rd rs1 rs2 m g => Sys2Proof.Machine.execVfaddBf16 sc rd rs1 rs2 m g s
  | .vfsubBf16 sc rd rs1 rs2 m g => Sys2Proof.Machine.execVfsubBf16 sc rd rs1 rs2 m g s
  | .vfmulBf16 sc rd rs1 rs2 m g => Sys2Proof.Machine.execVfmulBf16 sc rd rs1 rs2 m g s
  | .vfdivBf16 sc rd rs1 rs2 m g => Sys2Proof.Machine.execVfdivBf16 sc rd rs1 rs2 m g s
  | .vfmaBf16 sc rd rs1 rs2 m g => Sys2Proof.Machine.execVfmaBf16 sc rd rs1 rs2 m g s
  | .vfnmaBf16 sc rd rs1 rs2 m g => Sys2Proof.Machine.execVfnmaBf16 sc rd rs1 rs2 m g s
  | .vfminBf16 sc rd rs1 rs2 m g => Sys2Proof.Machine.execVfminBf16 sc rd rs1 rs2 m g s
  | .vfmaxBf16 sc rd rs1 rs2 m g => Sys2Proof.Machine.execVfmaxBf16 sc rd rs1 rs2 m g s
  | .vfcmpEqBf16 sc rd rs1 rs2 m g => Sys2Proof.Machine.execVfcmpEqBf16 sc rd rs1 rs2 m g s
  | .vfcmpLtBf16 sc rd rs1 rs2 m g => Sys2Proof.Machine.execVfcmpLtBf16 sc rd rs1 rs2 m g s
  | .vfcmpLeBf16 sc rd rs1 rs2 m g => Sys2Proof.Machine.execVfcmpLeBf16 sc rd rs1 rs2 m g s
  | .vfaddChBf16 sc rd rs1 m g => Sys2Proof.Machine.execVfaddChBf16 sc rd rs1 m g s
  | .vfsqrtBf16 sc rd rs2 m => Sys2Proof.Machine.execVfsqrtBf16 sc rd rs2 m s
  | .vfrsqrtBf16 sc rd rs2 m => Sys2Proof.Machine.execVfrsqrtBf16 sc rd rs2 m s
  | .vfexp2Bf16 sc rd rs2 m => Sys2Proof.Machine.execVfexp2Bf16 sc rd rs2 m s
  | .vflog2Bf16 sc rd rs2 m => Sys2Proof.Machine.execVflog2Bf16 sc rd rs2 m s
  | .vfclassBf16 sc rd rs2 m => Sys2Proof.Machine.execVfclassBf16 sc rd rs2 m s
  | .vfcvt sc rd rs2 m src k => Sys2Proof.Machine.execVfcvt sc rd rs2 m src k s
  | .vcmpEq sc rd rs1 rs2 u m => Sys2Proof.Machine.execVcmpEq sc rd rs1 rs2 u m s
  | .vcmpNe sc rd rs1 rs2 u m => Sys2Proof.Machine.execVcmpNe sc rd rs1 rs2 u m s
  | .vcmpLt sc rd rs1 rs2 u m => Sys2Proof.Machine.execVcmpLt sc rd rs1 rs2 u m s
  | .vcmpLe sc rd rs1 rs2 u m => Sys2Proof.Machine.execVcmpLe sc rd rs1 rs2 u m s
  | .vwadd sc rd rs1 rs2 u m => Sys2Proof.Machine.execVwadd sc rd rs1 rs2 u m s
  | .vwmul sc rd rs1 rs2 u m => Sys2Proof.Machine.execVwmul sc rd rs1 rs2 u m s
  | .vmaxCh sc rd rs1 u m => Sys2Proof.Machine.execVmaxCh sc rd rs1 u m s
  | .vminCh sc rd rs1 u m => Sys2Proof.Machine.execVminCh sc rd rs1 u m s
  | .vredsum sc rd rs1 rs2 m => Sys2Proof.Machine.execVredsum sc rd rs1 rs2 m s
  | .vredmax sc rd rs1 rs2 m => Sys2Proof.Machine.execVredmax sc rd rs1 rs2 m s
  | .vredmin sc rd rs1 rs2 m => Sys2Proof.Machine.execVredmin sc rd rs1 rs2 m s
  | .vredmaxN sc rd rs1 rs2 m => Sys2Proof.Machine.execVredmaxN sc rd rs1 rs2 m s
  | .vredminN sc rd rs1 rs2 m => Sys2Proof.Machine.execVredminN sc rd rs1 rs2 m s
  | .vfredsum sc rd rs1 rs2 m => Sys2Proof.Machine.execVfredsum sc rd rs1 rs2 m s
  | .vfredmax sc rd rs1 rs2 m => Sys2Proof.Machine.execVfredmax sc rd rs1 rs2 m s
  | .vfredsumBf16 sc rd rs1 rs2 m => Sys2Proof.Machine.execVfredsumBf16 sc rd rs1 rs2 m s
  | .vfredmaxBf16 sc rd rs1 rs2 m => Sys2Proof.Machine.execVfredmaxBf16 sc rd rs1 rs2 m s
  | .vmxunp sc rd rs1 rs2 e m => Sys2Proof.Machine.execVmxunp sc rd rs1 rs2 e m s
  | .vmxpack sc rd rs1 rs2 e m => Sys2Proof.Machine.execVmxpack sc rd rs1 rs2 e m s
  | .vslideup sc rd rs1 rs2 m => Sys2Proof.Machine.execVslideup sc rd rs1 rs2 m s
  | .vslidedn sc rd rs1 rs2 m => Sys2Proof.Machine.execVslidedn sc rd rs1 rs2 m s
  | .vrgather sc rd rs1 rs2 m => Sys2Proof.Machine.execVrgather sc rd rs1 rs2 m s
  | .vcompress sc rd rs1 rs2 => Sys2Proof.Machine.execVcompress sc rd rs1 rs2 s
  | .viota sc rd rs1 m => Sys2Proof.Machine.execViota sc rd rs1 m s
  | .vid sc rd m => Sys2Proof.Machine.execVid sc rd m s
  | .vbcast sc rd rs1 m => Sys2Proof.Machine.execVbcast sc rd rs1 m s
  | .vext sc rd rs1 rs2 m => Sys2Proof.Machine.execVext sc rd rs1 rs2 m s
  | .vins sc rd rs1 rs2 m => Sys2Proof.Machine.execVins sc rd rs1 rs2 m s
  | .mand sc rd rs1 rs2 => Sys2Proof.Machine.execMand sc rd rs1 rs2 s
  | .mor sc rd rs1 rs2 => Sys2Proof.Machine.execMor sc rd rs1 rs2 s
  | .mxor sc rd rs1 rs2 => Sys2Proof.Machine.execMxor sc rd rs1 rs2 s
  | .mnot sc rd rs1 => Sys2Proof.Machine.execMnot sc rd rs1 s
  | .mpopc sc rd rs1 => Sys2Proof.Machine.execMpopc sc rd rs1 s
  | .mfirst sc rd rs1 => Sys2Proof.Machine.execMfirst sc rd rs1 s
  | .vld sc rd rs1 p m => Sys2Proof.Machine.execVld sc rd rs1 p m s
  | .vlds sc rd rs1 rs2 p m => Sys2Proof.Machine.execVlds sc rd rs1 rs2 p m s
  | .vldx sc rd rs1 rs2 p m => Sys2Proof.Machine.execVldx sc rd rs1 rs2 p m s
  | .vst sc rd rs1 p u m => Sys2Proof.Machine.execVst sc rd rs1 p u m s
  | .vsts sc rd rs1 rs2 p u m => Sys2Proof.Machine.execVsts sc rd rs1 rs2 p u m s
  | .vstx sc rd rs1 rs2 p u m => Sys2Proof.Machine.execVstx sc rd rs1 rs2 p u m s
  | .vldm sc rd rs1 p m => Sys2Proof.Machine.execVldm sc rd rs1 p m s
  | .vstm sc rd rs1 p u m => Sys2Proof.Machine.execVstm sc rd rs1 p u m s
  | .vsld sc rd rs1 rs2 p => Sys2Proof.Machine.execVsld sc rd rs1 rs2 p s
  | .fence sc p => Sys2Proof.Machine.execFence sc p s
  | .fenceAcq sc p => Sys2Proof.Machine.execFenceAcq sc p s
  | .fenceRel sc p => Sys2Proof.Machine.execFenceRel sc p s
  | .fenceSv sc p => Sys2Proof.Machine.execFenceSv sc p s
  | .fenceVs sc p => Sys2Proof.Machine.execFenceVs sc p s
  | .fenceSe sc p => Sys2Proof.Machine.execFenceSe sc p s
  | .fenceVe sc p => Sys2Proof.Machine.execFenceVe sc p s
  | .binit sc rs1 rs2 p => Sys2Proof.Machine.execBinit sc rs1 rs2 p s
  | .barr sc rd rs1 rs2 p => Sys2Proof.Machine.execBarr sc rd rs1 rs2 p s
  | .barb sc rd rs1 rs2 p => Sys2Proof.Machine.execBarb sc rd rs1 rs2 p s
  | .bwait sc rd rs1 rs2 p => Sys2Proof.Machine.execBwait sc rd rs1 rs2 p s
  | .btest sc rd rs1 rs2 p => Sys2Proof.Machine.execBtest sc rd rs1 rs2 p s
  | .cbinit sc rs1 rs2 p => Sys2Proof.Machine.execCbinit sc rs1 rs2 p s
  | .cbpush sc rd rs1 rs2 p => Sys2Proof.Machine.execCbpush sc rd rs1 rs2 p s
  | .cbpop sc rd rs1 rs2 p => Sys2Proof.Machine.execCbpop sc rd rs1 rs2 p s
  | .cbwait sc rd rs1 rs2 p => Sys2Proof.Machine.execCbwait sc rd rs1 rs2 p s
  | .srcfg sc rd rs1 rs2 => Sys2Proof.Machine.execSrcfg sc rd rs1 rs2 s
  | .tshape sc rd rs1 => Sys2Proof.Machine.execTshape sc rd rs1 s
  | .mldw sc rs1 rs2 o k => Sys2Proof.Machine.execMldw sc rs1 rs2 o k s
  | .mmaz sc n => Sys2Proof.Machine.execMmaz sc n s
  | .msta sc rs1 rs2 o n => Sys2Proof.Machine.execMsta sc rs1 rs2 o n s
  | .mchk sc rs2 n => Sys2Proof.Machine.execMchk sc rs2 n s
  | .mver sc rs2 o n => Sys2Proof.Machine.execMver sc rs2 o n s
  | .mstat sc rd n => Sys2Proof.Machine.execMstat sc rd n s
  | .mrel sc rs1 => Sys2Proof.Machine.execMrel sc rs1 s
  | .mma sc rs1 rs2 o k => Sys2Proof.Machine.execMma sc rs1 rs2 o k s
  | .mmaMx sc rs1 rs2 o k => Sys2Proof.Machine.execMmaMx sc rs1 rs2 o k s
  | .cpy sc rd rs1 rs2 q o => Sys2Proof.Machine.execCpy sc rd rs1 rs2 q o s
  | .cpy2 sc rd rs1 rs2 q o => Sys2Proof.Machine.execCpy2 sc rd rs1 rs2 q o s
  | .cpyg sc rd rs1 rs2 q o => Sys2Proof.Machine.execCpyg sc rd rs1 rs2 q o s
  | .cpyx sc rd rs1 => Sys2Proof.Machine.execCpyx sc rd rs1 s
  | .bkop sc rd rs1 rs2 o => Sys2Proof.Machine.execBkop sc rd rs1 rs2 o s
  | .bklock sc rd rs1 rs2 => Sys2Proof.Machine.execBklock sc rd rs1 rs2 s
  | .bkunlock sc rd rs1 rs2 => Sys2Proof.Machine.execBkunlock sc rd rs1 rs2 s
  | .bkfence sc o => Sys2Proof.Machine.execBkfence sc o s
  | .bkcopy sc rd rs1 rs2 o => Sys2Proof.Machine.execBkcopy sc rd rs1 rs2 o s
  | .wickload sc rd rs1 rs2 => Sys2Proof.Machine.execWickload sc rd rs1 rs2 s
  | .bkcfg sc rd rs1 rs2 => Sys2Proof.Machine.execBkcfg sc rd rs1 rs2 s

end Sys2Proof.Machine
end

