-- ==== Sys2Proof/Machine/Run.lean ====
section
/-! DEFINITION. The same as `exec` after `decode`, written so that Lean can compile it: Lean's compiler builds no constructor
past the 244th of a type, so the machine that is run calls a word's meaning without building the instruction. Each function
here is proved equal to what it stands for; a change of the decoder's arm is a change of the arm here. -/
namespace Sys2Proof.Machine

/-- A decoded instruction is executed where its operand fields are ones its row allows. -/
noncomputable def execSome (s : State) (i : Option Instr) : Option Out :=
  i.bind (fun i => if wellFormed i then some (exec i s) else none)

theorem execSome_ite (s : State) (c : Prop) [Decidable c] (i j : Option Instr) :
    execSome s (if c then i else j) = if c then execSome s i else execSome s j := by split <;> rfl

theorem execSome_none (s : State) : execSome s none = none := rfl

def runMajor00 (f7 : BitVec 7) (b a d : BitVec 5) (_maj : BitVec 6) (sc : Sc) (s : State) : Option Out :=
  if f7 = 0 then some (execAdd sc d a b s) else
  if f7 = 1 then some (execSub sc d a b s) else
  if f7 = 2 then some (execMul sc d a b s) else
  if f7 = 3 then some (execMulh sc d a b s) else
  if f7 = 4 then some (execMulhn sc d a b s) else
  if f7 = 5 then some (execDiv sc d a b s) else
  if f7 = 6 then some (execDivn sc d a b s) else
  if f7 = 7 then some (execRem sc d a b s) else
  if f7 = 8 then some (execRemn sc d a b s) else
  if f7 = 9 then some (execAndR sc d a b s) else
  if f7 = 10 then some (execOrR sc d a b s) else
  if f7 = 11 then some (execXorR sc d a b s) else
  if f7 = 12 then some (execSll sc d a b s) else
  if f7 = 13 then some (execSrl sc d a b s) else
  if f7 = 14 then some (execSra sc d a b s) else
  if f7 = 15 then some (execSlt sc d a b s) else
  if f7 = 16 then some (execSltn sc d a b s) else
  if f7 = 17 then some (execMinR sc d a b s) else
  if f7 = 18 then some (execMaxR sc d a b s) else
  if f7 = 19 then some (execMinn sc d a b s) else
  if f7 = 20 then some (execMaxn sc d a b s) else
  if f7 = 24 ∧ b = 0 then some (execClz sc d a s) else
  if f7 = 25 ∧ b = 0 then some (execCtz sc d a s) else
  if f7 = 26 ∧ b = 0 then some (execPopc sc d a s) else
  if f7 = 27 then (if decide (b.toNat ≤ 2) then some (execSext sc d a b s) else none) else
  if f7 = 28 then (if decide (b.toNat ≤ 2) then some (execZext sc d a b s) else none) else
  none

theorem runMajor00_eq (f7 : BitVec 7) (b a d : BitVec 5) (maj : BitVec 6) (sc : Sc) (s : State) :
    runMajor00 f7 b a d maj sc s = execSome s (decMajor00 f7 b a d maj sc) := by
  unfold runMajor00 decMajor00
  simp only [execSome_ite, execSome_none]
  rfl

def runMajor01 (f7 : BitVec 7) (b a d : BitVec 5) (_maj : BitVec 6) (sc : Sc) (s : State) : Option Out :=
  some (execAddi sc d a (f7 ++ b : BitVec 12) s)

theorem runMajor01_eq (f7 : BitVec 7) (b a d : BitVec 5) (maj : BitVec 6) (sc : Sc) (s : State) :
    runMajor01 f7 b a d maj sc s = execSome s (decMajor01 f7 b a d maj sc) := by
  unfold runMajor01 decMajor01
  rfl

def runMajor02 (f7 : BitVec 7) (b a d : BitVec 5) (_maj : BitVec 6) (sc : Sc) (s : State) : Option Out :=
  some (execAndi sc d a (f7 ++ b : BitVec 12) s)

theorem runMajor02_eq (f7 : BitVec 7) (b a d : BitVec 5) (maj : BitVec 6) (sc : Sc) (s : State) :
    runMajor02 f7 b a d maj sc s = execSome s (decMajor02 f7 b a d maj sc) := by
  unfold runMajor02 decMajor02
  rfl

def runMajor03 (f7 : BitVec 7) (b a d : BitVec 5) (_maj : BitVec 6) (sc : Sc) (s : State) : Option Out :=
  some (execOri sc d a (f7 ++ b : BitVec 12) s)

theorem runMajor03_eq (f7 : BitVec 7) (b a d : BitVec 5) (maj : BitVec 6) (sc : Sc) (s : State) :
    runMajor03 f7 b a d maj sc s = execSome s (decMajor03 f7 b a d maj sc) := by
  unfold runMajor03 decMajor03
  rfl

def runMajor04 (f7 : BitVec 7) (b a d : BitVec 5) (_maj : BitVec 6) (sc : Sc) (s : State) : Option Out :=
  some (execXori sc d a (f7 ++ b : BitVec 12) s)

theorem runMajor04_eq (f7 : BitVec 7) (b a d : BitVec 5) (maj : BitVec 6) (sc : Sc) (s : State) :
    runMajor04 f7 b a d maj sc s = execSome s (decMajor04 f7 b a d maj sc) := by
  unfold runMajor04 decMajor04
  rfl

def runMajor05 (f7 : BitVec 7) (b a d : BitVec 5) (_maj : BitVec 6) (sc : Sc) (s : State) : Option Out :=
  some (execSlti sc d a (f7 ++ b : BitVec 12) s)

theorem runMajor05_eq (f7 : BitVec 7) (b a d : BitVec 5) (maj : BitVec 6) (sc : Sc) (s : State) :
    runMajor05 f7 b a d maj sc s = execSome s (decMajor05 f7 b a d maj sc) := by
  unfold runMajor05 decMajor05
  rfl

def runMajor06 (f7 : BitVec 7) (b a d : BitVec 5) (_maj : BitVec 6) (sc : Sc) (s : State) : Option Out :=
  if f7.extractLsb' 1 6 = 0 then some (execSlli sc d a (f7.extractLsb' 0 1 ++ b : BitVec 6) s) else
  if f7.extractLsb' 1 6 = 1 then some (execSrli sc d a (f7.extractLsb' 0 1 ++ b : BitVec 6) s) else
  if f7.extractLsb' 1 6 = 2 then some (execSrai sc d a (f7.extractLsb' 0 1 ++ b : BitVec 6) s) else
  none

theorem runMajor06_eq (f7 : BitVec 7) (b a d : BitVec 5) (maj : BitVec 6) (sc : Sc) (s : State) :
    runMajor06 f7 b a d maj sc s = execSome s (decMajor06 f7 b a d maj sc) := by
  unfold runMajor06 decMajor06
  simp only [execSome_ite, execSome_none]
  rfl

def runMajor07 (f7 : BitVec 7) (b a d : BitVec 5) (_maj : BitVec 6) (sc : Sc) (s : State) : Option Out :=
  if decide ((f7.extractLsb' 1 6).toNat + (f7.extractLsb' 0 1 ++ b : BitVec 6).toNat + 1 ≤ 64) then some (execBfx sc d a (f7.extractLsb' 1 6) (f7.extractLsb' 0 1 ++ b : BitVec 6) s) else none

theorem runMajor07_eq (f7 : BitVec 7) (b a d : BitVec 5) (maj : BitVec 6) (sc : Sc) (s : State) :
    runMajor07 f7 b a d maj sc s = execSome s (decMajor07 f7 b a d maj sc) := by
  unfold runMajor07 decMajor07
  rfl

def runMajor08 (f7 : BitVec 7) (b a d : BitVec 5) (_maj : BitVec 6) (sc : Sc) (s : State) : Option Out :=
  if decide ((f7.extractLsb' 1 6).toNat + (f7.extractLsb' 0 1 ++ b : BitVec 6).toNat + 1 ≤ 64) then some (execBfi sc d a (f7.extractLsb' 1 6) (f7.extractLsb' 0 1 ++ b : BitVec 6) s) else none

theorem runMajor08_eq (f7 : BitVec 7) (b a d : BitVec 5) (maj : BitVec 6) (sc : Sc) (s : State) :
    runMajor08 f7 b a d maj sc s = execSome s (decMajor08 f7 b a d maj sc) := by
  unfold runMajor08 decMajor08
  rfl

def runMajor09 (f7 : BitVec 7) (b a d : BitVec 5) (_maj : BitVec 6) (sc : Sc) (s : State) : Option Out :=
  some (execLui sc d (f7 ++ b ++ a : BitVec 17) s)

theorem runMajor09_eq (f7 : BitVec 7) (b a d : BitVec 5) (maj : BitVec 6) (sc : Sc) (s : State) :
    runMajor09 f7 b a d maj sc s = execSome s (decMajor09 f7 b a d maj sc) := by
  unfold runMajor09 decMajor09
  rfl

def runMajor0A (f7 : BitVec 7) (b a d : BitVec 5) (_maj : BitVec 6) (sc : Sc) (s : State) : Option Out :=
  some (execAuipc sc d (f7 ++ b ++ a : BitVec 17) s)

theorem runMajor0A_eq (f7 : BitVec 7) (b a d : BitVec 5) (maj : BitVec 6) (sc : Sc) (s : State) :
    runMajor0A f7 b a d maj sc s = execSome s (decMajor0A f7 b a d maj sc) := by
  unfold runMajor0A decMajor0A
  rfl

def runMajor0B (f7 : BitVec 7) (b a d : BitVec 5) (_maj : BitVec 6) (sc : Sc) (s : State) : Option Out :=
  some (execJal sc d (f7 ++ b ++ a : BitVec 17) s)

theorem runMajor0B_eq (f7 : BitVec 7) (b a d : BitVec 5) (maj : BitVec 6) (sc : Sc) (s : State) :
    runMajor0B f7 b a d maj sc s = execSome s (decMajor0B f7 b a d maj sc) := by
  unfold runMajor0B decMajor0B
  rfl

def runMajor0C (f7 : BitVec 7) (b a d : BitVec 5) (_maj : BitVec 6) (sc : Sc) (s : State) : Option Out :=
  some (execJalr sc d a (f7 ++ b : BitVec 12) s)

theorem runMajor0C_eq (f7 : BitVec 7) (b a d : BitVec 5) (maj : BitVec 6) (sc : Sc) (s : State) :
    runMajor0C f7 b a d maj sc s = execSome s (decMajor0C f7 b a d maj sc) := by
  unfold runMajor0C decMajor0C
  rfl

def runMajor0D (f7 : BitVec 7) (b a d : BitVec 5) (_maj : BitVec 6) (sc : Sc) (s : State) : Option Out :=
  if d.extractLsb' 0 1 = 0 then some (execBeq sc a b (f7 ++ d.extractLsb' 1 4 : BitVec 11) s) else
  if d.extractLsb' 0 1 = 1 then some (execBne sc a b (f7 ++ d.extractLsb' 1 4 : BitVec 11) s) else
  none

theorem runMajor0D_eq (f7 : BitVec 7) (b a d : BitVec 5) (maj : BitVec 6) (sc : Sc) (s : State) :
    runMajor0D f7 b a d maj sc s = execSome s (decMajor0D f7 b a d maj sc) := by
  unfold runMajor0D decMajor0D
  simp only [execSome_ite, execSome_none]
  rfl

def runMajor0E (f7 : BitVec 7) (b a d : BitVec 5) (_maj : BitVec 6) (sc : Sc) (s : State) : Option Out :=
  if d.extractLsb' 0 1 = 0 then some (execBlt sc a b (f7 ++ d.extractLsb' 1 4 : BitVec 11) s) else
  if d.extractLsb' 0 1 = 1 then some (execBge sc a b (f7 ++ d.extractLsb' 1 4 : BitVec 11) s) else
  none

theorem runMajor0E_eq (f7 : BitVec 7) (b a d : BitVec 5) (maj : BitVec 6) (sc : Sc) (s : State) :
    runMajor0E f7 b a d maj sc s = execSome s (decMajor0E f7 b a d maj sc) := by
  unfold runMajor0E decMajor0E
  simp only [execSome_ite, execSome_none]
  rfl

def runMajor0F (f7 : BitVec 7) (b a d : BitVec 5) (_maj : BitVec 6) (sc : Sc) (s : State) : Option Out :=
  if d.extractLsb' 0 1 = 0 then some (execBltn sc a b (f7 ++ d.extractLsb' 1 4 : BitVec 11) s) else
  if d.extractLsb' 0 1 = 1 then some (execBgen sc a b (f7 ++ d.extractLsb' 1 4 : BitVec 11) s) else
  none

theorem runMajor0F_eq (f7 : BitVec 7) (b a d : BitVec 5) (maj : BitVec 6) (sc : Sc) (s : State) :
    runMajor0F f7 b a d maj sc s = execSome s (decMajor0F f7 b a d maj sc) := by
  unfold runMajor0F decMajor0F
  simp only [execSome_ite, execSome_none]
  rfl

def runMajor10 (f7 : BitVec 7) (b a d : BitVec 5) (_maj : BitVec 6) (sc : Sc) (s : State) : Option Out :=
  if b.extractLsb' 3 1 = 0 then (if decide ((b.extractLsb' 0 3) ≠ 7) then some (execLd sc d a (f7 ++ b.extractLsb' 4 1 : BitVec 8) (b.extractLsb' 0 3) s) else none) else
  if b.extractLsb' 3 1 = 1 then (if decide ((b.extractLsb' 0 3) ≠ 7 ∧ (f7.extractLsb' 0 2 ++ b.extractLsb' 4 1 : BitVec 3).toNat ≤ 5) then some (execLdScoped sc d a (f7.extractLsb' 4 3) (f7.extractLsb' 3 1) (f7.extractLsb' 2 1) (f7.extractLsb' 0 2 ++ b.extractLsb' 4 1 : BitVec 3) (b.extractLsb' 0 3) s) else none) else
  none

theorem runMajor10_eq (f7 : BitVec 7) (b a d : BitVec 5) (maj : BitVec 6) (sc : Sc) (s : State) :
    runMajor10 f7 b a d maj sc s = execSome s (decMajor10 f7 b a d maj sc) := by
  unfold runMajor10 decMajor10
  simp only [execSome_ite, execSome_none]
  rfl

def runMajor11 (f7 : BitVec 7) (b a d : BitVec 5) (_maj : BitVec 6) (sc : Sc) (s : State) : Option Out :=
  if f7.extractLsb' 0 1 = 0 then some (execSt sc a b (f7.extractLsb' 1 6 ++ d.extractLsb' 2 3 : BitVec 9) (d.extractLsb' 0 2) s) else
  if f7.extractLsb' 0 1 = 1 then (if decide ((d.extractLsb' 2 3).toNat ≤ 5) then some (execStScoped sc a b (f7.extractLsb' 2 5) (f7.extractLsb' 1 1) (d.extractLsb' 2 3) (d.extractLsb' 0 2) s) else none) else
  none

theorem runMajor11_eq (f7 : BitVec 7) (b a d : BitVec 5) (maj : BitVec 6) (sc : Sc) (s : State) :
    runMajor11 f7 b a d maj sc s = execSome s (decMajor11 f7 b a d maj sc) := by
  unfold runMajor11 decMajor11
  simp only [execSome_ite, execSome_none]
  rfl

def runMajor12 (f7 : BitVec 7) (b a d : BitVec 5) (maj : BitVec 6) (sc : Sc) (s : State) : Option Out :=
  if f7.extractLsb' 3 4 = 0 then some (execAmoadd32 sc d a b (f7.extractLsb' 1 2) (f7.extractLsb' 0 1) (maj.extractLsb' 0 1) s) else
  if f7.extractLsb' 3 4 = 1 then some (execAmoand32 sc d a b (f7.extractLsb' 1 2) (f7.extractLsb' 0 1) (maj.extractLsb' 0 1) s) else
  if f7.extractLsb' 3 4 = 2 then some (execAmoor32 sc d a b (f7.extractLsb' 1 2) (f7.extractLsb' 0 1) (maj.extractLsb' 0 1) s) else
  if f7.extractLsb' 3 4 = 3 then some (execAmoxor32 sc d a b (f7.extractLsb' 1 2) (f7.extractLsb' 0 1) (maj.extractLsb' 0 1) s) else
  if f7.extractLsb' 3 4 = 4 then some (execAmomin32 sc d a b (f7.extractLsb' 1 2) (f7.extractLsb' 0 1) (maj.extractLsb' 0 1) s) else
  if f7.extractLsb' 3 4 = 5 then some (execAmomax32 sc d a b (f7.extractLsb' 1 2) (f7.extractLsb' 0 1) (maj.extractLsb' 0 1) s) else
  if f7.extractLsb' 3 4 = 6 then some (execAmominn32 sc d a b (f7.extractLsb' 1 2) (f7.extractLsb' 0 1) (maj.extractLsb' 0 1) s) else
  if f7.extractLsb' 3 4 = 7 then some (execAmomaxn32 sc d a b (f7.extractLsb' 1 2) (f7.extractLsb' 0 1) (maj.extractLsb' 0 1) s) else
  if f7.extractLsb' 3 4 = 8 then some (execAmoswap32 sc d a b (f7.extractLsb' 1 2) (f7.extractLsb' 0 1) (maj.extractLsb' 0 1) s) else
  if f7.extractLsb' 3 4 = 9 then some (execAmocas32 sc d a b (f7.extractLsb' 1 2) (f7.extractLsb' 0 1) (maj.extractLsb' 0 1) s) else
  if f7.extractLsb' 3 4 = 10 then some (execAmofadd sc d a b (f7.extractLsb' 1 2) (f7.extractLsb' 0 1) (maj.extractLsb' 0 1) s) else
  none

theorem runMajor12_eq (f7 : BitVec 7) (b a d : BitVec 5) (maj : BitVec 6) (sc : Sc) (s : State) :
    runMajor12 f7 b a d maj sc s = execSome s (decMajor12 f7 b a d maj sc) := by
  unfold runMajor12 decMajor12
  simp only [execSome_ite, execSome_none]
  rfl

def runMajor14 (f7 : BitVec 7) (b a d : BitVec 5) (maj : BitVec 6) (sc : Sc) (s : State) : Option Out :=
  if f7.extractLsb' 3 4 = 0 then some (execAmoadd64 sc d a b (f7.extractLsb' 1 2) (f7.extractLsb' 0 1) (maj.extractLsb' 0 1) s) else
  if f7.extractLsb' 3 4 = 1 then some (execAmoand64 sc d a b (f7.extractLsb' 1 2) (f7.extractLsb' 0 1) (maj.extractLsb' 0 1) s) else
  if f7.extractLsb' 3 4 = 2 then some (execAmoor64 sc d a b (f7.extractLsb' 1 2) (f7.extractLsb' 0 1) (maj.extractLsb' 0 1) s) else
  if f7.extractLsb' 3 4 = 3 then some (execAmoxor64 sc d a b (f7.extractLsb' 1 2) (f7.extractLsb' 0 1) (maj.extractLsb' 0 1) s) else
  if f7.extractLsb' 3 4 = 4 then some (execAmomin64 sc d a b (f7.extractLsb' 1 2) (f7.extractLsb' 0 1) (maj.extractLsb' 0 1) s) else
  if f7.extractLsb' 3 4 = 5 then some (execAmomax64 sc d a b (f7.extractLsb' 1 2) (f7.extractLsb' 0 1) (maj.extractLsb' 0 1) s) else
  if f7.extractLsb' 3 4 = 6 then some (execAmominn64 sc d a b (f7.extractLsb' 1 2) (f7.extractLsb' 0 1) (maj.extractLsb' 0 1) s) else
  if f7.extractLsb' 3 4 = 7 then some (execAmomaxn64 sc d a b (f7.extractLsb' 1 2) (f7.extractLsb' 0 1) (maj.extractLsb' 0 1) s) else
  if f7.extractLsb' 3 4 = 8 then some (execAmoswap64 sc d a b (f7.extractLsb' 1 2) (f7.extractLsb' 0 1) (maj.extractLsb' 0 1) s) else
  if f7.extractLsb' 3 4 = 9 then some (execAmocas64 sc d a b (f7.extractLsb' 1 2) (f7.extractLsb' 0 1) (maj.extractLsb' 0 1) s) else
  none

theorem runMajor14_eq (f7 : BitVec 7) (b a d : BitVec 5) (maj : BitVec 6) (sc : Sc) (s : State) :
    runMajor14 f7 b a d maj sc s = execSome s (decMajor14 f7 b a d maj sc) := by
  unfold runMajor14 decMajor14
  simp only [execSome_ite, execSome_none]
  rfl

def runMajor16 (f7 : BitVec 7) (b a d : BitVec 5) (maj : BitVec 6) (sc : Sc) (s : State) : Option Out :=
  if f7.extractLsb' 3 4 = 0 then some (execAmoaddSy sc d a b (f7.extractLsb' 1 2) (f7.extractLsb' 0 1) (maj.extractLsb' 0 1) s) else
  if f7.extractLsb' 3 4 = 1 then some (execAmoandSy sc d a b (f7.extractLsb' 1 2) (f7.extractLsb' 0 1) (maj.extractLsb' 0 1) s) else
  if f7.extractLsb' 3 4 = 2 then some (execAmoorSy sc d a b (f7.extractLsb' 1 2) (f7.extractLsb' 0 1) (maj.extractLsb' 0 1) s) else
  if f7.extractLsb' 3 4 = 3 then some (execAmoxorSy sc d a b (f7.extractLsb' 1 2) (f7.extractLsb' 0 1) (maj.extractLsb' 0 1) s) else
  if f7.extractLsb' 3 4 = 4 then some (execAmominSy sc d a b (f7.extractLsb' 1 2) (f7.extractLsb' 0 1) (maj.extractLsb' 0 1) s) else
  if f7.extractLsb' 3 4 = 5 then some (execAmomaxSy sc d a b (f7.extractLsb' 1 2) (f7.extractLsb' 0 1) (maj.extractLsb' 0 1) s) else
  if f7.extractLsb' 3 4 = 6 then some (execAmominnSy sc d a b (f7.extractLsb' 1 2) (f7.extractLsb' 0 1) (maj.extractLsb' 0 1) s) else
  if f7.extractLsb' 3 4 = 7 then some (execAmomaxnSy sc d a b (f7.extractLsb' 1 2) (f7.extractLsb' 0 1) (maj.extractLsb' 0 1) s) else
  if f7.extractLsb' 3 4 = 8 then some (execAmoswapSy sc d a b (f7.extractLsb' 1 2) (f7.extractLsb' 0 1) (maj.extractLsb' 0 1) s) else
  if f7.extractLsb' 3 4 = 9 then some (execAmocasSy sc d a b (f7.extractLsb' 1 2) (f7.extractLsb' 0 1) (maj.extractLsb' 0 1) s) else
  none

theorem runMajor16_eq (f7 : BitVec 7) (b a d : BitVec 5) (maj : BitVec 6) (sc : Sc) (s : State) :
    runMajor16 f7 b a d maj sc s = execSome s (decMajor16 f7 b a d maj sc) := by
  unfold runMajor16 decMajor16
  simp only [execSome_ite, execSome_none]
  rfl

def runMajor18 (f7 : BitVec 7) (b a d : BitVec 5) (_maj : BitVec 6) (sc : Sc) (s : State) : Option Out :=
  if f7.extractLsb' 0 2 = 0 then (if decide ((f7.extractLsb' 5 2) ≠ 3 ∧ (f7.extractLsb' 2 3) ≠ 5 ∧ (f7.extractLsb' 2 3) ≠ 6) then some (execFadd sc d a b (f7.extractLsb' 5 2) (f7.extractLsb' 2 3) s) else none) else
  if f7.extractLsb' 0 2 = 1 then (if decide ((f7.extractLsb' 5 2) ≠ 3 ∧ (f7.extractLsb' 2 3) ≠ 5 ∧ (f7.extractLsb' 2 3) ≠ 6) then some (execFsub sc d a b (f7.extractLsb' 5 2) (f7.extractLsb' 2 3) s) else none) else
  if f7.extractLsb' 0 2 = 2 then (if decide ((f7.extractLsb' 5 2) ≠ 3 ∧ (f7.extractLsb' 2 3) ≠ 5 ∧ (f7.extractLsb' 2 3) ≠ 6) then some (execFmul sc d a b (f7.extractLsb' 5 2) (f7.extractLsb' 2 3) s) else none) else
  if f7.extractLsb' 0 2 = 3 then (if decide ((f7.extractLsb' 5 2) ≠ 3 ∧ (f7.extractLsb' 2 3) ≠ 5 ∧ (f7.extractLsb' 2 3) ≠ 6) then some (execFdiv sc d a b (f7.extractLsb' 5 2) (f7.extractLsb' 2 3) s) else none) else
  none

theorem runMajor18_eq (f7 : BitVec 7) (b a d : BitVec 5) (maj : BitVec 6) (sc : Sc) (s : State) :
    runMajor18 f7 b a d maj sc s = execSome s (decMajor18 f7 b a d maj sc) := by
  unfold runMajor18 decMajor18
  simp only [execSome_ite, execSome_none]
  rfl

def runMajor19 (f7 : BitVec 7) (b a d : BitVec 5) (_maj : BitVec 6) (sc : Sc) (s : State) : Option Out :=
  if decide ((f7.extractLsb' 5 2) ≠ 3) then some (execFma sc d a b (f7.extractLsb' 5 2) (f7.extractLsb' 0 5) s) else none

theorem runMajor19_eq (f7 : BitVec 7) (b a d : BitVec 5) (maj : BitVec 6) (sc : Sc) (s : State) :
    runMajor19 f7 b a d maj sc s = execSome s (decMajor19 f7 b a d maj sc) := by
  unfold runMajor19 decMajor19
  rfl

def runMajor1A (f7 : BitVec 7) (b a d : BitVec 5) (_maj : BitVec 6) (sc : Sc) (s : State) : Option Out :=
  if f7.extractLsb' 0 2 = 0 ∧ b = 0 then (if decide ((f7.extractLsb' 5 2) ≠ 3 ∧ (f7.extractLsb' 2 3) ≠ 5 ∧ (f7.extractLsb' 2 3) ≠ 6) then some (execFsqrt sc d a (f7.extractLsb' 5 2) (f7.extractLsb' 2 3) s) else none) else
  if f7.extractLsb' 0 2 = 1 then (if decide ((f7.extractLsb' 5 2) ≠ 3 ∧ (f7.extractLsb' 2 3) ≠ 5 ∧ (f7.extractLsb' 2 3) ≠ 6 ∧ scalarCvtCode (f7.extractLsb' 5 2) b = true) then some (execFcvtTo sc d a (f7.extractLsb' 5 2) (f7.extractLsb' 2 3) b s) else none) else
  if f7.extractLsb' 0 2 = 2 then (if decide ((f7.extractLsb' 5 2) ≠ 3 ∧ (f7.extractLsb' 2 3) ≠ 5 ∧ (f7.extractLsb' 2 3) ≠ 6 ∧ scalarCvtCode (f7.extractLsb' 5 2) b = true) then some (execFcvtFrom sc d a (f7.extractLsb' 5 2) (f7.extractLsb' 2 3) b s) else none) else
  none

theorem runMajor1A_eq (f7 : BitVec 7) (b a d : BitVec 5) (maj : BitVec 6) (sc : Sc) (s : State) :
    runMajor1A f7 b a d maj sc s = execSome s (decMajor1A f7 b a d maj sc) := by
  unfold runMajor1A decMajor1A
  simp only [execSome_ite, execSome_none]
  rfl

def runMajor1B (f7 : BitVec 7) (b a d : BitVec 5) (_maj : BitVec 6) (sc : Sc) (s : State) : Option Out :=
  if f7.extractLsb' 0 5 = 0 then (if decide ((f7.extractLsb' 5 2) ≠ 3) then some (execFmin sc d a b (f7.extractLsb' 5 2) s) else none) else
  if f7.extractLsb' 0 5 = 1 then (if decide ((f7.extractLsb' 5 2) ≠ 3) then some (execFmax sc d a b (f7.extractLsb' 5 2) s) else none) else
  if f7.extractLsb' 0 5 = 2 then (if decide ((f7.extractLsb' 5 2) ≠ 3) then some (execFcmpEq sc d a b (f7.extractLsb' 5 2) s) else none) else
  if f7.extractLsb' 0 5 = 3 then (if decide ((f7.extractLsb' 5 2) ≠ 3) then some (execFcmpLt sc d a b (f7.extractLsb' 5 2) s) else none) else
  if f7.extractLsb' 0 5 = 4 then (if decide ((f7.extractLsb' 5 2) ≠ 3) then some (execFcmpLe sc d a b (f7.extractLsb' 5 2) s) else none) else
  if f7.extractLsb' 0 5 = 5 then (if decide ((f7.extractLsb' 5 2) ≠ 3) then some (execFsgn sc d a b (f7.extractLsb' 5 2) s) else none) else
  if f7.extractLsb' 0 5 = 6 then (if decide ((f7.extractLsb' 5 2) ≠ 3) then some (execFsgnN sc d a b (f7.extractLsb' 5 2) s) else none) else
  if f7.extractLsb' 0 5 = 7 then (if decide ((f7.extractLsb' 5 2) ≠ 3) then some (execFsgnX sc d a b (f7.extractLsb' 5 2) s) else none) else
  if f7.extractLsb' 0 5 = 8 ∧ b = 0 then (if decide ((f7.extractLsb' 5 2) ≠ 3) then some (execFclass sc d a (f7.extractLsb' 5 2) s) else none) else
  none

theorem runMajor1B_eq (f7 : BitVec 7) (b a d : BitVec 5) (maj : BitVec 6) (sc : Sc) (s : State) :
    runMajor1B f7 b a d maj sc s = execSome s (decMajor1B f7 b a d maj sc) := by
  unfold runMajor1B decMajor1B
  simp only [execSome_ite, execSome_none]
  rfl

def runMajor1C (f7 : BitVec 7) (b a d : BitVec 5) (_maj : BitVec 6) (sc : Sc) (s : State) : Option Out :=
  if a = 0 then some (execCsrr sc d (f7 ++ b : BitVec 12) s) else
  none

theorem runMajor1C_eq (f7 : BitVec 7) (b a d : BitVec 5) (maj : BitVec 6) (sc : Sc) (s : State) :
    runMajor1C f7 b a d maj sc s = execSome s (decMajor1C f7 b a d maj sc) := by
  unfold runMajor1C decMajor1C
  simp only [execSome_ite, execSome_none]
  rfl

def runMajor1D (f7 : BitVec 7) (b a d : BitVec 5) (_maj : BitVec 6) (sc : Sc) (s : State) : Option Out :=
  if d = 0 then some (execCsrw sc a (f7 ++ b : BitVec 12) s) else
  if d = 1 then some (execCsrs sc a (f7 ++ b : BitVec 12) s) else
  if d = 2 then some (execCsrc sc a (f7 ++ b : BitVec 12) s) else
  none

theorem runMajor1D_eq (f7 : BitVec 7) (b a d : BitVec 5) (maj : BitVec 6) (sc : Sc) (s : State) :
    runMajor1D f7 b a d maj sc s = execSome s (decMajor1D f7 b a d maj sc) := by
  unfold runMajor1D decMajor1D
  simp only [execSome_ite, execSome_none]
  rfl

def runMajor1E (f7 : BitVec 7) (b a d : BitVec 5) (_maj : BitVec 6) (sc : Sc) (s : State) : Option Out :=
  if f7 = 0 ∧ b = 0 ∧ a = 0 ∧ d = 0 then some (execEcall sc s) else
  if f7 = 1 ∧ b = 0 ∧ a = 0 ∧ d = 0 then some (execEbreak sc s) else
  if f7 = 2 ∧ b = 0 ∧ a = 0 ∧ d = 0 then some (execEret sc s) else
  if f7 = 3 ∧ b = 0 then some (execWfe sc d a s) else
  if f7 = 8 ∧ b = 0 then (if decide (a.toNat ≤ 15) then some (execSymq sc d a s) else none) else
  if f7 = 9 ∧ b = 0 ∧ d = 0 then some (execSymwait sc a s) else
  if f7 = 16 ∧ b = 0 ∧ a = 0 then some (execSnap sc d s) else
  if f7 = 17 ∧ b = 0 then some (execSnapq sc d a s) else
  if f7 = 24 then some (execTsubmit sc d a b s) else
  if f7 = 25 ∧ b = 0 ∧ a = 0 ∧ d = 0 then some (execTdone sc s) else
  if f7 = 32 ∧ b = 0 then some (execLkline sc d a s) else
  if f7 = 33 ∧ b = 0 then some (execUlkline sc d a s) else
  if f7 = 48 then some (execVsetvl sc d a b s) else
  if f7.extractLsb' 2 5 = 12 then (if decide ((f7.extractLsb' 0 2) ≠ 0) then some (execVsetdim sc d a b (f7.extractLsb' 0 2) s) else none) else
  if f7.extractLsb' 6 1 = 1 ∧ b = 0 then some (execVsetvli sc d a (f7.extractLsb' 3 3) (f7.extractLsb' 0 3) s) else
  none

theorem runMajor1E_eq (f7 : BitVec 7) (b a d : BitVec 5) (maj : BitVec 6) (sc : Sc) (s : State) :
    runMajor1E f7 b a d maj sc s = execSome s (decMajor1E f7 b a d maj sc) := by
  unfold runMajor1E decMajor1E
  simp only [execSome_ite, execSome_none]
  rfl

def runMajor1F (f7 : BitVec 7) (b a d : BitVec 5) (_maj : BitVec 6) (sc : Sc) (s : State) : Option Out :=
  if f7 = 0 ∧ b = 0 then some (execQfetch sc d a s) else
  if f7 = 1 then some (execSwait sc d a b s) else
  if f7 = 2 then some (execDispatch sc d a b s) else
  none

theorem runMajor1F_eq (f7 : BitVec 7) (b a d : BitVec 5) (maj : BitVec 6) (sc : Sc) (s : State) :
    runMajor1F f7 b a d maj sc s = execSome s (decMajor1F f7 b a d maj sc) := by
  unfold runMajor1F decMajor1F
  simp only [execSome_ite, execSome_none]
  rfl

def runMajor20 (f7 : BitVec 7) (b a d : BitVec 5) (maj : BitVec 6) (sc : Sc) (s : State) : Option Out :=
  if f7.extractLsb' 3 4 = 0 then (if decide ((maj.extractLsb' 0 2) ≠ 3) then some (execVadd sc d a b (f7.extractLsb' 0 3) (maj.extractLsb' 0 2) s) else none) else
  if f7.extractLsb' 3 4 = 1 then (if decide ((maj.extractLsb' 0 2) ≠ 3) then some (execVsub sc d a b (f7.extractLsb' 0 3) (maj.extractLsb' 0 2) s) else none) else
  if f7.extractLsb' 3 4 = 2 then (if decide ((maj.extractLsb' 0 2) ≠ 3) then some (execVrsub sc d a b (f7.extractLsb' 0 3) (maj.extractLsb' 0 2) s) else none) else
  if f7.extractLsb' 3 4 = 3 then (if decide ((maj.extractLsb' 0 2) ≠ 3) then some (execVmul sc d a b (f7.extractLsb' 0 3) (maj.extractLsb' 0 2) s) else none) else
  if f7.extractLsb' 3 4 = 4 then (if decide ((maj.extractLsb' 0 2) ≠ 3) then some (execVmacc sc d a b (f7.extractLsb' 0 3) (maj.extractLsb' 0 2) s) else none) else
  if f7.extractLsb' 3 4 = 5 then (if decide ((maj.extractLsb' 0 2) ≠ 3) then some (execVnmsac sc d a b (f7.extractLsb' 0 3) (maj.extractLsb' 0 2) s) else none) else
  if f7.extractLsb' 3 4 = 6 then (if decide ((maj.extractLsb' 0 2) ≠ 3) then some (execVand sc d a b (f7.extractLsb' 0 3) (maj.extractLsb' 0 2) s) else none) else
  if f7.extractLsb' 3 4 = 7 then (if decide ((maj.extractLsb' 0 2) ≠ 3) then some (execVor sc d a b (f7.extractLsb' 0 3) (maj.extractLsb' 0 2) s) else none) else
  if f7.extractLsb' 3 4 = 8 then (if decide ((maj.extractLsb' 0 2) ≠ 3) then some (execVxor sc d a b (f7.extractLsb' 0 3) (maj.extractLsb' 0 2) s) else none) else
  if f7.extractLsb' 3 4 = 9 then (if decide ((maj.extractLsb' 0 2) ≠ 3) then some (execVsll sc d a b (f7.extractLsb' 0 3) (maj.extractLsb' 0 2) s) else none) else
  if f7.extractLsb' 3 4 = 10 then (if decide ((maj.extractLsb' 0 2) ≠ 3) then some (execVsrl sc d a b (f7.extractLsb' 0 3) (maj.extractLsb' 0 2) s) else none) else
  if f7.extractLsb' 3 4 = 11 then (if decide ((maj.extractLsb' 0 2) ≠ 3) then some (execVsra sc d a b (f7.extractLsb' 0 3) (maj.extractLsb' 0 2) s) else none) else
  if f7.extractLsb' 3 4 = 12 then (if decide ((maj.extractLsb' 0 2) ≠ 3 ∧ (f7.extractLsb' 0 3) ≠ 0) then some (execVmerge sc d a b (f7.extractLsb' 0 3) (maj.extractLsb' 0 2) s) else none) else
  if f7.extractLsb' 3 4 = 13 ∧ b = 0 then (if decide ((maj.extractLsb' 0 2) ≠ 3) then some (execVmv sc d a (f7.extractLsb' 0 3) (maj.extractLsb' 0 2) s) else none) else
  if f7.extractLsb' 3 4 = 14 then (if decide ((maj.extractLsb' 0 2) ≠ 3) then some (execVnsra sc d a b (f7.extractLsb' 0 3) (maj.extractLsb' 0 2) s) else none) else
  if f7.extractLsb' 3 4 = 15 ∧ b = 0 then (if decide ((maj.extractLsb' 0 2) ≠ 3) then some (execVaddCh sc d a (f7.extractLsb' 0 3) (maj.extractLsb' 0 2) s) else none) else
  none

theorem runMajor20_eq (f7 : BitVec 7) (b a d : BitVec 5) (maj : BitVec 6) (sc : Sc) (s : State) :
    runMajor20 f7 b a d maj sc s = execSome s (decMajor20 f7 b a d maj sc) := by
  unfold runMajor20 decMajor20
  simp only [execSome_ite, execSome_none]
  rfl

def runMajor23 (f7 : BitVec 7) (b a d : BitVec 5) (maj : BitVec 6) (sc : Sc) (s : State) : Option Out :=
  if f7.extractLsb' 3 3 = 0 then (if decide (((maj.extractLsb' 0 3) = 3 ∨ (maj.extractLsb' 0 3) = 4 ∨ (maj.extractLsb' 0 3) = 5)) then some (execVmulh sc d a b (f7.extractLsb' 6 1) (f7.extractLsb' 0 3) (maj.extractLsb' 0 3) s) else none) else
  if f7.extractLsb' 3 3 = 1 then (if decide (((maj.extractLsb' 0 3) = 3 ∨ (maj.extractLsb' 0 3) = 4 ∨ (maj.extractLsb' 0 3) = 5)) then some (execVdiv sc d a b (f7.extractLsb' 6 1) (f7.extractLsb' 0 3) (maj.extractLsb' 0 3) s) else none) else
  if f7.extractLsb' 3 3 = 2 then (if decide (((maj.extractLsb' 0 3) = 3 ∨ (maj.extractLsb' 0 3) = 4 ∨ (maj.extractLsb' 0 3) = 5)) then some (execVrem sc d a b (f7.extractLsb' 6 1) (f7.extractLsb' 0 3) (maj.extractLsb' 0 3) s) else none) else
  if f7.extractLsb' 3 3 = 3 then (if decide (((maj.extractLsb' 0 3) = 3 ∨ (maj.extractLsb' 0 3) = 4 ∨ (maj.extractLsb' 0 3) = 5)) then some (execVmin sc d a b (f7.extractLsb' 6 1) (f7.extractLsb' 0 3) (maj.extractLsb' 0 3) s) else none) else
  if f7.extractLsb' 3 3 = 4 then (if decide (((maj.extractLsb' 0 3) = 3 ∨ (maj.extractLsb' 0 3) = 4 ∨ (maj.extractLsb' 0 3) = 5)) then some (execVmax sc d a b (f7.extractLsb' 6 1) (f7.extractLsb' 0 3) (maj.extractLsb' 0 3) s) else none) else
  if f7.extractLsb' 3 3 = 5 then (if decide (((maj.extractLsb' 0 3) = 3 ∨ (maj.extractLsb' 0 3) = 4 ∨ (maj.extractLsb' 0 3) = 5)) then some (execVsadd sc d a b (f7.extractLsb' 6 1) (f7.extractLsb' 0 3) (maj.extractLsb' 0 3) s) else none) else
  if f7.extractLsb' 3 3 = 6 then (if decide (((maj.extractLsb' 0 3) = 3 ∨ (maj.extractLsb' 0 3) = 4 ∨ (maj.extractLsb' 0 3) = 5)) then some (execVssub sc d a b (f7.extractLsb' 6 1) (f7.extractLsb' 0 3) (maj.extractLsb' 0 3) s) else none) else
  if f7.extractLsb' 3 3 = 7 then (if decide (((maj.extractLsb' 0 3) = 3 ∨ (maj.extractLsb' 0 3) = 4 ∨ (maj.extractLsb' 0 3) = 5)) then some (execVclamp sc d a b (f7.extractLsb' 6 1) (f7.extractLsb' 0 3) (maj.extractLsb' 0 3) s) else none) else
  none

theorem runMajor23_eq (f7 : BitVec 7) (b a d : BitVec 5) (maj : BitVec 6) (sc : Sc) (s : State) :
    runMajor23 f7 b a d maj sc s = execSome s (decMajor23 f7 b a d maj sc) := by
  unfold runMajor23 decMajor23
  simp only [execSome_ite, execSome_none]
  rfl

def runMajor26 (f7 : BitVec 7) (b a d : BitVec 5) (maj : BitVec 6) (sc : Sc) (s : State) : Option Out :=
  if f7.extractLsb' 3 4 = 0 then some (execVfadd sc d a b (f7.extractLsb' 0 3) (maj.extractLsb' 0 1) s) else
  if f7.extractLsb' 3 4 = 1 then some (execVfsub sc d a b (f7.extractLsb' 0 3) (maj.extractLsb' 0 1) s) else
  if f7.extractLsb' 3 4 = 2 then some (execVfmul sc d a b (f7.extractLsb' 0 3) (maj.extractLsb' 0 1) s) else
  if f7.extractLsb' 3 4 = 3 then some (execVfdiv sc d a b (f7.extractLsb' 0 3) (maj.extractLsb' 0 1) s) else
  if f7.extractLsb' 3 4 = 4 then some (execVfma sc d a b (f7.extractLsb' 0 3) (maj.extractLsb' 0 1) s) else
  if f7.extractLsb' 3 4 = 5 then some (execVfnma sc d a b (f7.extractLsb' 0 3) (maj.extractLsb' 0 1) s) else
  if f7.extractLsb' 3 4 = 6 then some (execVfmin sc d a b (f7.extractLsb' 0 3) (maj.extractLsb' 0 1) s) else
  if f7.extractLsb' 3 4 = 7 then some (execVfmax sc d a b (f7.extractLsb' 0 3) (maj.extractLsb' 0 1) s) else
  if f7.extractLsb' 3 4 = 8 then (if decide (0 < d.toNat ∧ d.toNat < 8) then some (execVfcmpEq sc d a b (f7.extractLsb' 0 3) (maj.extractLsb' 0 1) s) else none) else
  if f7.extractLsb' 3 4 = 9 then (if decide (0 < d.toNat ∧ d.toNat < 8) then some (execVfcmpLt sc d a b (f7.extractLsb' 0 3) (maj.extractLsb' 0 1) s) else none) else
  if f7.extractLsb' 3 4 = 10 then (if decide (0 < d.toNat ∧ d.toNat < 8) then some (execVfcmpLe sc d a b (f7.extractLsb' 0 3) (maj.extractLsb' 0 1) s) else none) else
  if f7.extractLsb' 3 4 = 12 ∧ b = 0 then some (execVfaddCh sc d a (f7.extractLsb' 0 3) (maj.extractLsb' 0 1) s) else
  if f7.extractLsb' 3 4 = 11 ∧ a = 0 then some (execVfsqrt sc d b (f7.extractLsb' 0 3) s) else
  if f7.extractLsb' 3 4 = 11 ∧ a = 1 then some (execVfrsqrt sc d b (f7.extractLsb' 0 3) s) else
  if f7.extractLsb' 3 4 = 11 ∧ a = 2 then some (execVfexp2 sc d b (f7.extractLsb' 0 3) s) else
  if f7.extractLsb' 3 4 = 11 ∧ a = 3 then some (execVflog2 sc d b (f7.extractLsb' 0 3) s) else
  if f7.extractLsb' 3 4 = 11 ∧ a = 4 then some (execVfclass sc d b (f7.extractLsb' 0 3) s) else
  none

theorem runMajor26_eq (f7 : BitVec 7) (b a d : BitVec 5) (maj : BitVec 6) (sc : Sc) (s : State) :
    runMajor26 f7 b a d maj sc s = execSome s (decMajor26 f7 b a d maj sc) := by
  unfold runMajor26 decMajor26
  simp only [execSome_ite, execSome_none]
  rfl

def runMajor27 (f7 : BitVec 7) (b a d : BitVec 5) (maj : BitVec 6) (sc : Sc) (s : State) : Option Out :=
  if f7.extractLsb' 3 4 = 0 then some (execVfadd sc d a b (f7.extractLsb' 0 3) (maj.extractLsb' 0 1) s) else
  if f7.extractLsb' 3 4 = 1 then some (execVfsub sc d a b (f7.extractLsb' 0 3) (maj.extractLsb' 0 1) s) else
  if f7.extractLsb' 3 4 = 2 then some (execVfmul sc d a b (f7.extractLsb' 0 3) (maj.extractLsb' 0 1) s) else
  if f7.extractLsb' 3 4 = 3 then some (execVfdiv sc d a b (f7.extractLsb' 0 3) (maj.extractLsb' 0 1) s) else
  if f7.extractLsb' 3 4 = 4 then some (execVfma sc d a b (f7.extractLsb' 0 3) (maj.extractLsb' 0 1) s) else
  if f7.extractLsb' 3 4 = 5 then some (execVfnma sc d a b (f7.extractLsb' 0 3) (maj.extractLsb' 0 1) s) else
  if f7.extractLsb' 3 4 = 6 then some (execVfmin sc d a b (f7.extractLsb' 0 3) (maj.extractLsb' 0 1) s) else
  if f7.extractLsb' 3 4 = 7 then some (execVfmax sc d a b (f7.extractLsb' 0 3) (maj.extractLsb' 0 1) s) else
  if f7.extractLsb' 3 4 = 8 then (if decide (0 < d.toNat ∧ d.toNat < 8) then some (execVfcmpEq sc d a b (f7.extractLsb' 0 3) (maj.extractLsb' 0 1) s) else none) else
  if f7.extractLsb' 3 4 = 9 then (if decide (0 < d.toNat ∧ d.toNat < 8) then some (execVfcmpLt sc d a b (f7.extractLsb' 0 3) (maj.extractLsb' 0 1) s) else none) else
  if f7.extractLsb' 3 4 = 10 then (if decide (0 < d.toNat ∧ d.toNat < 8) then some (execVfcmpLe sc d a b (f7.extractLsb' 0 3) (maj.extractLsb' 0 1) s) else none) else
  if f7.extractLsb' 3 4 = 12 ∧ b = 0 then some (execVfaddCh sc d a (f7.extractLsb' 0 3) (maj.extractLsb' 0 1) s) else
  none

theorem runMajor27_eq (f7 : BitVec 7) (b a d : BitVec 5) (maj : BitVec 6) (sc : Sc) (s : State) :
    runMajor27 f7 b a d maj sc s = execSome s (decMajor27 f7 b a d maj sc) := by
  unfold runMajor27 decMajor27
  simp only [execSome_ite, execSome_none]
  rfl

def runMajor28 (f7 : BitVec 7) (b a d : BitVec 5) (maj : BitVec 6) (sc : Sc) (s : State) : Option Out :=
  if f7.extractLsb' 3 4 = 0 then some (execVfaddBf16 sc d a b (f7.extractLsb' 0 3) (maj.extractLsb' 0 1) s) else
  if f7.extractLsb' 3 4 = 1 then some (execVfsubBf16 sc d a b (f7.extractLsb' 0 3) (maj.extractLsb' 0 1) s) else
  if f7.extractLsb' 3 4 = 2 then some (execVfmulBf16 sc d a b (f7.extractLsb' 0 3) (maj.extractLsb' 0 1) s) else
  if f7.extractLsb' 3 4 = 3 then some (execVfdivBf16 sc d a b (f7.extractLsb' 0 3) (maj.extractLsb' 0 1) s) else
  if f7.extractLsb' 3 4 = 4 then some (execVfmaBf16 sc d a b (f7.extractLsb' 0 3) (maj.extractLsb' 0 1) s) else
  if f7.extractLsb' 3 4 = 5 then some (execVfnmaBf16 sc d a b (f7.extractLsb' 0 3) (maj.extractLsb' 0 1) s) else
  if f7.extractLsb' 3 4 = 6 then some (execVfminBf16 sc d a b (f7.extractLsb' 0 3) (maj.extractLsb' 0 1) s) else
  if f7.extractLsb' 3 4 = 7 then some (execVfmaxBf16 sc d a b (f7.extractLsb' 0 3) (maj.extractLsb' 0 1) s) else
  if f7.extractLsb' 3 4 = 8 then (if decide (0 < d.toNat ∧ d.toNat < 8) then some (execVfcmpEqBf16 sc d a b (f7.extractLsb' 0 3) (maj.extractLsb' 0 1) s) else none) else
  if f7.extractLsb' 3 4 = 9 then (if decide (0 < d.toNat ∧ d.toNat < 8) then some (execVfcmpLtBf16 sc d a b (f7.extractLsb' 0 3) (maj.extractLsb' 0 1) s) else none) else
  if f7.extractLsb' 3 4 = 10 then (if decide (0 < d.toNat ∧ d.toNat < 8) then some (execVfcmpLeBf16 sc d a b (f7.extractLsb' 0 3) (maj.extractLsb' 0 1) s) else none) else
  if f7.extractLsb' 3 4 = 12 ∧ b = 0 then some (execVfaddChBf16 sc d a (f7.extractLsb' 0 3) (maj.extractLsb' 0 1) s) else
  if f7.extractLsb' 3 4 = 11 ∧ a = 0 then some (execVfsqrtBf16 sc d b (f7.extractLsb' 0 3) s) else
  if f7.extractLsb' 3 4 = 11 ∧ a = 1 then some (execVfrsqrtBf16 sc d b (f7.extractLsb' 0 3) s) else
  if f7.extractLsb' 3 4 = 11 ∧ a = 2 then some (execVfexp2Bf16 sc d b (f7.extractLsb' 0 3) s) else
  if f7.extractLsb' 3 4 = 11 ∧ a = 3 then some (execVflog2Bf16 sc d b (f7.extractLsb' 0 3) s) else
  if f7.extractLsb' 3 4 = 11 ∧ a = 4 then some (execVfclassBf16 sc d b (f7.extractLsb' 0 3) s) else
  none

theorem runMajor28_eq (f7 : BitVec 7) (b a d : BitVec 5) (maj : BitVec 6) (sc : Sc) (s : State) :
    runMajor28 f7 b a d maj sc s = execSome s (decMajor28 f7 b a d maj sc) := by
  unfold runMajor28 decMajor28
  simp only [execSome_ite, execSome_none]
  rfl

def runMajor29 (f7 : BitVec 7) (b a d : BitVec 5) (maj : BitVec 6) (sc : Sc) (s : State) : Option Out :=
  if f7.extractLsb' 3 4 = 0 then some (execVfaddBf16 sc d a b (f7.extractLsb' 0 3) (maj.extractLsb' 0 1) s) else
  if f7.extractLsb' 3 4 = 1 then some (execVfsubBf16 sc d a b (f7.extractLsb' 0 3) (maj.extractLsb' 0 1) s) else
  if f7.extractLsb' 3 4 = 2 then some (execVfmulBf16 sc d a b (f7.extractLsb' 0 3) (maj.extractLsb' 0 1) s) else
  if f7.extractLsb' 3 4 = 3 then some (execVfdivBf16 sc d a b (f7.extractLsb' 0 3) (maj.extractLsb' 0 1) s) else
  if f7.extractLsb' 3 4 = 4 then some (execVfmaBf16 sc d a b (f7.extractLsb' 0 3) (maj.extractLsb' 0 1) s) else
  if f7.extractLsb' 3 4 = 5 then some (execVfnmaBf16 sc d a b (f7.extractLsb' 0 3) (maj.extractLsb' 0 1) s) else
  if f7.extractLsb' 3 4 = 6 then some (execVfminBf16 sc d a b (f7.extractLsb' 0 3) (maj.extractLsb' 0 1) s) else
  if f7.extractLsb' 3 4 = 7 then some (execVfmaxBf16 sc d a b (f7.extractLsb' 0 3) (maj.extractLsb' 0 1) s) else
  if f7.extractLsb' 3 4 = 8 then (if decide (0 < d.toNat ∧ d.toNat < 8) then some (execVfcmpEqBf16 sc d a b (f7.extractLsb' 0 3) (maj.extractLsb' 0 1) s) else none) else
  if f7.extractLsb' 3 4 = 9 then (if decide (0 < d.toNat ∧ d.toNat < 8) then some (execVfcmpLtBf16 sc d a b (f7.extractLsb' 0 3) (maj.extractLsb' 0 1) s) else none) else
  if f7.extractLsb' 3 4 = 10 then (if decide (0 < d.toNat ∧ d.toNat < 8) then some (execVfcmpLeBf16 sc d a b (f7.extractLsb' 0 3) (maj.extractLsb' 0 1) s) else none) else
  if f7.extractLsb' 3 4 = 12 ∧ b = 0 then some (execVfaddChBf16 sc d a (f7.extractLsb' 0 3) (maj.extractLsb' 0 1) s) else
  none

theorem runMajor29_eq (f7 : BitVec 7) (b a d : BitVec 5) (maj : BitVec 6) (sc : Sc) (s : State) :
    runMajor29 f7 b a d maj sc s = execSome s (decMajor29 f7 b a d maj sc) := by
  unfold runMajor29 decMajor29
  simp only [execSome_ite, execSome_none]
  rfl

def runMajor2A (f7 : BitVec 7) (b a d : BitVec 5) (maj : BitVec 6) (sc : Sc) (s : State) : Option Out :=
  if decide (vectorCvtPair a (maj.extractLsb' 0 1 ++ f7.extractLsb' 3 4 : BitVec 5) = true) then some (execVfcvt sc d b (f7.extractLsb' 0 3) a (maj.extractLsb' 0 1 ++ f7.extractLsb' 3 4 : BitVec 5) s) else none

theorem runMajor2A_eq (f7 : BitVec 7) (b a d : BitVec 5) (maj : BitVec 6) (sc : Sc) (s : State) :
    runMajor2A f7 b a d maj sc s = execSome s (decMajor2A f7 b a d maj sc) := by
  unfold runMajor2A decMajor2A
  rfl

def runMajor2C (f7 : BitVec 7) (b a d : BitVec 5) (_maj : BitVec 6) (sc : Sc) (s : State) : Option Out :=
  if f7.extractLsb' 3 3 = 0 then (if decide (0 < d.toNat ∧ d.toNat < 8) then some (execVcmpEq sc d a b (f7.extractLsb' 6 1) (f7.extractLsb' 0 3) s) else none) else
  if f7.extractLsb' 3 3 = 1 then (if decide (0 < d.toNat ∧ d.toNat < 8) then some (execVcmpNe sc d a b (f7.extractLsb' 6 1) (f7.extractLsb' 0 3) s) else none) else
  if f7.extractLsb' 3 3 = 2 then (if decide (0 < d.toNat ∧ d.toNat < 8) then some (execVcmpLt sc d a b (f7.extractLsb' 6 1) (f7.extractLsb' 0 3) s) else none) else
  if f7.extractLsb' 3 3 = 3 then (if decide (0 < d.toNat ∧ d.toNat < 8) then some (execVcmpLe sc d a b (f7.extractLsb' 6 1) (f7.extractLsb' 0 3) s) else none) else
  if f7.extractLsb' 3 3 = 4 then some (execVwadd sc d a b (f7.extractLsb' 6 1) (f7.extractLsb' 0 3) s) else
  if f7.extractLsb' 3 3 = 5 then some (execVwmul sc d a b (f7.extractLsb' 6 1) (f7.extractLsb' 0 3) s) else
  if f7.extractLsb' 3 3 = 6 ∧ b = 0 then some (execVmaxCh sc d a (f7.extractLsb' 6 1) (f7.extractLsb' 0 3) s) else
  if f7.extractLsb' 3 3 = 7 ∧ b = 0 then some (execVminCh sc d a (f7.extractLsb' 6 1) (f7.extractLsb' 0 3) s) else
  none

theorem runMajor2C_eq (f7 : BitVec 7) (b a d : BitVec 5) (maj : BitVec 6) (sc : Sc) (s : State) :
    runMajor2C f7 b a d maj sc s = execSome s (decMajor2C f7 b a d maj sc) := by
  unfold runMajor2C decMajor2C
  simp only [execSome_ite, execSome_none]
  rfl

def runMajor2D (f7 : BitVec 7) (b a d : BitVec 5) (_maj : BitVec 6) (sc : Sc) (s : State) : Option Out :=
  if f7.extractLsb' 3 4 = 0 then some (execVredsum sc d a b (f7.extractLsb' 0 3) s) else
  if f7.extractLsb' 3 4 = 1 then some (execVredmax sc d a b (f7.extractLsb' 0 3) s) else
  if f7.extractLsb' 3 4 = 2 then some (execVredmin sc d a b (f7.extractLsb' 0 3) s) else
  if f7.extractLsb' 3 4 = 3 then some (execVredmaxN sc d a b (f7.extractLsb' 0 3) s) else
  if f7.extractLsb' 3 4 = 4 then some (execVredminN sc d a b (f7.extractLsb' 0 3) s) else
  if f7.extractLsb' 3 4 = 5 then some (execVfredsum sc d a b (f7.extractLsb' 0 3) s) else
  if f7.extractLsb' 3 4 = 6 then some (execVfredmax sc d a b (f7.extractLsb' 0 3) s) else
  if f7.extractLsb' 3 4 = 7 then some (execVfredsumBf16 sc d a b (f7.extractLsb' 0 3) s) else
  if f7.extractLsb' 3 4 = 8 then some (execVfredmaxBf16 sc d a b (f7.extractLsb' 0 3) s) else
  none

theorem runMajor2D_eq (f7 : BitVec 7) (b a d : BitVec 5) (maj : BitVec 6) (sc : Sc) (s : State) :
    runMajor2D f7 b a d maj sc s = execSome s (decMajor2D f7 b a d maj sc) := by
  unfold runMajor2D decMajor2D
  simp only [execSome_ite, execSome_none]
  rfl

def runMajor2E (f7 : BitVec 7) (b a d : BitVec 5) (_maj : BitVec 6) (sc : Sc) (s : State) : Option Out :=
  if f7.extractLsb' 6 1 = 0 then some (execVmxunp sc d a b (f7.extractLsb' 3 3) (f7.extractLsb' 0 3) s) else
  if f7.extractLsb' 6 1 = 1 then some (execVmxpack sc d a b (f7.extractLsb' 3 3) (f7.extractLsb' 0 3) s) else
  none

theorem runMajor2E_eq (f7 : BitVec 7) (b a d : BitVec 5) (maj : BitVec 6) (sc : Sc) (s : State) :
    runMajor2E f7 b a d maj sc s = execSome s (decMajor2E f7 b a d maj sc) := by
  unfold runMajor2E decMajor2E
  simp only [execSome_ite, execSome_none]
  rfl

def runMajor2F (f7 : BitVec 7) (b a d : BitVec 5) (_maj : BitVec 6) (sc : Sc) (s : State) : Option Out :=
  if f7.extractLsb' 3 4 = 0 then some (execVslideup sc d a b (f7.extractLsb' 0 3) s) else
  if f7.extractLsb' 3 4 = 1 then some (execVslidedn sc d a b (f7.extractLsb' 0 3) s) else
  if f7.extractLsb' 3 4 = 2 then some (execVrgather sc d a b (f7.extractLsb' 0 3) s) else
  if f7 = 24 then (if decide (a.toNat < 8) then some (execVcompress sc d a b s) else none) else
  if f7.extractLsb' 3 4 = 4 ∧ b = 0 then (if decide (a.toNat < 8) then some (execViota sc d a (f7.extractLsb' 0 3) s) else none) else
  if f7.extractLsb' 3 4 = 5 ∧ b = 0 ∧ a = 0 then some (execVid sc d (f7.extractLsb' 0 3) s) else
  if f7.extractLsb' 3 4 = 6 ∧ b = 0 then some (execVbcast sc d a (f7.extractLsb' 0 3) s) else
  if f7.extractLsb' 3 4 = 7 then some (execVext sc d a b (f7.extractLsb' 0 3) s) else
  if f7.extractLsb' 3 4 = 8 then some (execVins sc d a b (f7.extractLsb' 0 3) s) else
  if f7 = 72 then (if decide (0 < d.toNat ∧ d.toNat < 8 ∧ a.toNat < 8 ∧ b.toNat < 8) then some (execMand sc d a b s) else none) else
  if f7 = 80 then (if decide (0 < d.toNat ∧ d.toNat < 8 ∧ a.toNat < 8 ∧ b.toNat < 8) then some (execMor sc d a b s) else none) else
  if f7 = 88 then (if decide (0 < d.toNat ∧ d.toNat < 8 ∧ a.toNat < 8 ∧ b.toNat < 8) then some (execMxor sc d a b s) else none) else
  if f7 = 96 ∧ b = 0 then (if decide (0 < d.toNat ∧ d.toNat < 8 ∧ a.toNat < 8) then some (execMnot sc d a s) else none) else
  if f7 = 104 ∧ b = 0 then (if decide (a.toNat < 8) then some (execMpopc sc d a s) else none) else
  if f7 = 112 ∧ b = 0 then (if decide (a.toNat < 8) then some (execMfirst sc d a s) else none) else
  none

theorem runMajor2F_eq (f7 : BitVec 7) (b a d : BitVec 5) (maj : BitVec 6) (sc : Sc) (s : State) :
    runMajor2F f7 b a d maj sc s = execSome s (decMajor2F f7 b a d maj sc) := by
  unfold runMajor2F decMajor2F
  simp only [execSome_ite, execSome_none]
  rfl

def runMajor30 (f7 : BitVec 7) (b a d : BitVec 5) (_maj : BitVec 6) (sc : Sc) (s : State) : Option Out :=
  if f7.extractLsb' 3 1 = 0 ∧ b = 0 then (if decide ((f7.extractLsb' 4 3).toNat ≤ 5) then some (execVld sc d a (f7.extractLsb' 4 3) (f7.extractLsb' 0 3) s) else none) else
  none

theorem runMajor30_eq (f7 : BitVec 7) (b a d : BitVec 5) (maj : BitVec 6) (sc : Sc) (s : State) :
    runMajor30 f7 b a d maj sc s = execSome s (decMajor30 f7 b a d maj sc) := by
  unfold runMajor30 decMajor30
  simp only [execSome_ite, execSome_none]
  rfl

def runMajor31 (f7 : BitVec 7) (b a d : BitVec 5) (_maj : BitVec 6) (sc : Sc) (s : State) : Option Out :=
  if f7.extractLsb' 3 1 = 0 then (if decide ((f7.extractLsb' 4 3).toNat ≤ 5) then some (execVlds sc d a b (f7.extractLsb' 4 3) (f7.extractLsb' 0 3) s) else none) else
  none

theorem runMajor31_eq (f7 : BitVec 7) (b a d : BitVec 5) (maj : BitVec 6) (sc : Sc) (s : State) :
    runMajor31 f7 b a d maj sc s = execSome s (decMajor31 f7 b a d maj sc) := by
  unfold runMajor31 decMajor31
  simp only [execSome_ite, execSome_none]
  rfl

def runMajor32 (f7 : BitVec 7) (b a d : BitVec 5) (_maj : BitVec 6) (sc : Sc) (s : State) : Option Out :=
  if f7.extractLsb' 3 1 = 0 then (if decide ((f7.extractLsb' 4 3).toNat ≤ 5) then some (execVldx sc d a b (f7.extractLsb' 4 3) (f7.extractLsb' 0 3) s) else none) else
  none

theorem runMajor32_eq (f7 : BitVec 7) (b a d : BitVec 5) (maj : BitVec 6) (sc : Sc) (s : State) :
    runMajor32 f7 b a d maj sc s = execSome s (decMajor32 f7 b a d maj sc) := by
  unfold runMajor32 decMajor32
  simp only [execSome_ite, execSome_none]
  rfl

def runMajor33 (f7 : BitVec 7) (b a d : BitVec 5) (_maj : BitVec 6) (sc : Sc) (s : State) : Option Out :=
  if b = 0 then (if decide ((f7.extractLsb' 4 3).toNat ≤ 5) then some (execVst sc d a (f7.extractLsb' 4 3) (f7.extractLsb' 3 1) (f7.extractLsb' 0 3) s) else none) else
  none

theorem runMajor33_eq (f7 : BitVec 7) (b a d : BitVec 5) (maj : BitVec 6) (sc : Sc) (s : State) :
    runMajor33 f7 b a d maj sc s = execSome s (decMajor33 f7 b a d maj sc) := by
  unfold runMajor33 decMajor33
  simp only [execSome_ite, execSome_none]
  rfl

def runMajor34 (f7 : BitVec 7) (b a d : BitVec 5) (_maj : BitVec 6) (sc : Sc) (s : State) : Option Out :=
  if decide ((f7.extractLsb' 4 3).toNat ≤ 5) then some (execVsts sc d a b (f7.extractLsb' 4 3) (f7.extractLsb' 3 1) (f7.extractLsb' 0 3) s) else none

theorem runMajor34_eq (f7 : BitVec 7) (b a d : BitVec 5) (maj : BitVec 6) (sc : Sc) (s : State) :
    runMajor34 f7 b a d maj sc s = execSome s (decMajor34 f7 b a d maj sc) := by
  unfold runMajor34 decMajor34
  rfl

def runMajor35 (f7 : BitVec 7) (b a d : BitVec 5) (_maj : BitVec 6) (sc : Sc) (s : State) : Option Out :=
  if decide ((f7.extractLsb' 4 3).toNat ≤ 5) then some (execVstx sc d a b (f7.extractLsb' 4 3) (f7.extractLsb' 3 1) (f7.extractLsb' 0 3) s) else none

theorem runMajor35_eq (f7 : BitVec 7) (b a d : BitVec 5) (maj : BitVec 6) (sc : Sc) (s : State) :
    runMajor35 f7 b a d maj sc s = execSome s (decMajor35 f7 b a d maj sc) := by
  unfold runMajor35 decMajor35
  rfl

def runMajor36 (f7 : BitVec 7) (b a d : BitVec 5) (_maj : BitVec 6) (sc : Sc) (s : State) : Option Out :=
  if f7.extractLsb' 3 1 = 0 ∧ b = 0 then (if decide ((f7.extractLsb' 4 3).toNat ≤ 5) then some (execVldm sc d a (f7.extractLsb' 4 3) (f7.extractLsb' 0 3) s) else none) else
  if b = 1 then (if decide ((f7.extractLsb' 4 3).toNat ≤ 5) then some (execVstm sc d a (f7.extractLsb' 4 3) (f7.extractLsb' 3 1) (f7.extractLsb' 0 3) s) else none) else
  none

theorem runMajor36_eq (f7 : BitVec 7) (b a d : BitVec 5) (maj : BitVec 6) (sc : Sc) (s : State) :
    runMajor36 f7 b a d maj sc s = execSome s (decMajor36 f7 b a d maj sc) := by
  unfold runMajor36 decMajor36
  simp only [execSome_ite, execSome_none]
  rfl

def runMajor37 (f7 : BitVec 7) (b a d : BitVec 5) (_maj : BitVec 6) (sc : Sc) (s : State) : Option Out :=
  if f7.extractLsb' 0 4 = 0 then (if decide ((f7.extractLsb' 4 3).toNat ≤ 5) then some (execVsld sc d a b (f7.extractLsb' 4 3) s) else none) else
  none

theorem runMajor37_eq (f7 : BitVec 7) (b a d : BitVec 5) (maj : BitVec 6) (sc : Sc) (s : State) :
    runMajor37 f7 b a d maj sc s = execSome s (decMajor37 f7 b a d maj sc) := by
  unfold runMajor37 decMajor37
  simp only [execSome_ite, execSome_none]
  rfl

def runMajor38 (f7 : BitVec 7) (b a d : BitVec 5) (_maj : BitVec 6) (sc : Sc) (s : State) : Option Out :=
  if f7.extractLsb' 3 4 = 0 ∧ b = 0 ∧ a = 0 ∧ d = 0 then (if decide ((f7.extractLsb' 0 3).toNat ≤ 5) then some (execFence sc (f7.extractLsb' 0 3) s) else none) else
  if f7.extractLsb' 3 4 = 1 ∧ b = 0 ∧ a = 0 ∧ d = 0 then (if decide ((f7.extractLsb' 0 3).toNat ≤ 5) then some (execFenceAcq sc (f7.extractLsb' 0 3) s) else none) else
  if f7.extractLsb' 3 4 = 2 ∧ b = 0 ∧ a = 0 ∧ d = 0 then (if decide ((f7.extractLsb' 0 3).toNat ≤ 5) then some (execFenceRel sc (f7.extractLsb' 0 3) s) else none) else
  if f7.extractLsb' 3 4 = 3 ∧ b = 0 ∧ a = 0 ∧ d = 0 then (if decide ((f7.extractLsb' 0 3).toNat ≤ 5) then some (execFenceSv sc (f7.extractLsb' 0 3) s) else none) else
  if f7.extractLsb' 3 4 = 4 ∧ b = 0 ∧ a = 0 ∧ d = 0 then (if decide ((f7.extractLsb' 0 3).toNat ≤ 5) then some (execFenceVs sc (f7.extractLsb' 0 3) s) else none) else
  if f7.extractLsb' 3 4 = 5 ∧ b = 0 ∧ a = 0 ∧ d = 0 then (if decide ((f7.extractLsb' 0 3).toNat ≤ 5) then some (execFenceSe sc (f7.extractLsb' 0 3) s) else none) else
  if f7.extractLsb' 3 4 = 6 ∧ b = 0 ∧ a = 0 ∧ d = 0 then (if decide ((f7.extractLsb' 0 3).toNat ≤ 5) then some (execFenceVe sc (f7.extractLsb' 0 3) s) else none) else
  none

theorem runMajor38_eq (f7 : BitVec 7) (b a d : BitVec 5) (maj : BitVec 6) (sc : Sc) (s : State) :
    runMajor38 f7 b a d maj sc s = execSome s (decMajor38 f7 b a d maj sc) := by
  unfold runMajor38 decMajor38
  simp only [execSome_ite, execSome_none]
  rfl

def runMajor39 (f7 : BitVec 7) (b a d : BitVec 5) (_maj : BitVec 6) (sc : Sc) (s : State) : Option Out :=
  if f7.extractLsb' 3 4 = 0 ∧ d = 0 then some (execBinit sc a b (f7.extractLsb' 0 3) s) else
  if f7.extractLsb' 3 4 = 1 then (if decide ((f7.extractLsb' 0 3).toNat ≤ 5) then some (execBarr sc d a b (f7.extractLsb' 0 3) s) else none) else
  if f7.extractLsb' 3 4 = 2 then (if decide ((f7.extractLsb' 0 3).toNat ≤ 5) then some (execBarb sc d a b (f7.extractLsb' 0 3) s) else none) else
  if f7.extractLsb' 3 4 = 3 then (if decide ((f7.extractLsb' 0 3).toNat ≤ 5) then some (execBwait sc d a b (f7.extractLsb' 0 3) s) else none) else
  if f7.extractLsb' 3 4 = 4 then (if decide ((f7.extractLsb' 0 3).toNat ≤ 5) then some (execBtest sc d a b (f7.extractLsb' 0 3) s) else none) else
  none

theorem runMajor39_eq (f7 : BitVec 7) (b a d : BitVec 5) (maj : BitVec 6) (sc : Sc) (s : State) :
    runMajor39 f7 b a d maj sc s = execSome s (decMajor39 f7 b a d maj sc) := by
  unfold runMajor39 decMajor39
  simp only [execSome_ite, execSome_none]
  rfl

def runMajor3A (f7 : BitVec 7) (b a d : BitVec 5) (_maj : BitVec 6) (sc : Sc) (s : State) : Option Out :=
  if f7.extractLsb' 3 4 = 0 ∧ d = 0 then some (execCbinit sc a b (f7.extractLsb' 0 3) s) else
  if f7.extractLsb' 3 4 = 1 then (if decide ((f7.extractLsb' 0 3).toNat ≤ 5) then some (execCbpush sc d a b (f7.extractLsb' 0 3) s) else none) else
  if f7.extractLsb' 3 4 = 2 then (if decide ((f7.extractLsb' 0 3).toNat ≤ 5) then some (execCbpop sc d a b (f7.extractLsb' 0 3) s) else none) else
  if f7.extractLsb' 3 4 = 3 then (if decide ((f7.extractLsb' 0 3).toNat ≤ 5) then some (execCbwait sc d a b (f7.extractLsb' 0 3) s) else none) else
  if f7 = 32 then some (execSrcfg sc d a b s) else
  none

theorem runMajor3A_eq (f7 : BitVec 7) (b a d : BitVec 5) (maj : BitVec 6) (sc : Sc) (s : State) :
    runMajor3A f7 b a d maj sc s = execSome s (decMajor3A f7 b a d maj sc) := by
  unfold runMajor3A decMajor3A
  simp only [execSome_ite, execSome_none]
  rfl

def runMajor3C (f7 : BitVec 7) (b a d : BitVec 5) (_maj : BitVec 6) (sc : Sc) (s : State) : Option Out :=
  if f7 = 0 ∧ b = 0 then some (execTshape sc d a s) else
  if f7.extractLsb' 3 4 = 1 then (if decide (matrixCode d = true) then some (execMldw sc a b (f7.extractLsb' 0 3) d s) else none) else
  if f7 = 16 ∧ b = 0 ∧ a = 0 then (if decide (d.toNat < 8) then some (execMmaz sc d s) else none) else
  if f7.extractLsb' 3 4 = 3 then (if decide (d.toNat < 8) then some (execMsta sc a b (f7.extractLsb' 0 3) d s) else none) else
  if f7 = 32 ∧ a = 0 then (if decide (d.toNat < 8) then some (execMchk sc b d s) else none) else
  if f7.extractLsb' 3 4 = 5 ∧ a = 0 then (if decide (d.toNat < 8) then some (execMver sc b (f7.extractLsb' 0 3) d s) else none) else
  if f7 = 48 ∧ b = 0 then (if decide (a.toNat < 8) then some (execMstat sc d a s) else none) else
  if f7 = 56 ∧ b = 0 ∧ d = 0 then some (execMrel sc a s) else
  if f7.extractLsb' 3 4 = 8 then (if decide (matrixCode d = true) then some (execMma sc a b (f7.extractLsb' 0 3) d s) else none) else
  if f7.extractLsb' 3 4 = 9 then (if decide (matrixCode d = true) then some (execMmaMx sc a b (f7.extractLsb' 0 3) d s) else none) else
  none

theorem runMajor3C_eq (f7 : BitVec 7) (b a d : BitVec 5) (maj : BitVec 6) (sc : Sc) (s : State) :
    runMajor3C f7 b a d maj sc s = execSome s (decMajor3C f7 b a d maj sc) := by
  unfold runMajor3C decMajor3C
  simp only [execSome_ite, execSome_none]
  rfl

def runMajor3D (f7 : BitVec 7) (b a d : BitVec 5) (_maj : BitVec 6) (sc : Sc) (s : State) : Option Out :=
  if f7.extractLsb' 3 3 = 0 then (if decide (isPair a = true ∧ isPair b = true) then some (execCpy sc d a b (f7.extractLsb' 6 1) (f7.extractLsb' 0 3) s) else none) else
  if f7.extractLsb' 3 3 = 1 then (if decide (isPair a = true ∧ isQuad b = true) then some (execCpy2 sc d a b (f7.extractLsb' 6 1) (f7.extractLsb' 0 3) s) else none) else
  if f7.extractLsb' 3 3 = 2 then (if decide (isPair a = true ∧ isPair b = true) then some (execCpyg sc d a b (f7.extractLsb' 6 1) (f7.extractLsb' 0 3) s) else none) else
  if f7 = 24 ∧ b = 0 then some (execCpyx sc d a s) else
  none

theorem runMajor3D_eq (f7 : BitVec 7) (b a d : BitVec 5) (maj : BitVec 6) (sc : Sc) (s : State) :
    runMajor3D f7 b a d maj sc s = execSome s (decMajor3D f7 b a d maj sc) := by
  unfold runMajor3D decMajor3D
  simp only [execSome_ite, execSome_none]
  rfl

def runMajor3E (f7 : BitVec 7) (b a d : BitVec 5) (_maj : BitVec 6) (sc : Sc) (s : State) : Option Out :=
  if f7.extractLsb' 3 4 = 0 then (if decide (isPair a = true) then some (execBkop sc d a b (f7.extractLsb' 0 3) s) else none) else
  if f7 = 8 then some (execBklock sc d a b s) else
  if f7 = 16 then some (execBkunlock sc d a b s) else
  if f7.extractLsb' 3 4 = 3 ∧ b = 0 ∧ a = 0 ∧ d = 0 then (if decide (((f7.extractLsb' 0 3) = 1 ∨ (f7.extractLsb' 0 3) = 4 ∨ (f7.extractLsb' 0 3) = 7)) then some (execBkfence sc (f7.extractLsb' 0 3) s) else none) else
  if f7.extractLsb' 3 4 = 4 then (if decide (isPair a = true ∧ isPair b = true) then some (execBkcopy sc d a b (f7.extractLsb' 0 3) s) else none) else
  if f7 = 40 then some (execWickload sc d a b s) else
  if f7 = 48 then some (execBkcfg sc d a b s) else
  none

theorem runMajor3E_eq (f7 : BitVec 7) (b a d : BitVec 5) (maj : BitVec 6) (sc : Sc) (s : State) :
    runMajor3E f7 b a d maj sc s = execSome s (decMajor3E f7 b a d maj sc) := by
  unfold runMajor3E decMajor3E
  simp only [execSome_ite, execSome_none]
  rfl

/-- The meaning of a word under `ver` 00, by its fields. -/
def runMajor (f7 : BitVec 7) (b a d : BitVec 5) (maj : BitVec 6) (sc : Sc) (s : State) : Option Out :=
  match maj.toNat with
  | 0x00 => runMajor00 f7 b a d maj sc s
  | 0x01 => runMajor01 f7 b a d maj sc s
  | 0x02 => runMajor02 f7 b a d maj sc s
  | 0x03 => runMajor03 f7 b a d maj sc s
  | 0x04 => runMajor04 f7 b a d maj sc s
  | 0x05 => runMajor05 f7 b a d maj sc s
  | 0x06 => runMajor06 f7 b a d maj sc s
  | 0x07 => runMajor07 f7 b a d maj sc s
  | 0x08 => runMajor08 f7 b a d maj sc s
  | 0x09 => runMajor09 f7 b a d maj sc s
  | 0x0A => runMajor0A f7 b a d maj sc s
  | 0x0B => runMajor0B f7 b a d maj sc s
  | 0x0C => runMajor0C f7 b a d maj sc s
  | 0x0D => runMajor0D f7 b a d maj sc s
  | 0x0E => runMajor0E f7 b a d maj sc s
  | 0x0F => runMajor0F f7 b a d maj sc s
  | 0x10 => runMajor10 f7 b a d maj sc s
  | 0x11 => runMajor11 f7 b a d maj sc s
  | 0x12 | 0x13 => runMajor12 f7 b a d maj sc s
  | 0x14 | 0x15 => runMajor14 f7 b a d maj sc s
  | 0x16 | 0x17 => runMajor16 f7 b a d maj sc s
  | 0x18 => runMajor18 f7 b a d maj sc s
  | 0x19 => runMajor19 f7 b a d maj sc s
  | 0x1A => runMajor1A f7 b a d maj sc s
  | 0x1B => runMajor1B f7 b a d maj sc s
  | 0x1C => runMajor1C f7 b a d maj sc s
  | 0x1D => runMajor1D f7 b a d maj sc s
  | 0x1E => runMajor1E f7 b a d maj sc s
  | 0x1F => runMajor1F f7 b a d maj sc s
  | 0x20 | 0x21 | 0x22 => runMajor20 f7 b a d maj sc s
  | 0x23 | 0x24 | 0x25 => runMajor23 f7 b a d maj sc s
  | 0x26 => runMajor26 f7 b a d maj sc s
  | 0x27 => runMajor27 f7 b a d maj sc s
  | 0x28 => runMajor28 f7 b a d maj sc s
  | 0x29 => runMajor29 f7 b a d maj sc s
  | 0x2A | 0x2B => runMajor2A f7 b a d maj sc s
  | 0x2C => runMajor2C f7 b a d maj sc s
  | 0x2D => runMajor2D f7 b a d maj sc s
  | 0x2E => runMajor2E f7 b a d maj sc s
  | 0x2F => runMajor2F f7 b a d maj sc s
  | 0x30 => runMajor30 f7 b a d maj sc s
  | 0x31 => runMajor31 f7 b a d maj sc s
  | 0x32 => runMajor32 f7 b a d maj sc s
  | 0x33 => runMajor33 f7 b a d maj sc s
  | 0x34 => runMajor34 f7 b a d maj sc s
  | 0x35 => runMajor35 f7 b a d maj sc s
  | 0x36 => runMajor36 f7 b a d maj sc s
  | 0x37 => runMajor37 f7 b a d maj sc s
  | 0x38 => runMajor38 f7 b a d maj sc s
  | 0x39 => runMajor39 f7 b a d maj sc s
  | 0x3A => runMajor3A f7 b a d maj sc s
  | 0x3C => runMajor3C f7 b a d maj sc s
  | 0x3D => runMajor3D f7 b a d maj sc s
  | 0x3E => runMajor3E f7 b a d maj sc s
  | _ => none

theorem runMajor_eq (f7 : BitVec 7) (b a d : BitVec 5) (maj : BitVec 6) (sc : Sc) (s : State) :
    runMajor f7 b a d maj sc s = execSome s (decodeMajor f7 b a d maj sc) := by
  unfold runMajor decodeMajor
  generalize maj.toNat = n
  split
  · exact runMajor00_eq f7 b a d maj sc s
  · exact runMajor01_eq f7 b a d maj sc s
  · exact runMajor02_eq f7 b a d maj sc s
  · exact runMajor03_eq f7 b a d maj sc s
  · exact runMajor04_eq f7 b a d maj sc s
  · exact runMajor05_eq f7 b a d maj sc s
  · exact runMajor06_eq f7 b a d maj sc s
  · exact runMajor07_eq f7 b a d maj sc s
  · exact runMajor08_eq f7 b a d maj sc s
  · exact runMajor09_eq f7 b a d maj sc s
  · exact runMajor0A_eq f7 b a d maj sc s
  · exact runMajor0B_eq f7 b a d maj sc s
  · exact runMajor0C_eq f7 b a d maj sc s
  · exact runMajor0D_eq f7 b a d maj sc s
  · exact runMajor0E_eq f7 b a d maj sc s
  · exact runMajor0F_eq f7 b a d maj sc s
  · exact runMajor10_eq f7 b a d maj sc s
  · exact runMajor11_eq f7 b a d maj sc s
  · exact runMajor12_eq f7 b a d maj sc s
  · exact runMajor12_eq f7 b a d maj sc s
  · exact runMajor14_eq f7 b a d maj sc s
  · exact runMajor14_eq f7 b a d maj sc s
  · exact runMajor16_eq f7 b a d maj sc s
  · exact runMajor16_eq f7 b a d maj sc s
  · exact runMajor18_eq f7 b a d maj sc s
  · exact runMajor19_eq f7 b a d maj sc s
  · exact runMajor1A_eq f7 b a d maj sc s
  · exact runMajor1B_eq f7 b a d maj sc s
  · exact runMajor1C_eq f7 b a d maj sc s
  · exact runMajor1D_eq f7 b a d maj sc s
  · exact runMajor1E_eq f7 b a d maj sc s
  · exact runMajor1F_eq f7 b a d maj sc s
  · exact runMajor20_eq f7 b a d maj sc s
  · exact runMajor20_eq f7 b a d maj sc s
  · exact runMajor20_eq f7 b a d maj sc s
  · exact runMajor23_eq f7 b a d maj sc s
  · exact runMajor23_eq f7 b a d maj sc s
  · exact runMajor23_eq f7 b a d maj sc s
  · exact runMajor26_eq f7 b a d maj sc s
  · exact runMajor27_eq f7 b a d maj sc s
  · exact runMajor28_eq f7 b a d maj sc s
  · exact runMajor29_eq f7 b a d maj sc s
  · exact runMajor2A_eq f7 b a d maj sc s
  · exact runMajor2A_eq f7 b a d maj sc s
  · exact runMajor2C_eq f7 b a d maj sc s
  · exact runMajor2D_eq f7 b a d maj sc s
  · exact runMajor2E_eq f7 b a d maj sc s
  · exact runMajor2F_eq f7 b a d maj sc s
  · exact runMajor30_eq f7 b a d maj sc s
  · exact runMajor31_eq f7 b a d maj sc s
  · exact runMajor32_eq f7 b a d maj sc s
  · exact runMajor33_eq f7 b a d maj sc s
  · exact runMajor34_eq f7 b a d maj sc s
  · exact runMajor35_eq f7 b a d maj sc s
  · exact runMajor36_eq f7 b a d maj sc s
  · exact runMajor37_eq f7 b a d maj sc s
  · exact runMajor38_eq f7 b a d maj sc s
  · exact runMajor39_eq f7 b a d maj sc s
  · exact runMajor3A_eq f7 b a d maj sc s
  · exact runMajor3C_eq f7 b a d maj sc s
  · exact runMajor3D_eq f7 b a d maj sc s
  · exact runMajor3E_eq f7 b a d maj sc s
  · rw [execSome]
    first | rfl | (split <;> first | rfl | contradiction)

/-- A word is executed: the meaning of the instruction it decodes to, or the trap of a word that is none (R246). -/
noncomputable def execWord (w : IWord) (s : State) : Out :=
  match decode w with
  | .ok i => exec i s
  | .error _ => exec (.illegalInstruction w) s

/-- `execWord`, as it is run. -/
def runWord (w : IWord) (s : State) : Out :=
  if w.extractLsb' 0 2 ≠ 0 ∨ w = 0 then execIllegalInstruction w s
  else match runMajor (w.extractLsb' 25 7) (w.extractLsb' 20 5) (w.extractLsb' 15 5) (w.extractLsb' 10 5) (w.extractLsb' 4 6)
      (w.extractLsb' 2 2) s with
    | some o => o
    | none => execIllegalInstruction w s

theorem exec_illegal (w : IWord) (s : State) : exec (.illegalInstruction w) s = execIllegalInstruction w s := rfl

theorem decoded_eq (f : Instr → Out) (ill : Out) (o : Option Instr) :
    (match o.bind (fun i => if wellFormed i then some (f i) else none) with
      | some o => o
      | none => ill) =
    match (match o with
      | none => Except.error DecodeError.illegalSelector
      | some i => if wellFormed i then Except.ok i else Except.error DecodeError.illegalField) with
    | .ok i => f i
    | .error _ => ill := by
  cases o with
  | none => rfl
  | some i =>
    dsimp only [Option.bind_some]
    generalize wellFormed i = b
    cases b <;> rfl

theorem runWord_eq (w : IWord) (s : State) : runWord w s = execWord w s := by
  unfold runWord execWord decode
  rw [runMajor_eq, exec_illegal]
  by_cases h1 : w.extractLsb' 0 2 ≠ 0
  · rw [if_pos (.inl h1), if_pos h1]
  · by_cases h2 : w = 0
    · rw [if_pos (.inr h2), if_neg h1, if_pos h2]
    · rw [if_neg (not_or.mpr ⟨h1, h2⟩), if_neg h1, if_neg h2]
      exact decoded_eq (fun i => exec i s) _ _

end Sys2Proof.Machine
end

