-- ==== Sys2Proof/Machine/Step.lean ====
section
/-! DEFINITION. One step of the machine: one instruction of one hart, one micro-op of one invocation, or one event. -/
namespace Sys2Proof.Machine

/-- The fetch of a hart's next word, and what follows it (R437, R452). -/
def stepFetch (run : IWord → State → Out) (s : State) : Out :=
  match s.fetchWord with
  | .word s w => run w (s.begin_ w)
  | .fault s c v => exec (.instructionFetchFault c v) s
  | .hold s => .next s

/-- A hart's step: the boundary before its next instruction, then that instruction. -/
def stepHart (run : IWord → State → Out) (s : State) : Out :=
  match s.ahead with
  | some r => match s.aheadDone r with
    | some n => exec (.runAheadStop s.hart.place n) s
    | none => stepFetch run s
  | none => match s.firstLate with
    | some l =>
      if s.hart.interruptible || !s.hart.defer.isEmpty then .next s.unlate
      else if s.lateTurn l then s.runLate run l else stepFetch run s
    | none => match s.takeDeferred with
      | some t => .next t
      | none => if s.hart.interruptible then exec (.interruptTake s.hart.place) s else stepFetch run s

/-- A micro-op's step: the next microword of an invocation (R262). -/
def stepMicro (id : Nat) (s : State) : Out :=
  match s.microAt id with
  | none => .next s
  | some w => match decodeMicro w with
    | none => .next s
    | some i => exec i { s with cur := id }

/-- What an entry of the agenda does. -/
def stepAct (s : State) (a : Act) : Out :=
  match a with
  | .event i => exec i s
  | .micro id => stepMicro id s

/-- The step, by what executes a word: time passes, then the one that acts next acts. Before the firmware runs, the ROM's check
is the next thing (R475); once a fatal error has stopped the part, only the host's recovery surface acts (R459). -/
def stepWith (run : IWord → State → Out) (s : State) : Out :=
  if s.stopped.isSome ∧ s.picks = [] then .fault .partStopped
  else if s.plat.boot = 0 then exec .partReset s.clock
  else
    let s := s.clock
    match s.pick with
    | none => .next s
    | some (.hart p) => stepHart run (s.focus p)
    | some (.act k) => match s.agenda[k]? with
      | some a => stepAct (s.take k) a
      | none => .next s

/-- One step. -/
noncomputable def step (s : State) : Host.Outcome State Fault Refusal := stepWith execWord s

/-- The step, as it is run. -/
def stepImpl (s : State) : Host.Outcome State Fault Refusal := stepWith runWord s

@[csimp] theorem step_eq : @step = @stepImpl := by
  funext s
  rw [step, stepImpl, show @runWord = @execWord from funext fun w => funext fun s => runWord_eq w s]

/-- A state in which only one hart can act, and it is about to fetch: every other one waits. -/
def State.only (s : State) : State :=
  { s with hart := { s.hart with wait := none, pre := none, defer := [], irqs := [], ibuf := [] }
           harts := s.harts.map (fun h => { h with wait := some (.wfe 0 none), irqs := [] }), ras := [], lates := [], agenda := [], stopped := none, plat := { s.plat with boot := 2 } }

/-- The bytes of an instruction word stored where the hart fetches: at its PC, in a 64 KiB block of stack 0's Lantern window that
range 0 of its context maps for execution. -/
def State.withWord (s : State) (w : Nat) : State :=
  let pc : W64 := if s.hart.pc.toNat < 2 ^ 48 ∧ s.hart.pc.toNat % 4 = 0 then s.hart.pc else 0
  let blk : BitVec 32 := pc.extractLsb' 16 32
  let o := pc.toNat % 65536
  let c := s.getCtx s.hart.ctxKey
  let c : Ctx := { c with base := c.base.set 0 blk, lim := c.lim.set 0 blk, off := c.off.set 0 0x800000000#36, ctl := c.ctl.set 0 0x19#8 }
  let s := (s.upd (fun h => { h with pc := pc })).setCtx s.hart.ctxKey c
  { (((((s.setByte (keyLantern + o) (byteOf w 0)).setByte (keyLantern + o + 1) (byteOf w 1)).setByte
      (keyLantern + o + 2) (byteOf w 2)).setByte (keyLantern + o + 3) (byteOf w 3))) with
    psn := s.psn.filter (fun k => decide (k ≠ wordBase (keyLantern + o))), plat := { s.plat with fstk := s.plat.fstk &&& ~~~1#16 } }

/-- An invocation whose only micro-op is the given one, running, with nothing else that could act. -/
def State.withMicro (s : State) (w : Nat) : State :=
  let v : Inv :=
    { id := 0, cmd := 0, idx := 0, die := 0, bank := 0, sub := 0, ia := 0, ctx := 0, vf := 0, tag := 0, h := 0,
      code := [byteOf w 1 ++ byteOf w 0], pc := 0, p := Vector.replicate 4 0, b := Vector.replicate 4 0, arg := 0, loops := [],
      status := 0, cycles := 0, corrections := 0, st := .running, ecode := 0, errRow := 0, t := Vector.replicate 6 0, cpy := none }
  { s with hart := { s.hart with wait := some (.wfe 0 none) }, invs := [v], agenda := [.micro 0] }

/-- `s` with the instruction of `nbits` bits `w` stored where the next step fetches its next instruction. -/
def State.withFetchWord (s : State) (nbits w : Nat) : State :=
  if nbits = 16 then s.only.withMicro w else s.only.withWord w

end Sys2Proof.Machine
end

