-- ==== Sys2Proof/Safety.lean ====
section
/-! DEFINITION. The terms in which claims are made: what a safe step is, when a hart's instruction meets nothing that delays or
diverts it, and what a claim means by a register that holds a value. -/
namespace Sys2Proof.Safety
open Sys2Proof.Machine

/-- The step answers a next state: neither a fault nor a refusal. -/
def goesOn (o : Out) : Prop := ∃ t, o = .next t

/-- Every word of memory is in the canonical form. -/
def memoryCanonical (s : State) : Prop := Memory.wf s.mem = true

/-- The hart that steps is not in run-ahead (R38), no vector instruction stands short of its trap point in its queue (R185), no branch it
took hangs on a load that is still to be bound (R145), and an instruction with drain field `sc` finds what it waits for: with 11 nothing
of the vector stream and no symbolic load is left to be performed (R172, R245). -/
def calm (s : State) (sc : Sc) : Prop :=
  s.inAhead = false ∧ (sc = 3 → s.vectorPending = false) ∧ s.isLate = false ∧ s.hart.hdep = 0

/-- `x[r]` holds the known value `v` (R200), with good parity (R451) and no load behind it still to be bound (R145), and its use is not the
acquire of a copy (R166). -/
def holds (s : State) (r : Reg) (v : W64) : Prop :=
  s.hart.rx r = .known v ∧ (r = 0 ∨ (s.hart.xBad.getLsbD r.toNat = false ∧ s.hart.xdep[r.toNat] = 0)) ∧
    s.hart.acqOn.all (fun q => decide (q.1 ≠ r.toNat)) = true

/-- The state in which the instruction at the PC has written `v` to `x[rd]` and completed. -/
def wrote (s : State) (rd : Reg) (v : W64) : State := (s.wx rd v).retire

/-- Reading one byte of memory at a key. -/
def sameMemory (s t : State) : Prop := ∀ k, memGet t.mem k = memGet s.mem k

/-- The general registers but one. -/
def sameRegsBut (s t : State) (rd : Reg) : Prop := ∀ r : Reg, r ≠ rd → t.hart.rx r = s.hart.rx r

end Sys2Proof.Safety
end

