-- ==== Sys2Proof/Certificates/Slice0/Obligations.lean ====
section
/-! DEFINITION. The statements about the model, for the provers. -/
open Sys2Proof Sys2Proof.Machine Sys2Proof.Safety

namespace Sys2Proof.Claims

/-! ## Integer results by the spec's formulas -/

/-- A two-operand integer form: its fields and the value of R268 and R269 for operands a and b. -/
def intForm : Instr → Option (Sc × Reg × Reg × Reg × (W64 → W64 → W64))
  | .add sc rd r1 r2 => some (sc, rd, r1, r2, fun a b => BitVec.ofNat 64 (a.toNat + b.toNat))
  | .sub sc rd r1 r2 => some (sc, rd, r1, r2, fun a b => BitVec.ofInt 64 (a.toInt - b.toInt))
  | .mul sc rd r1 r2 => some (sc, rd, r1, r2, fun a b => BitVec.ofNat 64 (a.toNat * b.toNat))
  | .mulh sc rd r1 r2 => some (sc, rd, r1, r2, fun a b => BitVec.ofInt 64 ((a.toInt * b.toInt).fdiv (2 ^ 64)))
  | .mulhn sc rd r1 r2 => some (sc, rd, r1, r2, fun a b => BitVec.ofNat 64 (a.toNat * b.toNat / 2 ^ 64))
  | .div sc rd r1 r2 => some (sc, rd, r1, r2, fun a b =>
      if b = 0 then BitVec.allOnes 64 else if a.toInt = -2 ^ 63 ∧ b.toInt = -1 then a else BitVec.ofInt 64 (a.toInt.tdiv b.toInt))
  | .divn sc rd r1 r2 => some (sc, rd, r1, r2, fun a b => if b = 0 then BitVec.allOnes 64 else BitVec.ofNat 64 (a.toNat / b.toNat))
  | .rem sc rd r1 r2 => some (sc, rd, r1, r2, fun a b =>
      if b = 0 then a else if a.toInt = -2 ^ 63 ∧ b.toInt = -1 then 0 else BitVec.ofInt 64 (a.toInt.tmod b.toInt))
  | .remn sc rd r1 r2 => some (sc, rd, r1, r2, fun a b => if b = 0 then a else BitVec.ofNat 64 (a.toNat % b.toNat))
  | .andR sc rd r1 r2 => some (sc, rd, r1, r2, fun a b => a &&& b)
  | .orR sc rd r1 r2 => some (sc, rd, r1, r2, fun a b => a ||| b)
  | .xorR sc rd r1 r2 => some (sc, rd, r1, r2, fun a b => a ^^^ b)
  | .sll sc rd r1 r2 => some (sc, rd, r1, r2, fun a b => BitVec.ofNat 64 (a.toNat * 2 ^ (b.extractLsb' 0 6).toNat))
  | .srl sc rd r1 r2 => some (sc, rd, r1, r2, fun a b => BitVec.ofNat 64 (a.toNat / 2 ^ (b.extractLsb' 0 6).toNat))
  | .sra sc rd r1 r2 => some (sc, rd, r1, r2, fun a b => BitVec.ofInt 64 (a.toInt / 2 ^ (b.extractLsb' 0 6).toNat))
  | .slt sc rd r1 r2 => some (sc, rd, r1, r2, fun a b => if a.toInt < b.toInt then 1 else 0)
  | .sltn sc rd r1 r2 => some (sc, rd, r1, r2, fun a b => if a.toNat < b.toNat then 1 else 0)
  | .minR sc rd r1 r2 => some (sc, rd, r1, r2, fun a b => BitVec.ofInt 64 (min a.toInt b.toInt))
  | .maxR sc rd r1 r2 => some (sc, rd, r1, r2, fun a b => BitVec.ofInt 64 (max a.toInt b.toInt))
  | .minn sc rd r1 r2 => some (sc, rd, r1, r2, fun a b => BitVec.ofNat 64 (min a.toNat b.toNat))
  | .maxn sc rd r1 r2 => some (sc, rd, r1, r2, fun a b => BitVec.ofNat 64 (max a.toNat b.toNat))
  | _ => none

/-- A one-operand integer form: its fields and its value (R268, R270, R271). -/
def oneForm : Instr → Option (Sc × Reg × Reg × (W64 → W64))
  | .clz sc rd r1 => some (sc, rd, r1, fun a => BitVec.ofNat 64 (64 - Nat.size a.toNat))
  | .ctz sc rd r1 => some (sc, rd, r1, fun a => BitVec.ofNat 64 (if a = 0 then 64 else padicValNat 2 a.toNat))
  | .popc sc rd r1 => some (sc, rd, r1, fun a => BitVec.ofNat 64 (Finset.univ.filter (fun i : Fin 64 => a.getLsbD i = true)).card)
  | .sext sc rd r1 w => if w = 0 then some (sc, rd, r1, fun a => (a.setWidth 8).signExtend 64)
      else if w = 1 then some (sc, rd, r1, fun a => (a.setWidth 16).signExtend 64)
      else if w = 2 then some (sc, rd, r1, fun a => (a.setWidth 32).signExtend 64) else none
  | .zext sc rd r1 w => if w = 0 then some (sc, rd, r1, fun a => (a.setWidth 8).setWidth 64)
      else if w = 1 then some (sc, rd, r1, fun a => (a.setWidth 16).setWidth 64)
      else if w = 2 then some (sc, rd, r1, fun a => (a.setWidth 32).setWidth 64) else none
  | .addi sc rd r1 i => some (sc, rd, r1, fun a => BitVec.ofInt 64 (a.toInt + i.toInt))
  | .andi sc rd r1 i => some (sc, rd, r1, fun a => a &&& i.signExtend 64)
  | .ori sc rd r1 i => some (sc, rd, r1, fun a => a ||| i.signExtend 64)
  | .xori sc rd r1 i => some (sc, rd, r1, fun a => a ^^^ i.signExtend 64)
  | .slti sc rd r1 i => some (sc, rd, r1, fun a => if a.toInt < i.toInt then 1 else 0)
  | .slli sc rd r1 h => some (sc, rd, r1, fun a => BitVec.ofNat 64 (a.toNat * 2 ^ h.toNat))
  | .srli sc rd r1 h => some (sc, rd, r1, fun a => BitVec.ofNat 64 (a.toNat / 2 ^ h.toNat))
  | .srai sc rd r1 h => some (sc, rd, r1, fun a => BitVec.ofInt 64 (a.toInt / 2 ^ h.toNat))
  | .bfx sc rd r1 p l => some (sc, rd, r1, fun a => BitVec.ofNat 64 (a.toNat / 2 ^ p.toNat % 2 ^ (l.toNat + 1)))
  | _ => none

/-! ## What the claims speak of -/

/-- A signed offset in words of four bytes, as an address difference (R249). -/
def words4 {n : Nat} (o : BitVec n) : W64 := BitVec.ofInt 64 (4 * o.toInt)

/-- A conditional branch: its fields and when it is taken (R275). -/
def branchForm : Instr → Option (Sc × Reg × Reg × BitVec 11 × (W64 → W64 → Bool))
  | .beq sc r1 r2 o => some (sc, r1, r2, o, fun a b => decide (a = b))
  | .bne sc r1 r2 o => some (sc, r1, r2, o, fun a b => decide (a ≠ b))
  | .blt sc r1 r2 o => some (sc, r1, r2, o, fun a b => decide (a.toInt < b.toInt))
  | .bge sc r1 r2 o => some (sc, r1, r2, o, fun a b => decide (b.toInt ≤ a.toInt))
  | .bltn sc r1 r2 o => some (sc, r1, r2, o, fun a b => decide (a.toNat < b.toNat))
  | .bgen sc r1 r2 o => some (sc, r1, r2, o, fun a b => decide (b.toNat ≤ a.toNat))
  | _ => none

/-- The bytes of a load's width field (R250). -/
def widthOf (w : BitVec 3) : Nat := if w = 0 ∨ w = 4 then 1 else if w = 1 ∨ w = 5 then 2 else if w = 2 ∨ w = 6 then 4 else 8

/-- The register value of a loaded number (R277): widths 4, 5 and 6 sign-extend. -/
def loaded (w : BitVec 3) (v : Nat) : W64 :=
  if w = 4 then (BitVec.ofNat 8 v).signExtend 64 else if w = 5 then (BitVec.ofNat 16 v).signExtend 64
  else if w = 6 then (BitVec.ofNat 32 v).signExtend 64 else if w = 7 then BitVec.ofNat 64 v else BitVec.ofNat 64 v

/-- A signed offset scaled by an access width (R249). -/
def scaledBy {k : Nat} (o : BitVec k) (n : Nat) : W64 := BitVec.ofInt 64 (o.toInt * n)

/-- The result of an atomic operation on `bits` bits (R256): what is written, or none where nothing is. -/
def amoNew (op bits : Nat) (old v c : Nat) : Option Nat :=
  let m := 2 ^ bits
  let a := old % m
  let b := v % m
  let sg (x : Nat) : Int := (BitVec.ofNat bits x).toInt
  if op = 0 then some ((a + b) % m) else if op = 1 then some (a &&& b) else if op = 2 then some (a ||| b)
  else if op = 3 then some (a ^^^ b) else if op = 4 then some (if sg a ≤ sg b then a else b)
  else if op = 5 then some (if sg a ≤ sg b then b else a) else if op = 6 then some (min a b) else if op = 7 then some (max a b)
  else if op = 8 then some b else if op = 9 then (if a = c % m then some b else none) else none

/-- A non-symbolic integer AMO: its operation, its bytes and its fields (R256, R280). -/
def amoForm : Instr → Option (Nat × Nat × Sc × Reg × Reg × Reg × BitVec 2 × BitVec 1 × BitVec 1)
  | .amoadd32 sc rd r1 r2 p r q => some (0, 4, sc, rd, r1, r2, p, r, q)
  | .amoadd64 sc rd r1 r2 p r q => some (0, 8, sc, rd, r1, r2, p, r, q)
  | .amoand32 sc rd r1 r2 p r q => some (1, 4, sc, rd, r1, r2, p, r, q)
  | .amoand64 sc rd r1 r2 p r q => some (1, 8, sc, rd, r1, r2, p, r, q)
  | .amoor32 sc rd r1 r2 p r q => some (2, 4, sc, rd, r1, r2, p, r, q)
  | .amoor64 sc rd r1 r2 p r q => some (2, 8, sc, rd, r1, r2, p, r, q)
  | .amoxor32 sc rd r1 r2 p r q => some (3, 4, sc, rd, r1, r2, p, r, q)
  | .amoxor64 sc rd r1 r2 p r q => some (3, 8, sc, rd, r1, r2, p, r, q)
  | .amomin32 sc rd r1 r2 p r q => some (4, 4, sc, rd, r1, r2, p, r, q)
  | .amomin64 sc rd r1 r2 p r q => some (4, 8, sc, rd, r1, r2, p, r, q)
  | .amomax32 sc rd r1 r2 p r q => some (5, 4, sc, rd, r1, r2, p, r, q)
  | .amomax64 sc rd r1 r2 p r q => some (5, 8, sc, rd, r1, r2, p, r, q)
  | .amominn32 sc rd r1 r2 p r q => some (6, 4, sc, rd, r1, r2, p, r, q)
  | .amominn64 sc rd r1 r2 p r q => some (6, 8, sc, rd, r1, r2, p, r, q)
  | .amomaxn32 sc rd r1 r2 p r q => some (7, 4, sc, rd, r1, r2, p, r, q)
  | .amomaxn64 sc rd r1 r2 p r q => some (7, 8, sc, rd, r1, r2, p, r, q)
  | .amoswap32 sc rd r1 r2 p r q => some (8, 4, sc, rd, r1, r2, p, r, q)
  | .amoswap64 sc rd r1 r2 p r q => some (8, 8, sc, rd, r1, r2, p, r, q)
  | .amocas32 sc rd r1 r2 p r q => some (9, 4, sc, rd, r1, r2, p, r, q)
  | .amocas64 sc rd r1 r2 p r q => some (9, 8, sc, rd, r1, r2, p, r, q)
  | _ => none

/-- A symbolic AMO: its operation and its fields (R283). -/
def symForm : Instr → Option (Nat × Sc × Reg × Reg × Reg × BitVec 2 × BitVec 1 × BitVec 1)
  | .amoaddSy sc rd r1 r2 p r q => some (0, sc, rd, r1, r2, p, r, q)
  | .amoandSy sc rd r1 r2 p r q => some (1, sc, rd, r1, r2, p, r, q)
  | .amoorSy sc rd r1 r2 p r q => some (2, sc, rd, r1, r2, p, r, q)
  | .amoxorSy sc rd r1 r2 p r q => some (3, sc, rd, r1, r2, p, r, q)
  | .amominSy sc rd r1 r2 p r q => some (4, sc, rd, r1, r2, p, r, q)
  | .amomaxSy sc rd r1 r2 p r q => some (5, sc, rd, r1, r2, p, r, q)
  | .amominnSy sc rd r1 r2 p r q => some (6, sc, rd, r1, r2, p, r, q)
  | .amomaxnSy sc rd r1 r2 p r q => some (7, sc, rd, r1, r2, p, r, q)
  | .amoswapSy sc rd r1 r2 p r q => some (8, sc, rd, r1, r2, p, r, q)
  | .amocasSy sc rd r1 r2 p r q => some (9, sc, rd, r1, r2, p, r, q)
  | _ => none

/-- What an atomic operation of `n` bytes does to the number it finds: the new one, and whether it is written. -/
def amoStep (op n : Nat) (v c old : Nat) : Nat × Bool :=
  ((amoNew op (8 * n) old v c).getD (v % 2 ^ (8 * n)), (amoNew op (8 * n) old v c).isSome)

/-- What a register-only instruction leaves alone (R200, R207): every general register but `rd`, the bytes of memory, the vector and
mask registers, the FP state, the shape and matrix state, the generation and the range registers; and, unless a trap was taken, the
level, the trap registers and the symbols. -/
def registerFrame (s t : State) (rd : Reg) : Prop :=
  sameRegsBut s t rd ∧ t.mem = s.mem ∧ t.psn = s.psn ∧ t.hart.v = s.hart.v ∧ t.hart.m = s.hart.m ∧
  t.hart.frm = s.hart.frm ∧ t.hart.fen = s.hart.fen ∧ t.hart.vstart = s.hart.vstart ∧ t.hart.vl = s.hart.vl ∧
  t.hart.vtype = s.hart.vtype ∧ t.hart.vresid = s.hart.vresid ∧ t.hart.vseed = s.hart.vseed ∧ t.hart.dlen = s.hart.dlen ∧
  t.hart.dstr = s.hart.dstr ∧ t.hart.didx = s.hart.didx ∧ t.hart.tctl = s.hart.tctl ∧ t.hart.gen = s.hart.gen ∧
  t.ctxs = s.ctxs ∧ t.tiles = s.tiles ∧ t.slots = s.slots ∧
  (t.hart.depth = s.hart.depth → t.hart.sup = s.hart.sup ∧ t.hart.monb = s.hart.monb ∧ t.hart.level = s.hart.level ∧ t.hart.sym = s.hart.sym)

/-- The instructions that write at most one general register and nothing else: their destination (R268 to R275, R288, R292). -/
def registerOnly : Instr → Option Reg
  | .lui _ rd _ | .auipc _ rd _ | .jal _ rd _ | .bfi _ rd _ _ _ | .jalr _ rd _ _ | .symq _ rd _ | .snapq _ rd _ => some rd
  | i => match intForm i with
    | some (_, rd, _) => some rd
    | none => match oneForm i with
      | some (_, rd, _) => some rd
      | none => (branchForm i).map (fun _ => 0)

/-- A scalar FP instruction that reads two registers: its fields, whether its rounding code is legal, and its result code with its
flags (R210, R286, R288). -/
def fpForm : Instr → Option (Sc × Reg × Reg × Reg × (Hart → Bool) × (Hart → Nat → Nat → Nat × Nat))
  | .fadd sc rd r1 r2 f m => some (sc, rd, r1, r2, fun h => modeOk (h.mode m), fun h a b => (scalarFmt f).add (h.mode m).toNat a b)
  | .fsub sc rd r1 r2 f m => some (sc, rd, r1, r2, fun h => modeOk (h.mode m), fun h a b => (scalarFmt f).sub (h.mode m).toNat a b)
  | .fmul sc rd r1 r2 f m => some (sc, rd, r1, r2, fun h => modeOk (h.mode m), fun h a b => (scalarFmt f).mul (h.mode m).toNat a b)
  | .fdiv sc rd r1 r2 f m => some (sc, rd, r1, r2, fun h => modeOk (h.mode m), fun h a b => (scalarFmt f).div (h.mode m).toNat a b)
  | .fmin sc rd r1 r2 f => some (sc, rd, r1, r2, fun _ => true, fun _ a b => (scalarFmt f).minmax false a b)
  | .fmax sc rd r1 r2 f => some (sc, rd, r1, r2, fun _ => true, fun _ a b => (scalarFmt f).minmax true a b)
  | .fcmpEq sc rd r1 r2 f => some (sc, rd, r1, r2, fun _ => true, fun _ a b => ((scalarFmt f).cmp 0 a b).map b2n id)
  | .fcmpLt sc rd r1 r2 f => some (sc, rd, r1, r2, fun _ => true, fun _ a b => ((scalarFmt f).cmp 1 a b).map b2n id)
  | .fcmpLe sc rd r1 r2 f => some (sc, rd, r1, r2, fun _ => true, fun _ a b => ((scalarFmt f).cmp 2 a b).map b2n id)
  | .fsgn sc rd r1 r2 f => some (sc, rd, r1, r2, fun _ => true, fun _ a b => ((scalarFmt f).sgn 0 a b, 0))
  | .fsgnN sc rd r1 r2 f => some (sc, rd, r1, r2, fun _ => true, fun _ a b => ((scalarFmt f).sgn 1 a b, 0))
  | .fsgnX sc rd r1 r2 f => some (sc, rd, r1, r2, fun _ => true, fun _ a b => ((scalarFmt f).sgn 2 a b, 0))
  | _ => none

/-- The format of a scalar FP instruction (R255). -/
def fpFmt : Instr → Fmt
  | .fadd _ _ _ _ f _ | .fsub _ _ _ _ f _ | .fmul _ _ _ _ f _ | .fdiv _ _ _ _ f _ | .fmin _ _ _ _ f | .fmax _ _ _ _ f
  | .fcmpEq _ _ _ _ f | .fcmpLt _ _ _ _ f | .fcmpLe _ _ _ _ f | .fsgn _ _ _ _ f | .fsgnN _ _ _ _ f | .fsgnX _ _ _ _ f => scalarFmt f
  | _ => fp32

/-- An FP result with its flags: the register is written and the flags accrue (R209). -/
def flagged (s : State) (rd : Reg) (v : W64) (fl : Nat) : State :=
  (wrote s rd v).upd (fun h => { h with fflags := h.fflags ||| BitVec.ofNat 7 fl })

/-- The flags that are newly set and enabled (R289). -/
def raised (h : Hart) (fl : Nat) : BitVec 7 := BitVec.ofNat 7 fl &&& ~~~h.fflags &&& h.fen

/-- How an FP instruction ends (R289): it completes; where a flag it newly sets is enabled, the FP trap follows with the flags as its
trap value and the PC of the next instruction. -/
def fpEnd (s : State) (rd : Reg) (v : W64) (fl : Nat) : Out :=
  if raised s.hart fl = 0 then .next (flagged s rd v fl)
  else .next ((flagged s rd v fl).trap 8 (BitVec.setWidth 64 (BitVec.ofNat 7 fl)) (s.hart.pc + 4))

end Sys2Proof.Claims

open Sys2Proof.Claims

/-- R268, R269: an integer register form writes the value of its row to `x[rd]` and completes. -/
def Sys2Proof.Claims.IntegerRegisterForms : Prop :=
  ∀ (i : Instr) (s : State) (sc : Sc) (rd r1 r2 : Reg) (f : W64 → W64 → W64) (a b : W64),
    intForm i = some (sc, rd, r1, r2, f) → calm s sc → holds s r1 a → holds s r2 b →
    exec i s = .next (wrote s rd (f a b))

/-- R268, R270, R271: a one-operand or immediate form writes the value of its row to `x[rd]` and completes. -/
def Sys2Proof.Claims.IntegerImmediateForms : Prop :=
  ∀ (i : Instr) (s : State) (sc : Sc) (rd r1 : Reg) (f : W64 → W64) (a : W64),
    oneForm i = some (sc, rd, r1, f) → calm s sc → holds s r1 a →
    exec i s = .next (wrote s rd (f a))

/-- R271, R272: BFI puts the low bits of `x[rs1]` into a field of `x[rd]`; LUI and AUIPC write the immediate shifted by 12. -/
def Sys2Proof.Claims.BitFieldAndUpperForms : Prop :=
  (∀ (s : State) (sc : Sc) (rd r1 : Reg) (p l : BitVec 6) (a d v : W64), calm s sc → holds s r1 a → holds s rd d →
    (∀ i : Fin 64, v.getLsbD i = if p.toNat ≤ i.val ∧ i.val ≤ p.toNat + l.toNat then a.getLsbD (i.val - p.toNat) else d.getLsbD i) →
    exec (.bfi sc rd r1 p l) s = .next (wrote s rd v)) ∧
  (∀ (s : State) (sc : Sc) (rd : Reg) (i : BitVec 17), calm s sc →
    exec (.lui sc rd i) s = .next (wrote s rd (BitVec.ofInt 64 (i.toInt * 4096))) ∧
    exec (.auipc sc rd i) s = .next (wrote s rd (s.hart.pc + BitVec.ofInt 64 (i.toInt * 4096))))

/-- R273, R274: JAL and JALR write the address of the next instruction and continue at their target. -/
def Sys2Proof.Claims.Jumps : Prop :=
  (∀ (s : State) (sc : Sc) (rd : Reg) (o : BitVec 17), calm s sc →
    exec (.jal sc rd o) s = .next ((s.wx rd (s.hart.pc + 4)).jump (s.hart.pc + words4 o))) ∧
  (∀ (s : State) (sc : Sc) (rd r1 : Reg) (i : BitVec 12) (a : W64), calm s sc → holds s r1 a →
    exec (.jalr sc rd r1 i) s = .next ((s.wx rd (s.hart.pc + 4)).jump ((a + words4 i) &&& ~~~3)))

/-- R275: a conditional branch continues at its target where its comparison holds, else at the next instruction. -/
def Sys2Proof.Claims.Branches : Prop :=
  ∀ (i : Instr) (s : State) (sc : Sc) (r1 r2 : Reg) (o : BitVec 11) (p : W64 → W64 → Bool) (a b : W64),
    branchForm i = some (sc, r1, r2, o, p) → calm s sc → holds s r1 a → holds s r2 b →
    exec i s = .next (if p a b then s.jump (s.hart.pc + words4 o) else s.retire)

/-- R200, R207: what writing a register and completing does: `x0` keeps reading 0, no other register changes, the PC and the count
of instructions advance, and nothing else changes. -/
def Sys2Proof.Claims.RegisterWrite : Prop :=
  ∀ (s : State) (rd : Reg) (v : W64),
    (wrote s rd v).hart.rx rd = .known (if rd = 0 then 0 else v) ∧ sameRegsBut s (wrote s rd v) rd ∧
    (wrote s rd v).hart.pc = s.hart.pc + 4 ∧ (wrote s rd v).hart.instret = s.hart.instret + 1 ∧
    registerFrame s (wrote s rd v) rd ∧ (wrote s rd v).hart.fflags = s.hart.fflags

/-- The frame of the instructions that write at most one general register (R268 to R275, R292, R300). -/
def Sys2Proof.Claims.RegisterOnlyFrame : Prop :=
  ∀ (i : Instr) (s t : State) (rd : Reg), registerOnly i = some rd → s.inAhead = false → exec i s = .next t →
    registerFrame s t rd ∧ t.hart.fflags = s.hart.fflags

/-- R286, R288, R289: a two-operand FP instruction writes its result code and accrues its flags; a newly set enabled flag then takes
the FP trap. -/
def Sys2Proof.Claims.ScalarFpPairs : Prop :=
  ∀ (i : Instr) (s : State) (sc : Sc) (rd r1 r2 : Reg) (ok : Hart → Bool) (g : Hart → Nat → Nat → Nat × Nat) (a b : W64),
    fpForm i = some (sc, rd, r1, r2, ok, g) → calm s sc → holds s r1 a → holds s r2 b → ok s.hart = true →
    exec i s = fpEnd s rd (BitVec.ofNat 64 (g s.hart (a.toNat % 2 ^ (fpFmt i).w) (b.toNat % 2 ^ (fpFmt i).w)).1)
      (g s.hart (a.toNat % 2 ^ (fpFmt i).w) (b.toNat % 2 ^ (fpFmt i).w)).2

/-- R286, R287, R288: FMA, FSQRT, FCLASS and the conversions write their result and accrue their flags. -/
def Sys2Proof.Claims.ScalarFpOthers : Prop :=
  ∀ (s : State) (sc : Sc) (rd r1 r2 e : Reg) (f : BitVec 2) (m : BitVec 3) (k : BitVec 5) (a b c : W64),
    calm s sc → holds s r1 a → holds s r2 b → holds s e c →
    (modeOk s.hart.frm = true →
      exec (.fma sc rd r1 r2 f e) s =
        (let q := (scalarFmt f).fma s.hart.frm.toNat (a.toNat % 2 ^ (scalarFmt f).w) (b.toNat % 2 ^ (scalarFmt f).w) (c.toNat % 2 ^ (scalarFmt f).w)
         fpEnd s rd (BitVec.ofNat 64 q.1) q.2)) ∧
    (modeOk (s.hart.mode m) = true →
      exec (.fsqrt sc rd r1 f m) s =
        (let q := (scalarFmt f).sqrt (s.hart.mode m).toNat (a.toNat % 2 ^ (scalarFmt f).w)
         fpEnd s rd (BitVec.ofNat 64 q.1) q.2) ∧
      exec (.fcvtTo sc rd r1 f m k) s =
        (let q := cvtResult f.toNat (convert k.toNat f.toNat (s.hart.mode m).toNat false a.toNat)
         fpEnd s rd q.1 q.2) ∧
      exec (.fcvtFrom sc rd r1 f m k) s =
        (let q := cvtResult k.toNat (convert f.toNat k.toNat (s.hart.mode m).toNat false a.toNat)
         fpEnd s rd q.1 q.2)) ∧
    exec (.fclass sc rd r1 f) s = .next (wrote s rd (BitVec.ofNat 64 ((scalarFmt f).cls (a.toNat % 2 ^ (scalarFmt f).w))))

/-- R210: a rounding code of 6 or 7 is an illegal instruction, whose trap value is the word. -/
def Sys2Proof.Claims.IllegalRounding : Prop :=
  ∀ (s : State) (sc : Sc) (rd r1 r2 : Reg) (f : BitVec 2) (m : BitVec 3), s.inAhead = false → s.isLate = false → modeOk (s.hart.mode m) = false →
    exec (.fadd sc rd r1 r2 f m) s = .next (s.trap 0 (s.hart.iw.setWidth 64) s.hart.pc) ∧
    exec (.fsub sc rd r1 r2 f m) s = .next (s.trap 0 (s.hart.iw.setWidth 64) s.hart.pc) ∧
    exec (.fmul sc rd r1 r2 f m) s = .next (s.trap 0 (s.hart.iw.setWidth 64) s.hart.pc) ∧
    exec (.fdiv sc rd r1 r2 f m) s = .next (s.trap 0 (s.hart.iw.setWidth 64) s.hart.pc) ∧
    exec (.fsqrt sc rd r1 f m) s = .next (s.trap 0 (s.hart.iw.setWidth 64) s.hart.pc)

/-- R249, R277: a load writes the number its bytes hold, extended as its width states; `.acq` adds an acquire. -/
def Sys2Proof.Claims.Loads : Prop :=
  ∀ (s t : State) (sc : Sc) (rd r1 : Reg) (w : BitVec 3) (a : W64) (v : Nat), calm s sc → holds s r1 a →
    (∀ o : BitVec 8, s.loadVal (a + scaledBy o (widthOf w)) (widthOf w) 0 = .go t v →
      exec (.ld sc rd r1 o w) s = .next (wrote t rd (loaded w v))) ∧
    (∀ (o : BitVec 3) (y q : BitVec 1) (p : BitVec 3), y = 0 ∨ rd = 0 →
      s.loadVal (a + scaledBy o (widthOf w)) (widthOf w) p.toNat = .go t v →
      exec (.ldScoped sc rd r1 o y q p w) s =
        .next (wrote (if q = 1 ∧ t.inAhead = false then t.acquire t.me p.toNat else t) rd (loaded w v)))

/-- R279: a store writes the low bytes of `x[rs2]` and completes; `.rel` is preceded by a release. -/
def Sys2Proof.Claims.Stores : Prop :=
  ∀ (s t u : State) (sc : Sc) (r1 r2 : Reg) (w : BitVec 2) (a d : W64), calm s sc → holds s r1 a → holds s r2 d →
    (∀ o : BitVec 9, s.storeBytes (a + scaledBy o (2 ^ w.toNat)) (bytesLE (2 ^ w.toNat) d.toNat) 0 = .go u () →
      exec (.st sc r1 r2 o w) s = .next u.retire) ∧
    (∀ (o : BitVec 5) (r : BitVec 1) (p : BitVec 3), s.releaseFor (r = 1) p.toNat = .go t () →
      t.storeBytes (a + scaledBy o (2 ^ w.toNat)) (bytesLE (2 ^ w.toNat) d.toNat) p.toNat = .go u () →
      exec (.stScoped sc r1 r2 o r p w) s = .next u.retire)

/-- R256, R281: an integer AMO makes one atomic step with the operation of its row and writes the old number, sign-extended. -/
def Sys2Proof.Claims.AtomicOperations : Prop :=
  ∀ (i : Instr) (op n : Nat) (s t u : State) (sc : Sc) (rd r1 r2 : Reg) (p : BitVec 2) (r q : BitVec 1) (a b c : W64) (old : Nat),
    amoForm i = some (op, n, sc, rd, r1, r2, p, r, q) → calm s sc → holds s r1 a → holds s r2 b → (op = 9 → holds s rd c) →
    s.releaseFor (r = 1) (p.toNat + 2) = .go t () →
    t.rmw a n (p.toNat + 2) (amoStep op n b.toNat c.toNat) = .go u old → u.inAhead = false →
    exec i s = .next (wrote (if q = 1 then u.acquire u.me (p.toNat + 2) else u) rd
      (if n = 4 then (BitVec.ofNat 32 old).signExtend 64 else BitVec.ofNat 64 old))

/-- R282: AMOFADD adds FP32 numbers under RNE, writes the old code zero-extended and accrues the flags of the sum. -/
def Sys2Proof.Claims.AtomicFloatAdd : Prop :=
  ∀ (s t u : State) (sc : Sc) (rd r1 r2 : Reg) (p : BitVec 2) (r q : BitVec 1) (a b : W64) (old : Nat),
    calm s sc → holds s r1 a → holds s r2 b → s.releaseFor (r = 1) (p.toNat + 2) = .go t () →
    t.rmw a 4 (p.toNat + 2) (fun o => ((fp32.add 0 (o % 2 ^ 32) (b.toNat % 2 ^ 32)).1, true)) = .go u old → u.inAhead = false → u.isLate = false →
    exec (.amofadd sc rd r1 r2 p r q) s =
      fpEnd (u.acquireFor (q = 1) (p.toNat + 2)) rd (BitVec.ofNat 64 old) (fp32.add 0 (old % 2 ^ 32) (b.toNat % 2 ^ 32)).2

/-- R186, R278, R283: a symbolic load or AMO takes the open slot, sends its request, and leaves the raw form in `x[rd]`. -/
def Obligations.SymbolicProducers : Prop :=
  (∀ (s : State) (sc : Sc) (rd r1 : Reg) (o : BitVec 3) (q : BitVec 1) (p w : BitVec 3) (a : W64) (k : Nat),
    calm s sc → holds s r1 a → rd ≠ 0 → s.hart.openSlot = some k →
    s.symHold (a + scaledBy o (widthOf w)) (widthOf w) .read = false →
    ∃ t r, exec (.ldScoped sc rd r1 o 1 q p w) s = .next t ∧ t.hart.rx rd = .form k 1 0 ∧
      t.hart.pc = s.hart.pc + 4 ∧ t.mem = s.mem ∧ sameRegsBut s t rd ∧ t.reqs = s.reqs ++ [r] ∧
      r.va = a + scaledBy o (widthOf w) ∧ r.n = widthOf w ∧ r.op = .read ∧ r.src = .sym s.hart.place k ∧
      (∃ d, t.hart.slot k = .pending d r.id)) ∧
  (∀ (i : Instr) (op : Nat) (s u : State) (sc : Sc) (rd r1 r2 : Reg) (p : BitVec 2) (r q : BitVec 1) (a b c : W64) (k : Nat),
    symForm i = some (op, sc, rd, r1, r2, p, r, q) → calm s sc → holds s r1 a → holds s r2 b → (op = 9 → holds s rd c) → rd ≠ 0 →
    s.releaseFor (r = 1) (p.toNat + 2) = .go u () → u.hart.openSlot = some k → u.symHold a 8 .both = false →
    ∃ t e, exec i s = .next t ∧ t.hart.rx rd = .form k 1 0 ∧ t.hart.pc = u.hart.pc + 4 ∧ t.mem = u.mem ∧
      t.reqs = u.reqs ++ [e] ∧ e.va = a ∧ e.n = 8 ∧ e.op = .amo op b (if op = 9 then c else 0) ∧ e.src = .sym u.hart.place k ∧
      (∃ d, t.hart.slot k = .pending d e.id))

/-! ### CSRs, traps and returns -/

/-- R207: where each CSR that an application may read reads from. -/
def Sys2Proof.Claims.CsrNumbers : Prop :=
  ∀ s : State,
    s.csrGet 0x000 = some (s.hart.fflags.setWidth 64) ∧ s.csrGet 0x001 = some (s.hart.frm.setWidth 64) ∧
    s.csrGet 0x002 = some (s.hart.fen.setWidth 64) ∧ s.csrGet 0x008 = some (s.hart.vstart.setWidth 64) ∧
    s.csrGet 0x009 = some (s.hart.vresid.setWidth 64) ∧ s.csrGet 0x00A = some s.hart.vseed ∧
    (∀ i : Fin 3, s.csrGet (0x010 + i.val) = some (s.hart.dlen[i].setWidth 64) ∧ s.csrGet (0x014 + i.val) = some s.hart.dstr[i] ∧
      s.csrGet (0x018 + i.val) = some s.hart.didx[i]) ∧
    s.csrGet 0x020 = some (s.hart.tctl.setWidth 64) ∧ s.csrGet 0x400 = some (BitVec.ofNat 64 s.hart.vl) ∧
    s.csrGet 0x401 = some s.hart.vtype ∧ s.csrGet 0x402 = some (BitVec.ofNat 64 s.hart.vgrant) ∧
    s.csrGet 0x410 = some (s.hart.gen.setWidth 64) ∧ s.csrGet 0x411 = some (s.hart.ctxid.setWidth 64) ∧
    s.csrGet 0x412 = some (s.hart.vfid.setWidth 64) ∧ s.csrGet 0x420 = some s.tick ∧ s.csrGet 0x421 = some s.hart.cycle ∧
    s.csrGet 0x422 = some s.hart.instret

/-- R184, R294, R295: a CSR instruction that the level allows reads or writes the CSR and completes. -/
def Sys2Proof.Claims.CsrInstructions : Prop :=
  ∀ (s : State) (sc : Sc) (r : Reg) (i : BitVec 12) (v a : W64), calm s sc → s.csrGet i.toNat = some v →
    csrLevel i.toNat s.hart.level = true → (csrWaits i.toNat = true → s.hart.vq = []) →
    (s.hart.csrUnknown i.toNat = false → exec (.csrr sc r i) s = .next (wrote s r v)) ∧
    (holds s r a → i.toNat / 1024 ≠ 1 →
      exec (.csrw sc r i) s = .next (s.csrPut i.toNat a).retire ∧
      exec (.csrs sc r i) s = .next (s.csrPut i.toNat (v ||| a)).retire ∧
      exec (.csrc sc r i) s = .next (s.csrPut i.toNat (v &&& ~~~a)).retire)

/-- R7, R207: a CSR reads back what was written at its read-write bits, and a write of one CSR leaves the general registers and the
memory alone. -/
def Sys2Proof.Claims.CsrWriteRead : Prop :=
  ∀ (s : State) (v : W64),
    (s.csrPut 0x000 v).csrGet 0x000 = some (v &&& 0x7f) ∧ (s.csrPut 0x001 v).csrGet 0x001 = some (v &&& 7) ∧
    (s.csrPut 0x002 v).csrGet 0x002 = some (v &&& 0x7f) ∧ (s.csrPut 0x008 v).csrGet 0x008 = some (v &&& 0x3fff) ∧
    (s.csrPut 0x009 v).csrGet 0x009 = some (v &&& 0xffffffff) ∧ (s.csrPut 0x00A v).csrGet 0x00A = some v ∧
    (s.csrPut 0x020 v).csrGet 0x020 = some (v &&& 3) ∧ (s.csrPut 0x801 v).csrGet 0x801 = some (v &&& ~~~3) ∧
    (s.csrPut 0x802 v).csrGet 0x802 = some v ∧ (s.csrPut 0x804 v).csrGet 0x804 = some v ∧
    (s.csrPut 0x808 v).csrGet 0x808 = some (v &&& ~~~63) ∧
    (∀ j : Fin 16, (s.csrPut (0x840 + j.val) v).csrGet (0x840 + j.val) = some (v &&& 0xffffffff0000) ∧
      (s.csrPut (0x850 + j.val) v).csrGet (0x850 + j.val) = some (v &&& 0xffffffff0000) ∧
      (s.csrPut (0x860 + j.val) v).csrGet (0x860 + j.val) = some (v &&& 0xfffffffff0000) ∧
      (s.csrPut (0x870 + j.val) v).csrGet (0x870 + j.val) = some (v &&& 0xff)) ∧
    (∀ n : Nat, (s.csrPut n v).hart.x = s.hart.x ∧ (s.csrPut n v).mem = s.mem ∧ (s.csrPut n v).hart.pc = s.hart.pc)

/-- R199, R207: below the level a CSR's number asks for, or on a read-only one, the access is an illegal instruction. -/
def Sys2Proof.Claims.CsrRefused : Prop :=
  ∀ (s : State) (sc : Sc) (r : Reg) (i : BitVec 12), s.inAhead = false → s.isLate = false →
    (csrLevel i.toNat s.hart.level = false ∨ s.csrGet i.toNat = none →
      exec (.csrr sc r i) s = .next (s.trap 0 (s.hart.iw.setWidth 64) s.hart.pc)) ∧
    (csrLevel i.toNat s.hart.level = false ∨ s.csrGet i.toNat = none ∨ i.toNat / 1024 = 1 →
      exec (.csrw sc r i) s = .next (s.trap 0 (s.hart.iw.setWidth 64) s.hart.pc) ∧
      exec (.csrs sc r i) s = .next (s.trap 0 (s.hart.iw.setWidth 64) s.hart.pc) ∧
      exec (.csrc sc r i) s = .next (s.trap 0 (s.hart.iw.setWidth 64) s.hart.pc))

/-- R296, R433, R434: taking a trap saves the PC, the cause and the trap value at the level it is taken at, keeps the level and the interrupt
enable it came from, and continues at that level's vector; no other register, and no memory, changes. -/
def Sys2Proof.Claims.TrapEntry : Prop :=
  ∀ (s : State) (code : Nat) (tval epc : W64), code < 256 →
    let t := s.trap (BitVec.ofNat 64 code) tval epc
    let l := if s.hart.level = .mon ∨ code = 4 ∨ code = 5 ∨ (code = 2 ∧ s.hart.level = .sup) then Level.mon else Level.sup
    t.hart.level = l ∧ t.hart.pc = (s.hart.bank l).vec ∧
    (t.hart.bank l).epc = epc ∧ (t.hart.bank l).cause = BitVec.ofNat 64 code ∧ (t.hart.bank l).tval = tval ∧
    (t.hart.bank l).ppl = s.hart.level.code ∧ (t.hart.bank l).pie = (s.hart.bank l).ie ∧ (t.hart.bank l).ie = false ∧
    (t.hart.bank l).vec = (s.hart.bank l).vec ∧ (t.hart.bank l).scr = (s.hart.bank l).scr ∧
    (∀ k : Level, (k = .mon) ≠ (l = .mon) → t.hart.bank k = s.hart.bank k) ∧
    t.hart.x = s.hart.x ∧ t.hart.v = s.hart.v ∧ t.hart.m = s.hart.m ∧ t.hart.sym = s.hart.sym ∧ t.hart.fflags = s.hart.fflags ∧
    t.hart.instret = s.hart.instret ∧ t.mem = s.mem ∧ t.ctxs = s.ctxs

/-- R296: ECALL takes the trap of the level it is made from, EBREAK the breakpoint trap with the PC as its value; both enter sup from app,
and mon from sup or mon. -/
def Sys2Proof.Claims.Calls : Prop :=
  ∀ (s : State) (sc : Sc), calm s sc →
    exec (.ecall sc) s = .next (s.trap (match s.hart.level with | .app => 3 | .sup => 4 | .mon => 5) 0 s.hart.pc) ∧
    exec (.ebreak sc) s = .next (s.trap 2 s.hart.pc s.hart.pc) ∧
    (s.trap (match s.hart.level with | .app => 3 | .sup => 4 | .mon => 5) 0 s.hart.pc).hart.level = (if s.hart.level = .app then .sup else .mon) ∧
    (s.trap 2 s.hart.pc s.hart.pc).hart.level = (if s.hart.level = .app then .sup else .mon)

/-- R297: ERET at sup or mon continues at the saved PC and level with the saved interrupt enable; at app it is an illegal instruction. -/
def Sys2Proof.Claims.Returns : Prop :=
  (∀ (s : State) (sc : Sc) (d : Level), calm s sc → s.hart.level ≠ .app → levelOf (s.hart.bank s.hart.level).ppl = some d →
    s.hart.level.ge d = true → (∀ k : Nat, ∀ q : Producer, s.hart.slot k ≠ .pending q 0) →
    (∀ (k c : Nat) (q : Producer), s.hart.slot k ≠ .held c q (some s.hart.depth)) →
    ∃ t, exec (.eret sc) s = .next t ∧ t.hart.pc = (s.hart.bank s.hart.level).epc ∧ t.hart.level = d ∧
      (t.hart.bank s.hart.level).ie = (s.hart.bank s.hart.level).pie ∧ (t.hart.bank s.hart.level).pie = true ∧
      (t.hart.bank s.hart.level).ppl = 0 ∧ t.hart.instret = s.hart.instret + 1 ∧ t.hart.x = s.hart.x ∧ t.hart.v = s.hart.v ∧
      t.hart.fflags = s.hart.fflags ∧ t.mem = s.mem ∧ t.ctxs = s.ctxs) ∧
  (∀ (s : State) (sc : Sc), s.inAhead = false → s.isLate = false → s.hart.level = .app →
    exec (.eret sc) s = .next (s.trap 0 (s.hart.iw.setWidth 64) s.hart.pc))

/-! ### Fences, waits and symbols -/

/-- R144, R147, R154, R291, R507: a fence waits for nothing that is not pending, performs the earlier writes of its earlier kind at its scope
(all but `fence.acq`), and makes the later reads (`fence`, `fence.acq`, `fence.sv`, `fence.vs`) and fetches anew (`fence`, `fence.acq`). A
`fence.sv` behind a symbolic load that is still to be bound completes with an entry in the vector queue, where the vector stream waits. -/
def Sys2Proof.Claims.Fences : Prop :=
  (∀ (s : State) (sc : Sc) (p : BitVec 3), calm s sc → s.symPending = true → s.hart.vq.length < 16 →
    ∃ t e, exec (.fenceSv sc p) s = .next t ∧ t.hart.vq = s.hart.vq ++ [e] ∧ e.fence = some s.hart.symReqs ∧ e.elems = [] ∧
      e.scope = p.toNat ∧ t.hart.pc = s.hart.pc + 4 ∧ t.hart.x = s.hart.x ∧ t.mem = s.mem) ∧
  ∀ (s t : State) (sc : Sc) (p : BitVec 3), calm s sc → s.symPending = false → s.release s.me p.toNat = (t, true) →
    exec (.fence sc p) s = .next ((t.acquire t.me p.toNat).upd (fun h => { h with ibuf := [] })).retire ∧
    exec (.fenceAcq sc p) s = .next ((s.acquire s.me p.toNat).upd (fun h => { h with ibuf := [] })).retire ∧
    exec (.fenceRel sc p) s = .next t.retire ∧ exec (.fenceSe sc p) s = .next t.retire ∧
    (s.hart.vq.length < 16 → exec (.fenceSv sc p) s = .next (t.acquire t.me p.toNat).retire) ∧
    (∀ u : State, s.hart.vq = [] → s.release { s.me with vec := true } p.toNat = (u, true) →
      exec (.fenceVs sc p) s = .next (u.acquire u.me p.toNat).retire ∧ exec (.fenceVe sc p) s = .next u.retire)

/-- R292, R293, R298: SYMQ writes the state of a slot; SYMWAIT completes once what it names is resolved; WFE takes the event latch, or
answers 1 at once for no ticks, or begins its wait. -/
def Sys2Proof.Claims.SymbolsAndEvents : Prop :=
  ∀ (s : State) (sc : Sc) (rd r1 : Reg) (n : BitVec 5) (a : W64), calm s sc →
    exec (.symq sc rd n) s = .next (wrote s rd (s.hart.slot n.toNat).query) ∧
    (holds s r1 a → (r1 = 0 → s.symPending = false ∧ ∀ k c : Nat, s.hart.slot k ≠ .copyStatus c) →
      exec (.symwait sc r1) s = .next s.retire) ∧
    (holds s r1 a → s.hart.latch = true →
      exec (.wfe sc rd r1) s = .next (wrote (s.upd (fun h => { h with latch := false })) rd 0)) ∧
    (holds s r1 0 → s.hart.latch = false → exec (.wfe sc rd r1) s = .next (wrote s rd 1)) ∧
    (holds s r1 a → a ≠ 0 → s.hart.latch = false →
      ∃ t, exec (.wfe sc rd r1) s = .next t ∧ t.hart.wait = some (.wfe rd (deadlineOf s.tick a)) ∧ t.hart.pc = s.hart.pc ∧
        t.hart.x = s.hart.x ∧ t.mem = s.mem)

/-- R121, R299, R300: SNAP releases and asks the sequencer, whose answer its hart awaits; SNAPQ writes the state of the slot of a
generation, or the generation alone where no slot holds it. -/
def Sys2Proof.Claims.Snapshots : Prop :=
  (∀ (s t : State) (sc : Sc) (rd : Reg), calm s sc → s.hart.level ≠ .app → s.hart.vq = [] → s.symPending = false →
    s.releaseBoth s.me 4 = (t, true) → t.fenced t.sequencer = false →
    ∃ u, exec (.snap sc rd) s = .next u ∧ u.hart.wait = some (.snap rd) ∧ u.gens.snapq = t.gens.snapq ++ [t.hart.place] ∧
      u.hart.pc = t.hart.pc ∧ u.mem = t.mem) ∧
  (∀ (s : State) (sc : Sc) (rd r1 : Reg) (g : BitVec 32), calm s sc → holds s r1 (g.setWidth 64) →
    (∀ q ∈ [s.gens.slot0, s.gens.slot1], q.g = g → q.state = 0) →
    exec (.snapq sc rd r1) s = .next (wrote s rd (g.setWidth 64))) ∧
  (∀ (s : State) (sc : Sc) (rd r1 : Reg), calm s sc → holds s r1 (s.gens.slot0.g.setWidth 64) → s.gens.slot0.state ≠ 0 →
    exec (.snapq sc rd r1) s = .next (wrote s rd (BitVec.ofNat 64 (s.gens.slot0.g.toNat + 2 ^ 32 * s.gens.slot0.state.toNat +
      2 ^ 35 * b2n s.gens.slot0.inc + 2 ^ 36 * b2n s.gens.slot0.exh + 2 ^ 37 * b2n s.gens.slot0.dfull + 2 ^ 38 * b2n s.gens.slot0.fence))))

/-- R67, R284: LKLINE locks a line it may lock and answers 0, 3 where no cluster cache may hold it; ULKLINE frees the lock that the
context holds and answers 0, and 5 where the line is not locked. -/
def Sys2Proof.Claims.LineLocks : Prop :=
  ∀ (s t : State) (sc : Sc) (rd r1 : Reg) (a : W64), calm s sc → holds s r1 a →
    (s.lockPiece a = .go t none → exec (.lkline sc rd r1) s = .next (wrote t rd 3) ∧ exec (.ulkline sc rd r1) s = .next (wrote t rd 5)) ∧
    (∀ (c : Nat) (p : Piece), s.lockPiece a = .go t (some (c, p)) →
      (∀ u v, t.lockLine c p = (u, some v) → exec (.lkline sc rd r1) s = .next (wrote u rd (BitVec.ofNat 64 v))) ∧
      ((t.getClu c).leaving (p.ia / 128) = false → ((t.getClu c).lineOf (p.ia / 128)).bind (·.lock) = some t.hart.ctxKey →
        ∃ u, exec (.ulkline sc rd r1) s = .next u ∧ u.hart.rx rd = .known 0 ∧ u.hart.pc = t.hart.pc + 4 ∧ u.mem = t.mem ∧
          ∀ l ∈ (u.getClu c).lines, l.line = p.ia / 128 → l.lock = none))

/-! ### Nodes and the lamplighter -/

/-- R301: TSUBMIT translates its extent and reads the descriptors after a release and answers how many were accepted, with the code of the first that was not;
counts of 0 and above 256 and a misaligned address are answered at once. -/
def Sys2Proof.Claims.Submissions : Prop :=
  ∀ (s : State) (sc : Sc) (rd r1 r2 : Reg) (a n : W64), calm s sc → holds s r1 a → holds s r2 n →
    (n.toNat % 65536 = 0 → exec (.tsubmit sc rd r1 r2) s = .next (wrote s rd 0)) ∧
    (256 < n.toNat % 65536 → exec (.tsubmit sc rd r1 r2) s = .next (wrote s rd (BitVec.ofNat 64 (2 * 2 ^ 16)))) ∧
    (0 < n.toNat % 65536 → n.toNat % 65536 ≤ 256 → a.toNat % 128 ≠ 0 →
      exec (.tsubmit sc rd r1 r2) s = .next (wrote s rd (BitVec.ofNat 64 (3 * 2 ^ 16)))) ∧
    (∀ (t u v w : State) (l : List (Option (List W64))) (k c : Nat),
      0 < n.toNat % 65536 → n.toNat % 65536 ≤ 256 → a.toNat % 128 = 0 → s.submitExtent a (128 * (n.toNat % 65536)) = .go t () →
      t.hart.vq = [] → t.symPending = false → t.releaseBoth t.me 4 = (u, true) →
      u.readDescs (engineWho (8192 + 4 * stackOf u.hart.place) (stackOf u.hart.place) u.hart.level u.hart.vfid.toNat u.hart.ctxKey) u.myCtx a
        (n.toNat % 65536) = (v, some l) →
      v.acceptAll v.hart.vfid.toNat (decide (v.hart.level = .app)) (some (stackOf u.hart.place)) l 0 = (w, k, c) →
      exec (.tsubmit sc rd r1 r2) s = .next (wrote w rd (BitVec.ofNat 64 (k + 2 ^ 16 * c))))

/-- R302: TDONE of an application hart that is owed nothing, and whose node names no output image, releases, frees the core and ends
the node; on a lamplighter hart it is an illegal instruction. -/
def Sys2Proof.Claims.NodeEnd : Prop :=
  (∀ (s t : State) (sc : Sc), calm s sc → s.hart.lamp = false → s.owed = false → s.releaseBoth s.me 4 = (t, true) →
    (∀ n, t.hart.node.bind t.nodeAt = some n → n.k 3 = 0) → exec (.tdone sc) s = .next (t.endHart none)) ∧
  (∀ (s : State) (sc : Sc), s.inAhead = false → s.isLate = false → s.hart.lamp = true →
    exec (.tdone sc) s = .next (s.trap 0 (s.hart.iw.setWidth 64) s.hart.pc))

/-- R303, R304, R305: on a lamplighter hart QFETCH takes the oldest entry of a queue, SWAIT answers the named sources that hold or
begins its wait, and DISPATCH starts a node on a grant; on an application hart each is an illegal instruction. -/
def Sys2Proof.Claims.LamplighterInstructions : Prop :=
  (∀ (s : State) (sc : Sc) (rd r1 r2 : Reg) (a b : W64), calm s sc → s.hart.lamp = true → holds s r1 a → holds s r2 b →
    (∀ t v, s.popQueue (stackOf s.hart.place) a.toNat = (t, v) →
      exec (.qfetch sc rd r1) s = .next (wrote (t.postOnce (.schedulingTick (stackOf t.hart.place))) rd v)) ∧
    (∀ t m, s.swaitTest a = (t, m) → m ≠ 0 → exec (.swait sc rd r1 r2) s = .next (wrote t rd m)) ∧
    (∀ t, s.swaitTest a = (t, 0) → b = 0 → exec (.swait sc rd r1 r2) s = .next (wrote t rd 0)) ∧
    (∀ t, s.swaitTest a = (t, 0) → b ≠ 0 → ∃ u, exec (.swait sc rd r1 r2) s = .next u ∧
      u.hart.wait = some (.swait rd a (deadlineOf t.tick b)) ∧ u.hart.pc = t.hart.pc) ∧
    (a.toNat % 128 ≠ 0 → exec (.dispatch sc rd r1 r2) s = .next (wrote s rd 5)) ∧
    (∀ (t u w : State) (v : Nat) (n : Node) (h : Hart), a.toNat % 128 = 0 → s.loadVal a 128 4 = .go t v →
      t.dispatchNode (stackOf s.hart.place) (descWords v) = (u, some n) → u.grantCheck (some n.id) (stackOf s.hart.place) b = 0 →
      u.loadImage n (u.nodeHart n b) = (w, .hart h) →
      exec (.dispatch sc rd r1 r2) s = .next (wrote ((w.fresh.2.bindHart { h with hid := w.fresh.1 }).onNode n.id (fun q =>
        { q with bind := none, skipAt := none, st := .running, count := 0, core := h.place })) rd 0))) ∧
  (∀ (s : State) (sc : Sc) (rd r1 r2 : Reg), s.inAhead = false → s.isLate = false → s.hart.lamp = false →
    exec (.qfetch sc rd r1) s = .next (s.trap 0 (s.hart.iw.setWidth 64) s.hart.pc) ∧
    exec (.swait sc rd r1 r2) s = .next (s.trap 0 (s.hart.iw.setWidth 64) s.hart.pc) ∧
    exec (.dispatch sc rd r1 r2) s = .next (s.trap 0 (s.hart.iw.setWidth 64) s.hart.pc))

/-! ## Vector instructions -/

namespace Sys2Proof.Claims

/-- A vector register that holds its elements: no symbol, and no unknown value (R201). -/
def plain (q : VReg) : Prop := q.unk = false ∧ q.sy = none ∧ q.sypsn = none

/-- What an element-wise instruction is: its scalar sources, its source registers, its destination group with its
element width and eight times its EMUL (R310), whether its type and groups are legal (R312), which elements take part, what each
element reads of the vector file, and each element's value with its flags. -/
structure Lane where
  sc : Sc
  xs : List Reg := []
  vs : List Nat := []
  d : Reg
  w : Nat
  e8 : Nat
  legal : Bool
  takes : Nat → Bool
  reads : Nat → List (Nat × Nat × Nat) := fun _ => []
  val : Nat → Nat
  fl : Nat → Nat := fun _ => 0

/-- The grant is one of R178, the vector length fits it, the type is not reserved and nothing in the file is unknown. -/
def vectorState (h : Hart) : Prop :=
  (h.vgrant = 1024 ∨ h.vgrant = 2048 ∨ h.vgrant = 4096) ∧ h.vsew.toNat ≤ 5 ∧ h.vl ≤ h.vlmax ∧ h.vill = false ∧ h.cUnk = 0 ∧
  h.mUnk = 0 ∧ h.upset = [] ∧ h.vq.length < 16

/-- Nothing keeps an instruction with these sources and destinations from its own effect (R184, R189, R313, R340, R451). -/
def vectorReady (s : State) (sc : Sc) (xs : List Reg) (vs ds : List Nat) : Prop :=
  calm s sc ∧ vectorState s.hart ∧ (∀ r ∈ xs, ∃ v, holds s r v) ∧ (∀ r ∈ vs ++ ds, s.hart.loading r = false) ∧
  (∀ r ∈ vs ++ ds, plain (s.hart.vreg r))

/-- Element `i` is worked on (R308). -/
def Lane.on (L : Lane) (h : Hart) (i : Nat) : Bool := decide (h.vstart.toNat ≤ i) && decide (i < h.vl) && L.takes i

/-- The first poisoned element among those that element `i` reads (R446): its group and index. -/
def poisonAt (h : Hart) (l : List (Nat × Nat × Nat)) : Option (Nat × Nat) :=
  (l.find? (fun e => h.velPsn e.1 e.2.1 e.2.2)).map (fun e => (e.1, e.2.2))

/-- No element worked on reads poison. -/
def Lane.clean (L : Lane) (h : Hart) : Prop := ∀ i, L.on h i = true → poisonAt h (L.reads i) = none

/-- The flags of the elements worked on. -/
def Lane.flags (L : Lane) (h : Hart) : Nat := ((List.range h.vl).filter (L.on h)).foldl (fun f i => f ||| L.fl i) 0

/-- The same instruction for the elements below `k` only. -/
def Lane.below (L : Lane) (k : Nat) : Lane := { L with takes := fun j => L.takes j && decide (j < k) }

/-- How a vector instruction ends (R212, R289, R314): `vstart` 0, flags accrued; a newly set enabled flag then traps. -/
def vectorEnd (s : State) (fl : Nat) : Out :=
  let t := (s.upd (fun h => { h with vstart := 0, fflags := h.fflags ||| BitVec.ofNat 7 fl })).retire
  if raised s.hart fl = 0 then .next t else .next (t.trap 8 (BitVec.setWidth 64 (BitVec.ofNat 7 fl)) (s.hart.pc + 4))

/-- The vector file `V` holds the results of `L`, and nothing else of it has changed: the elements worked on have their values, the
other elements of the group and every other register are as they were. -/
def Lane.written (L : Lane) (h : Hart) (V : Vector VReg 32) : Prop :=
  (∀ r : Nat, r ∉ groupRegs L.d L.e8 → V[r]? = h.v[r]?) ∧
  (∀ i : Nat, L.w * (i + 1) ≤ h.vgrant * groupLen L.e8 →
    Hart.vel { h with v := V } L.d.toNat L.w i = if L.on h i then L.val i else h.vel L.d.toNat L.w i)

/-- The element-wise instruction completes: only the destination group, `vstart`, the flags, the PC and the count of instructions
change. -/
def Lane.completes (L : Lane) (s : State) (o : Out) : Prop :=
  ∃ V : Vector VReg 32, L.written s.hart V ∧ o = vectorEnd (s.upd (fun h => { h with v := V })) (L.flags s.hart)

/-- Operand A (R310): a shift amount in the word is unsigned. -/
def opA (h : Hart) (a : VA) (w : Nat) (shift : Bool) (i : Nat) : BitVec w :=
  match a with
  | .vv r => BitVec.ofNat w (h.vel r.toNat w i)
  | .vx r => (h.kx r).setWidth w
  | .vi r => if shift then BitVec.ofNat w r.toNat else r.signExtend w

/-- What operand A reads. -/
def readsA (a : VA) (w i : Nat) : List (Nat × Nat × Nat) := match a with | .vv r => [(r.toNat, w, i)] | _ => []

/-- A number kept in the range of R218. -/
def saturate (w : Nat) (u : BitVec 1) (v : Int) : BitVec w :=
  if u = 0 then BitVec.ofInt w (max (-2 ^ (w - 1)) (min (2 ^ (w - 1) - 1) v)) else BitVec.ofInt w (max 0 (min (2 ^ w - 1) v))

/-- A signed number, or an unsigned one under `.n`. -/
def num {w : Nat} (u : BitVec 1) (a : BitVec w) : Int := if u = 0 then a.toInt else (a.toNat : Int)

/-- A row of R315 or R316 on elements of SEW bits: A, B and the old destination give the new. -/
structure VRow where
  sc : Sc
  rd : Reg
  a : VA
  b : Option Reg
  m : BitVec 3
  shift : Bool := false
  old : Bool := false
  f : (w : Nat) → BitVec w → BitVec w → BitVec w → BitVec w

/-- The rows of R315 and R316 whose operands and destination all have width SEW. -/
def intRow : Instr → Option VRow
  | .vadd sc rd r1 r2 m g => some { sc, rd, a := vaForm g.toNat r1, b := some r2, m, f := fun _ a b _ => a + b }
  | .vsub sc rd r1 r2 m g => some { sc, rd, a := vaForm g.toNat r1, b := some r2, m, f := fun _ a b _ => b - a }
  | .vrsub sc rd r1 r2 m g => some { sc, rd, a := vaForm g.toNat r1, b := some r2, m, f := fun _ a b _ => a - b }
  | .vmul sc rd r1 r2 m g => some { sc, rd, a := vaForm g.toNat r1, b := some r2, m, f := fun _ a b _ => a * b }
  | .vmacc sc rd r1 r2 m g => some { sc, rd, a := vaForm g.toNat r1, b := some r2, m, old := true, f := fun _ a b d => d + a * b }
  | .vnmsac sc rd r1 r2 m g => some { sc, rd, a := vaForm g.toNat r1, b := some r2, m, old := true, f := fun _ a b d => d - a * b }
  | .vand sc rd r1 r2 m g => some { sc, rd, a := vaForm g.toNat r1, b := some r2, m, f := fun _ a b _ => a &&& b }
  | .vor sc rd r1 r2 m g => some { sc, rd, a := vaForm g.toNat r1, b := some r2, m, f := fun _ a b _ => a ||| b }
  | .vxor sc rd r1 r2 m g => some { sc, rd, a := vaForm g.toNat r1, b := some r2, m, f := fun _ a b _ => a ^^^ b }
  | .vsll sc rd r1 r2 m g => some { sc, rd, a := vaForm g.toNat r1, b := some r2, m, shift := true, f := fun w a b _ => b <<< (a.toNat % w) }
  | .vsrl sc rd r1 r2 m g => some { sc, rd, a := vaForm g.toNat r1, b := some r2, m, shift := true, f := fun w a b _ => b >>> (a.toNat % w) }
  | .vsra sc rd r1 r2 m g => some { sc, rd, a := vaForm g.toNat r1, b := some r2, m, shift := true,
                                    f := fun w a b _ => b.sshiftRight (a.toNat % w) }
  | .vmv sc rd r1 m g => some { sc, rd, a := vaForm g.toNat r1, b := none, m, f := fun _ a _ _ => a }
  | .vmulh sc rd r1 r2 u m g => some { sc, rd, a := vaForm (g.toNat - 3) r1, b := some r2, m,
                                       f := fun w a b _ => BitVec.ofInt w (num u a * num u b / 2 ^ w) }
  | .vdiv sc rd r1 r2 u m g => some { sc, rd, a := vaForm (g.toNat - 3) r1, b := some r2, m,
                                      f := fun w a b _ => if a = 0 then BitVec.allOnes w else BitVec.ofInt w ((num u b).tdiv (num u a)) }
  | .vrem sc rd r1 r2 u m g => some { sc, rd, a := vaForm (g.toNat - 3) r1, b := some r2, m,
                                      f := fun w a b _ => if a = 0 then b else BitVec.ofInt w ((num u b).tmod (num u a)) }
  | .vmin sc rd r1 r2 u m g => some { sc, rd, a := vaForm (g.toNat - 3) r1, b := some r2, m,
                                      f := fun _ a b _ => if num u a ≤ num u b then a else b }
  | .vmax sc rd r1 r2 u m g => some { sc, rd, a := vaForm (g.toNat - 3) r1, b := some r2, m,
                                      f := fun _ a b _ => if num u a ≤ num u b then b else a }
  | .vsadd sc rd r1 r2 u m g => some { sc, rd, a := vaForm (g.toNat - 3) r1, b := some r2, m,
                                       f := fun w a b _ => saturate w u (num u a + num u b) }
  | .vssub sc rd r1 r2 u m g => some { sc, rd, a := vaForm (g.toNat - 3) r1, b := some r2, m,
                                       f := fun w a b _ => saturate w u (num u b - num u a) }
  | .vclamp sc rd r1 r2 u m g => some { sc, rd, a := vaForm (g.toNat - 3) r1, b := some r2, m, old := true,
                                        f := fun _ a b d =>
                                          let x := if num u d ≤ num u a then a else d
                                          if num u x ≤ num u b then x else b }
  | _ => none

/-- Group registers of an optional operand. -/
def optRegs (b : Option Reg) (e8 : Nat) : List Nat := match b with | some r => groupRegs r e8 | none => []

/-- A row as an element-wise instruction of the hart's type. -/
def VRow.lane (q : VRow) (h : Hart) : Lane :=
  let w := h.sew
  let e8 := h.lm8
  { sc := q.sc, xs := q.a.xs, d := q.rd, w := w, e8 := e8, takes := h.active q.m,
    vs := q.a.regs e8 ++ optRegs q.b e8 ++ (if q.old then groupRegs q.rd e8 else []),
    legal := q.a.ok e8 && q.b.all (fun r => groupOk r e8) && groupOk q.rd e8,
    reads := fun i => readsA q.a w i ++ q.b.toList.map (fun r => (r.toNat, w, i)) ++ (if q.old then [(q.rd.toNat, w, i)] else []),
    val := fun i => (q.f w (opA h q.a w q.shift i) (BitVec.ofNat w ((q.b.map (fun r => h.vel r.toNat w i)).getD 0))
      (BitVec.ofNat w (h.vel q.rd.toNat w i))).toNat }

/-- The rows whose elements differ in width, and VMERGE (R315, R317). -/
def wideLane (h : Hart) : Instr → Option Lane
  | .vmerge sc rd r1 r2 m g =>
    let a := vaForm g.toNat r1
    some { sc, xs := a.xs, vs := a.regs h.lm8 ++ groupRegs r2 h.lm8, d := rd, w := h.sew, e8 := h.lm8,
           legal := a.ok h.lm8 && groupOk r2 h.lm8 && groupOk rd h.lm8, takes := fun _ => true,
           reads := fun i => if h.active m i then readsA a h.sew i else [(r2.toNat, h.sew, i)],
           val := fun i => if h.active m i then (opA h a h.sew false i).toNat else h.vel r2.toNat h.sew i }
  | .vnsra sc rd r1 r2 m g =>
    let a := vaForm g.toNat r1
    some { sc, xs := a.xs, vs := a.regs h.lm8 ++ groupRegs r2 (2 * h.lm8), d := rd, w := h.sew, e8 := h.lm8,
           legal := decide (h.sew ≠ 64) && a.ok h.lm8 && groupOk r2 (2 * h.lm8) && groupOk rd h.lm8 && !groupsMeet rd h.lm8 r2 (2 * h.lm8),
           takes := h.active m, reads := fun i => readsA a h.sew i ++ [(r2.toNat, 2 * h.sew, i)],
           val := fun i => (((BitVec.ofNat (2 * h.sew) (h.vel r2.toNat (2 * h.sew) i)).sshiftRight
             ((opA h a h.sew true i).toNat % (2 * h.sew))).setWidth h.sew).toNat }
  | .vwadd sc rd r1 r2 u m => some (widen sc rd r1 r2 m (fun w a b => BitVec.ofInt (2 * w) (num u a + num u b)))
  | .vwmul sc rd r1 r2 u m => some (widen sc rd r1 r2 m (fun w a b => BitVec.ofInt (2 * w) (num u a * num u b)))
  | .vid sc rd m =>
    some { sc, d := rd, w := h.sew, e8 := h.lm8, legal := groupOk rd h.lm8, takes := h.active m,
           val := fun i => i % 2 ^ h.sew }
  | _ => none
where
  widen (sc : Sc) (rd r1 r2 : Reg) (m : BitVec 3) (f : (w : Nat) → BitVec w → BitVec w → BitVec (2 * w)) : Lane :=
    { sc, vs := groupRegs r1 h.lm8 ++ groupRegs r2 h.lm8, d := rd, w := 2 * h.sew, e8 := 2 * h.lm8,
      legal := decide (h.sew ≠ 64) && groupOk r1 h.lm8 && groupOk r2 h.lm8 && groupOk rd (2 * h.lm8) &&
        !groupsMeet rd (2 * h.lm8) r1 h.lm8 && !groupsMeet rd (2 * h.lm8) r2 h.lm8,
      takes := h.active m, reads := fun i => [(r1.toNat, h.sew, i), (r2.toNat, h.sew, i)],
      val := fun i => (f h.sew (BitVec.ofNat h.sew (h.vel r1.toNat h.sew i)) (BitVec.ofNat h.sew (h.vel r2.toNat h.sew i))).toNat }

/-- An FP row (R318, R319): BF16 or not, whether it rounds, its operands, and its value with flags. -/
structure FRow where
  bf : Bool
  rounds : Bool
  sc : Sc
  rd : Reg
  a : VA
  b : Option Reg
  old : Bool := false
  m : BitVec 3
  f : Fmt → Nat → Nat → Nat → Nat → Nat × Nat

/-- The rows of R318 and R319 with a `v` destination. In the unary group B is the one operand. -/
def fpRow : Instr → Option FRow
  | .vfadd sc rd r1 r2 m g => some { bf := false, rounds := true, sc, rd, a := vaForm g.toNat r1, b := some r2, m, f := fun q k a b _ => q.add k a b }
  | .vfsub sc rd r1 r2 m g => some { bf := false, rounds := true, sc, rd, a := vaForm g.toNat r1, b := some r2, m, f := fun q k a b _ => q.sub k b a }
  | .vfmul sc rd r1 r2 m g => some { bf := false, rounds := true, sc, rd, a := vaForm g.toNat r1, b := some r2, m, f := fun q k a b _ => q.mul k a b }
  | .vfdiv sc rd r1 r2 m g => some { bf := false, rounds := true, sc, rd, a := vaForm g.toNat r1, b := some r2, m, f := fun q k a b _ => q.div k b a }
  | .vfma sc rd r1 r2 m g => some { bf := false, rounds := true, sc, rd, a := vaForm g.toNat r1, b := some r2, old := true, m, f := fun q k a b d => q.fma k a b d }
  | .vfnma sc rd r1 r2 m g => some { bf := false, rounds := true, sc, rd, a := vaForm g.toNat r1, b := some r2, old := true, m, f := fun q k a b d => q.fma k (a ^^^ q.sign) b d }
  | .vfmin sc rd r1 r2 m g => some { bf := false, rounds := false, sc, rd, a := vaForm g.toNat r1, b := some r2, m, f := fun q _ a b _ => q.minmax false a b }
  | .vfmax sc rd r1 r2 m g => some { bf := false, rounds := false, sc, rd, a := vaForm g.toNat r1, b := some r2, m, f := fun q _ a b _ => q.minmax true a b }
  | .vfsqrt sc rd r2 m => some { bf := false, rounds := true, sc, rd, a := .vv r2, b := none, m, f := fun q k b _ _ => q.sqrt k b }
  | .vfrsqrt sc rd r2 m => some { bf := false, rounds := true, sc, rd, a := .vv r2, b := none, m, f := fun q k b _ _ => q.rsqrt k b }
  | .vfexp2 sc rd r2 m => some { bf := false, rounds := true, sc, rd, a := .vv r2, b := none, m, f := fun q k b _ _ => q.exp2 k b }
  | .vflog2 sc rd r2 m => some { bf := false, rounds := true, sc, rd, a := .vv r2, b := none, m, f := fun q k b _ _ => q.log2 k b }
  | .vfclass sc rd r2 m => some { bf := false, rounds := false, sc, rd, a := .vv r2, b := none, m, f := fun q _ b _ _ => (q.cls b, 0) }
  | .vfaddBf16 sc rd r1 r2 m g => some { bf := true, rounds := true, sc, rd, a := vaForm g.toNat r1, b := some r2, m, f := fun q k a b _ => q.add k a b }
  | .vfsubBf16 sc rd r1 r2 m g => some { bf := true, rounds := true, sc, rd, a := vaForm g.toNat r1, b := some r2, m, f := fun q k a b _ => q.sub k b a }
  | .vfmulBf16 sc rd r1 r2 m g => some { bf := true, rounds := true, sc, rd, a := vaForm g.toNat r1, b := some r2, m, f := fun q k a b _ => q.mul k a b }
  | .vfdivBf16 sc rd r1 r2 m g => some { bf := true, rounds := true, sc, rd, a := vaForm g.toNat r1, b := some r2, m, f := fun q k a b _ => q.div k b a }
  | .vfmaBf16 sc rd r1 r2 m g => some { bf := true, rounds := true, sc, rd, a := vaForm g.toNat r1, b := some r2, old := true, m, f := fun q k a b d => q.fma k a b d }
  | .vfnmaBf16 sc rd r1 r2 m g => some { bf := true, rounds := true, sc, rd, a := vaForm g.toNat r1, b := some r2, old := true, m, f := fun q k a b d => q.fma k (a ^^^ q.sign) b d }
  | .vfminBf16 sc rd r1 r2 m g => some { bf := true, rounds := false, sc, rd, a := vaForm g.toNat r1, b := some r2, m, f := fun q _ a b _ => q.minmax false a b }
  | .vfmaxBf16 sc rd r1 r2 m g => some { bf := true, rounds := false, sc, rd, a := vaForm g.toNat r1, b := some r2, m, f := fun q _ a b _ => q.minmax true a b }
  | .vfsqrtBf16 sc rd r2 m => some { bf := true, rounds := true, sc, rd, a := .vv r2, b := none, m, f := fun q k b _ _ => q.sqrt k b }
  | .vfrsqrtBf16 sc rd r2 m => some { bf := true, rounds := true, sc, rd, a := .vv r2, b := none, m, f := fun q k b _ _ => q.rsqrt k b }
  | .vfexp2Bf16 sc rd r2 m => some { bf := true, rounds := true, sc, rd, a := .vv r2, b := none, m, f := fun q k b _ _ => q.exp2 k b }
  | .vflog2Bf16 sc rd r2 m => some { bf := true, rounds := true, sc, rd, a := .vv r2, b := none, m, f := fun q k b _ _ => q.log2 k b }
  | .vfclassBf16 sc rd r2 m => some { bf := true, rounds := false, sc, rd, a := .vv r2, b := none, m, f := fun q _ b _ _ => (q.cls b, 0) }
  | _ => none

/-- The format of an FP row at an element width (R318), where it accepts the width. -/
def rowFmt (bf : Bool) (w : Nat) : Option Fmt :=
  if bf then (if w = 16 then some bf16 else none) else if w = 32 then some fp32 else if w = 16 then some fp16 else none

/-- An FP row as an element-wise instruction; EFB rounds as RNE, and a rounding code of 6 or 7 is illegal where it is used. -/
def FRow.lane (q : FRow) (h : Hart) : Lane :=
  let w := h.sew
  let e8 := h.lm8
  let f := (rowFmt q.bf w).getD fp32
  let r (i : Nat) := q.f f h.frm.toNat (opA h q.a w false i).toNat ((q.b.map (fun r => h.vel r.toNat w i)).getD 0) (h.vel q.rd.toNat w i)
  { sc := q.sc, xs := q.a.xs, d := q.rd, w := w, e8 := e8, takes := h.active q.m,
    vs := q.a.regs e8 ++ optRegs q.b e8 ++ (if q.old then groupRegs q.rd e8 else []),
    legal := (rowFmt q.bf w).isSome && (!q.rounds || modeOk h.frm) && q.a.ok e8 && q.b.all (fun r => groupOk r e8) && groupOk q.rd e8,
    reads := fun i => readsA q.a w i ++ q.b.toList.map (fun r => (r.toNat, w, i)) ++ (if q.old then [(q.rd.toNat, w, i)] else []),
    val := fun i => (r i).1 % 2 ^ w, fl := fun i => (r i).2 }

/-- The permutes that write a group (R329): from the old elements of B, and the scalar or index operand. -/
def permLane (h : Hart) : Instr → Option Lane
  | .vslideup sc rd r1 r2 m =>
    some { sc, xs := [r1], vs := groupRegs r2 h.lm8, d := rd, w := h.sew, e8 := h.lm8,
           legal := groupOk r2 h.lm8 && groupOk rd h.lm8 && !groupsMeet rd h.lm8 r2 h.lm8,
           takes := fun i => h.active m i && decide ((h.kx r1).toNat ≤ i),
           reads := fun i => [(r2.toNat, h.sew, i - (h.kx r1).toNat)], val := fun i => h.vel r2.toNat h.sew (i - (h.kx r1).toNat) }
  | .vslidedn sc rd r1 r2 m =>
    some { sc, xs := [r1], vs := groupRegs r2 h.lm8, d := rd, w := h.sew, e8 := h.lm8,
           legal := groupOk r2 h.lm8 && groupOk rd h.lm8, takes := h.active m,
           reads := fun i => if i + (h.kx r1).toNat < h.vlmax then [(r2.toNat, h.sew, i + (h.kx r1).toNat)] else [],
           val := fun i => if i + (h.kx r1).toNat < h.vlmax then h.vel r2.toNat h.sew (i + (h.kx r1).toNat) else 0 }
  | .vrgather sc rd r1 r2 m =>
    some { sc, vs := groupRegs r1 h.lm8 ++ groupRegs r2 h.lm8, d := rd, w := h.sew, e8 := h.lm8,
           legal := groupOk r1 h.lm8 && groupOk r2 h.lm8 && groupOk rd h.lm8 && !groupsMeet rd h.lm8 r1 h.lm8 && !groupsMeet rd h.lm8 r2 h.lm8,
           takes := h.active m,
           reads := fun i => (r1.toNat, h.sew, i) ::
             (if h.vel r1.toNat h.sew i < h.vlmax then [(r2.toNat, h.sew, h.vel r1.toNat h.sew i)] else []),
           val := fun i => if h.vel r1.toNat h.sew i < h.vlmax then h.vel r2.toNat h.sew (h.vel r1.toNat h.sew i) else 0 }
  | .vcompress sc rd r1 r2 =>
    let l := (List.range h.vl).filter (fun i => h.mbit r1.toNat i)
    some { sc, vs := groupRegs r2 h.lm8, d := rd, w := h.sew, e8 := h.lm8,
           legal := decide (h.vstart = 0) && groupOk r2 h.lm8 && groupOk rd h.lm8 && !groupsMeet rd h.lm8 r2 h.lm8,
           takes := fun j => decide (j < l.length), reads := fun j => [(r2.toNat, h.sew, l.getD j 0)],
           val := fun j => h.vel r2.toNat h.sew (l.getD j 0) }
  | .viota sc rd r1 m =>
    some { sc, d := rd, w := h.sew, e8 := h.lm8,
           legal := decide (h.vstart = 0) && groupOk rd h.lm8, takes := h.active m,
           val := fun i => ((List.range i).filter (fun j => h.active m j && h.mbit r1.toNat j)).length % 2 ^ h.sew }
  | .vbcast sc rd r1 m =>
    some { sc, vs := groupRegs r1 h.lm8, d := rd, w := h.sew, e8 := h.lm8,
           legal := groupOk r1 h.lm8 && groupOk rd h.lm8, takes := h.active m, reads := fun _ => [(r1.toNat, h.sew, 0)],
           val := fun _ => h.vel r1.toNat h.sew 0 }
  | _ => none

/-- Every element-wise instruction with a `v` destination that carries nothing from element to element. -/
def laneOf (h : Hart) (i : Instr) : Option Lane :=
  match intRow i with
  | some q => some (q.lane h)
  | none => match fpRow i with
    | some q => some (q.lane h)
    | none => match wideLane h i with
      | some L => some L
      | none => permLane h i

end Sys2Proof.Claims

/-! ### Element-wise instructions -/

/-- R308, R310, R315, R316: the integer rows write each active element from `vstart` to `vl` − 1 and complete; nothing else
changes. -/
def Sys2Proof.Claims.VectorIntegerRows : Prop :=
  ∀ (i : Instr) (s : State) (q : VRow), intRow i = some q → (q.lane s.hart).legal = true →
    vectorReady s q.sc q.a.xs (q.lane s.hart).vs (groupRegs q.rd s.hart.lm8) → (q.lane s.hart).clean s.hart →
    (q.lane s.hart).completes s (exec i s)

/-- R308, R315, R317, R329: VMERGE, VNSRA, the widening rows and VID. -/
def Sys2Proof.Claims.VectorMixedWidthRows : Prop :=
  ∀ (i : Instr) (s : State) (L : Lane), wideLane s.hart i = some L → L.legal = true →
    vectorReady s L.sc L.xs L.vs (groupRegs L.d L.e8) → L.clean s.hart → L.completes s (exec i s)

/-- R308, R314, R318, R319: the FP rows write each active element and accrue the flags of those elements; a newly set enabled flag
traps after the instruction. -/
def Sys2Proof.Claims.VectorFpRows : Prop :=
  ∀ (i : Instr) (s : State) (q : FRow), fpRow i = some q → (q.lane s.hart).legal = true →
    vectorReady s q.sc q.a.xs (q.lane s.hart).vs (groupRegs q.rd s.hart.lm8) → (q.lane s.hart).clean s.hart →
    (q.lane s.hart).completes s (exec i s)

/-- R308, R329: the permutes. -/
def Sys2Proof.Claims.VectorPermutes : Prop :=
  ∀ (i : Instr) (s : State) (L : Lane), permLane s.hart i = some L → L.legal = true →
    vectorReady s L.sc L.xs L.vs (groupRegs L.d L.e8) → L.clean s.hart → L.completes s (exec i s)

/-- R208, R246, R312: with `vill` set, or a type or group its row does not accept, an element-wise instruction is illegal: the trap's
value is the word, and `vstart` keeps its value. -/
def Sys2Proof.Claims.VectorIllegal : Prop :=
  ∀ (i : Instr) (s : State) (L : Lane), laneOf s.hart i = some L → calm s L.sc → s.hart.cUnk = 0 →
    s.hart.vill = true ∨ L.legal = false → exec i s = .next (s.trap 0 (s.hart.iw.setWidth 64) s.hart.pc)

/-- R36, R182, R308, R446: an element that reads poison ends the instruction there: the elements below it are written, `vstart` and
the fault indices name it, and the machine check of cause 0x40 names the register and element it read. -/
def Sys2Proof.Claims.VectorPoisonStop : Prop :=
  ∀ (i : Instr) (s : State) (L : Lane) (k r e : Nat),
    (intRow i).isSome ∨ (fpRow i).isSome ∨ (wideLane s.hart i).isSome →
    laneOf s.hart i = some L → L.legal = true → vectorReady s L.sc L.xs L.vs (groupRegs L.d L.e8) →
    L.on s.hart k = true → (∀ j < k, L.on s.hart j = true → poisonAt s.hart (L.reads j) = none) →
    poisonAt s.hart (L.reads k) = some (r, e) →
    ∃ V : Vector VReg 32, (L.below k).written s.hart V ∧
      exec i s = .next ((s.upd (fun h => { h with v := V, vstart := BitVec.ofNat 14 k, didx := #v[BitVec.ofNat 64 k, 0, 0],
                                                  fflags := h.fflags ||| BitVec.ofNat 7 ((L.below k).flags s.hart) })).trap 0x40
        (BitVec.ofNat 64 (2 ^ 63 + 65536 * r + e)) s.hart.pc)

namespace Sys2Proof.Claims

/-- An instruction with a mask destination: what takes part and each bit with its flags. -/
structure Bits where
  sc : Sc
  xs : List Reg := []
  vs : List Nat := []
  d : Reg
  legal : Bool
  takes : Nat → Bool
  reads : Nat → List (Nat × Nat × Nat) := fun _ => []
  bit : Nat → Bool
  fl : Nat → Nat := fun _ => 0

/-- It completes: only the mask register, `vstart`, the flags, the PC and the count of instructions change (R308, R330). -/
def Bits.completes (B : Bits) (s : State) (o : Out) : Prop :=
  let on (i : Nat) : Bool := decide (s.hart.vstart.toNat ≤ i) && decide (i < s.hart.vl) && B.takes i
  ∃ M : BitVec 16384, (∀ i < 16384, M.getLsbD i = if on i then B.bit i else (s.hart.mreg B.d.toNat).getLsbD i) ∧
    o = vectorEnd (s.upd (fun h => { h with m := h.m.setIfInBounds B.d.toNat M }))
      (((List.range s.hart.vl).filter on).foldl (fun f i => f ||| B.fl i) 0)

/-- Comparisons of integers (R317), comparisons of FP numbers (R318) and the mask instructions (R330). -/
def bitsOf (h : Hart) : Instr → Option Bits
  | .vcmpEq sc rd r1 r2 u m => some (icmp sc rd r1 r2 u m (fun b a => decide (b = a)))
  | .vcmpNe sc rd r1 r2 u m => some (icmp sc rd r1 r2 u m (fun b a => decide (b ≠ a)))
  | .vcmpLt sc rd r1 r2 u m => some (icmp sc rd r1 r2 u m (fun b a => decide (b < a)))
  | .vcmpLe sc rd r1 r2 u m => some (icmp sc rd r1 r2 u m (fun b a => decide (b ≤ a)))
  | .vfcmpEq sc rd r1 r2 m g => some (fcmp false 0 sc rd (vaForm g.toNat r1) r2 m)
  | .vfcmpLt sc rd r1 r2 m g => some (fcmp false 1 sc rd (vaForm g.toNat r1) r2 m)
  | .vfcmpLe sc rd r1 r2 m g => some (fcmp false 2 sc rd (vaForm g.toNat r1) r2 m)
  | .vfcmpEqBf16 sc rd r1 r2 m g => some (fcmp true 0 sc rd (vaForm g.toNat r1) r2 m)
  | .vfcmpLtBf16 sc rd r1 r2 m g => some (fcmp true 1 sc rd (vaForm g.toNat r1) r2 m)
  | .vfcmpLeBf16 sc rd r1 r2 m g => some (fcmp true 2 sc rd (vaForm g.toNat r1) r2 m)
  | .mand sc rd r1 r2 => some { sc, d := rd, legal := true, takes := fun _ => true, bit := fun i => h.mbit r1.toNat i && h.mbit r2.toNat i }
  | .mor sc rd r1 r2 => some { sc, d := rd, legal := true, takes := fun _ => true, bit := fun i => h.mbit r1.toNat i || h.mbit r2.toNat i }
  | .mxor sc rd r1 r2 => some { sc, d := rd, legal := true, takes := fun _ => true, bit := fun i => h.mbit r1.toNat i != h.mbit r2.toNat i }
  | .mnot sc rd r1 => some { sc, d := rd, legal := true, takes := fun _ => true, bit := fun i => !h.mbit r1.toNat i }
  | _ => none
where
  icmp (sc : Sc) (rd r1 r2 : Reg) (u : BitVec 1) (m : BitVec 3) (f : Int → Int → Bool) : Bits :=
    { sc, vs := groupRegs r1 h.lm8 ++ groupRegs r2 h.lm8, d := rd, legal := groupOk r1 h.lm8 && groupOk r2 h.lm8, takes := h.active m,
      reads := fun i => [(r1.toNat, h.sew, i), (r2.toNat, h.sew, i)],
      bit := fun i => f (num u (BitVec.ofNat h.sew (h.vel r2.toNat h.sew i))) (num u (BitVec.ofNat h.sew (h.vel r1.toNat h.sew i))) }
  fcmp (bf : Bool) (k : Nat) (sc : Sc) (rd : Reg) (a : VA) (r2 : Reg) (m : BitVec 3) : Bits :=
    let r (i : Nat) := ((rowFmt bf h.sew).getD fp32).cmp k (h.vel r2.toNat h.sew i) (opA h a h.sew false i).toNat
    { sc, xs := a.xs, vs := a.regs h.lm8 ++ groupRegs r2 h.lm8, d := rd,
      legal := (rowFmt bf h.sew).isSome && a.ok h.lm8 && groupOk r2 h.lm8, takes := h.active m,
      reads := fun i => readsA a h.sew i ++ [(r2.toNat, h.sew, i)], bit := fun i => (r i).1, fl := fun i => (r i).2 }

/-- A lane chain (R331): its operands and its operation on A and the second operand. -/
structure Chain where
  sc : Sc
  rd : Reg
  a : VA
  m : BitVec 3
  legal : Bool
  f : Nat → Nat → Nat × Nat

/-- The chain forms. -/
def chainOf (h : Hart) : Instr → Option Chain
  | .vaddCh sc rd r1 m g => some { sc, rd, a := vaForm g.toNat r1, m, legal := (vaForm g.toNat r1).ok h.lm8 && groupOk rd h.lm8,
                                   f := fun x p => ((x + p) % 2 ^ h.sew, 0) }
  | .vmaxCh sc rd r1 u m => some (ext sc rd r1 u m (fun x p => if x ≤ p then p else x))
  | .vminCh sc rd r1 u m => some (ext sc rd r1 u m (fun x p => if x ≤ p then x else p))
  | .vfaddCh sc rd r1 m g => some (fch false sc rd (vaForm g.toNat r1) m)
  | .vfaddChBf16 sc rd r1 m g => some (fch true sc rd (vaForm g.toNat r1) m)
  | _ => none
where
  ext (sc : Sc) (rd r1 : Reg) (u : BitVec 1) (m : BitVec 3) (f : Int → Int → Int) : Chain :=
    { sc, rd, a := .vv r1, m, legal := groupOk r1 h.lm8 && groupOk rd h.lm8,
      f := fun x p => ((BitVec.ofInt h.sew (f (num u (BitVec.ofNat h.sew x)) (num u (BitVec.ofNat h.sew p)))).toNat, 0) }
  fch (bf : Bool) (sc : Sc) (rd : Reg) (a : VA) (m : BitVec 3) : Chain :=
    { sc, rd, a, m, legal := (rowFmt bf h.sew).isSome && modeOk h.frm && a.ok h.lm8 && groupOk rd h.lm8,
      f := fun x p => ((rowFmt bf h.sew).getD fp32).add h.frm.toNat x p }

/-- The first element of the chain, or of a segment of `dlen0` elements (R194). -/
def segmentStart (h : Hart) (i : Nat) : Prop :=
  i = h.vstart.toNat ∨ (h.dlen[0].toNat ≠ 0 ∧ h.dlen[0].toNat < h.vl ∧ i % h.dlen[0].toNat = 0)

/-- A step of error feedback over the elements in order: code and flags of each, and the residual at the end (R230, R231). -/
def feedback (step : Nat → Nat → Nat × Nat × Nat) : List Nat → Nat → List (Nat × Nat × Nat) × Nat
  | [], e => ([], e)
  | i :: l, e =>
    let q := step i e
    let r := feedback step l q.2.2
    ((i, q.1, q.2.1) :: r.1, r.2)

/-- The result of element `i` in such a list. -/
def resultOf (l : List (Nat × Nat × Nat)) (i : Nat) : Nat := ((l.find? (fun q => decide (q.1 = i))).map (fun q => q.2.1)).getD 0

/-- An unpacked element (R324, R235): its scale byte X and its code. -/
def unpacked (f : Fmt) (code rm : Nat) (ieee : Bool) (x c : Nat) : Nat × Nat :=
  match elemVal code c with
  | (.nan _, fl) => (f.canon, fl)
  | (.inf n, fl) => (if x % 256 = 255 then f.canon else (if n then f.sign else 0) + f.infCode, fl)
  | (.fin n m e, fl) =>
    if x % 256 = 255 then (f.canon, fl)
    else
      let q := f.round rm true n m (e + ((x % 256 : Nat) : Int) - 127) false
      (if m ≠ 0 ∧ q.2 / 4 % 2 = 1 ∧ ieee then (if n then f.sign else 0) + f.infCode else q.1, fl ||| q.2)

/-- VMXUNP as an element-wise instruction (R323, R324). -/
def unpackLane (h : Hart) (sc : Sc) (rd r1 r2 : Reg) (e m : BitVec 3) : Lane :=
  let f := (mxWide h.sew).getD fp32
  let en := h.em8 (mxSize e)
  let r (i : Nat) := unpacked f (mxCode e) h.frm.toNat (h.tctl.getLsbD 1) (h.vel r1.toNat 8 (i / 32)) (h.mxEl r2 e i)
  { sc, vs := r1.toNat :: groupRegs r2 en, d := rd, w := h.sew, e8 := h.lm8, takes := h.active m,
    legal := (mxWide h.sew).isSome && modeOk h.frm && groupOk r2 en && groupOk rd h.lm8 && !groupsMeet rd h.lm8 r2 en && !groupsMeet rd h.lm8 r1 8,
    reads := fun i => [(r1.toNat, 8, i / 32), (r2.toNat, mxBits e, i)], val := fun i => (r i).1 % 2 ^ h.sew, fl := fun i => (r i).2 }

/-- VFCVT as an element-wise instruction where error feedback does not govern it (R321). -/
def convertLane (h : Hart) (sc : Sc) (rd r2 : Reg) (m : BitVec 3) (t k : BitVec 5) : Lane :=
  let ws := formatSew t.toNat
  let wd := formatSew k.toNat
  let r (i : Nat) := convert t.toNat k.toNat h.frm.toNat false (h.vel r2.toNat ws i)
  { sc, vs := groupRegs r2 (h.em8 ws), d := rd, w := wd, e8 := h.em8 wd, takes := h.active m,
    legal := decide (h.sew = max ws wd) && modeOk h.frm && groupOk r2 (h.em8 ws) && groupOk rd (h.em8 wd) &&
      (decide (ws = wd) || !groupsMeet rd (h.em8 wd) r2 (h.em8 ws)),
    reads := fun i => [(r2.toNat, ws, i)], val := fun i => (r i).1 % 2 ^ wd, fl := fun i => (r i).2 }

/-- The tree of R328 over the leaves `t`: level `k` from leaf `j`. -/
def sumTree (rm : Nat) (t : Nat → Nat) : Nat → Nat → Nat × Nat
  | 0, j => (t j, 0)
  | k + 1, j =>
    let a := sumTree rm t k j
    let b := sumTree rm t k (j + 2 ^ k)
    let c := fp32.add rm a.1 b.1
    (c.1, a.2 ||| b.2 ||| c.2)

/-- The FP sum (R328): `el j` is element `j` where it is active. -/
def treeTotal (f : Fmt) (rm init n : Nat) (el : Nat → Option Nat) : Nat × Nat :=
  let wide (c : Nat) := fp32.put rm false (f.decode c)
  let leaf (j : Nat) : Nat × Nat := if j < n then ((el j).map wide).getD (2 ^ 31, 0) else (2 ^ 31, 0)
  let r := sumTree rm (fun j => (leaf j).1) (Nat.clog 2 n) 0
  let q := fp32.add rm r.1 (wide init).1
  let fl := (List.range n).foldl (fun x j => x ||| (leaf j).2) (r.2 ||| q.2 ||| (wide init).2)
  if f.w = 32 then (q.1, fl) else let z := f.put rm false (fp32.decode q.1); (z.1, fl ||| z.2)

/-- A reduction: its operands, whether its type is legal, and the result with flags from the initial value and the active elements
below `vl` (R327). -/
structure Reduction where
  sc : Sc
  rd : Reg
  r1 : Reg
  r2 : Reg
  m : BitVec 3
  typed : Bool
  f : Nat → List Nat → Nat × Nat

/-- The reductions. -/
def reductionOf (h : Hart) : Instr → Option Reduction
  | .vredsum sc rd r1 r2 m => some { sc, rd, r1, r2, m, typed := true, f := fun a l => ((a + l.sum) % 2 ^ h.sew, 0) }
  | .vredmax sc rd r1 r2 m => some { sc, rd, r1, r2, m, typed := true, f := fun a l => (l.foldl (ext false true) a, 0) }
  | .vredmin sc rd r1 r2 m => some { sc, rd, r1, r2, m, typed := true, f := fun a l => (l.foldl (ext false false) a, 0) }
  | .vredmaxN sc rd r1 r2 m => some { sc, rd, r1, r2, m, typed := true, f := fun a l => (l.foldl (ext true true) a, 0) }
  | .vredminN sc rd r1 r2 m => some { sc, rd, r1, r2, m, typed := true, f := fun a l => (l.foldl (ext true false) a, 0) }
  | .vfredsum sc rd r1 r2 m => some (fsum false sc rd r1 r2 m)
  | .vfredsumBf16 sc rd r1 r2 m => some (fsum true sc rd r1 r2 m)
  | .vfredmax sc rd r1 r2 m => some (fmax false sc rd r1 r2 m)
  | .vfredmaxBf16 sc rd r1 r2 m => some (fmax true sc rd r1 r2 m)
  | _ => none
where
  ext (u big : Bool) (a b : Nat) : Nat :=
    let v (x : Nat) : Int := if u then (x : Int) else (BitVec.ofNat h.sew x).toInt
    if v a ≤ v b then (if big then b else a) else (if big then a else b)
  fsum (bf : Bool) (sc : Sc) (rd r1 r2 : Reg) (m : BitVec 3) : Reduction :=
    { sc, rd, r1, r2, m, typed := (rowFmt bf h.sew).isSome && modeOk h.frm,
      f := fun a _ => treeTotal ((rowFmt bf h.sew).getD fp32) h.frm.toNat a h.vl
        (fun j => if h.active m j then some (h.vel r2.toNat h.sew j) else none) }
  fmax (bf : Bool) (sc : Sc) (rd r1 r2 : Reg) (m : BitVec 3) : Reduction :=
    let f := (rowFmt bf h.sew).getD fp32
    { sc, rd, r1, r2, m, typed := (rowFmt bf h.sew).isSome,
      f := fun a l =>
        let q := l.foldl (fun (q : Nat × Nat) b => ((f.minmax true q.1 b).1, q.2 ||| (f.minmax true q.1 b).2))
          (a, match f.decode a with | .nan true => 16 | _ => 0)
        (if (f.decode q.1).isNan then f.canon else q.1, q.2) }

/-- Eight times LMUL of a `vlmul` code (R208). -/
def eighths (c : BitVec 3) : Nat :=
  if c = 0 then 8 else if c = 1 then 16 else if c = 2 then 32 else if c = 3 then 64 else if c = 5 then 1 else if c = 6 then 2
  else if c = 7 then 4 else 0

/-- What the first configuration of a hart does to its vector file (R213). -/
def configured (h : Hart) : Hart := { h with vi := true, v := if h.vi then h.v else Vector.replicate 32 {} }

/-- The state after a vector configuration (R306). -/
def typed (s : State) (ok : Prop) [Decidable ok] (rd : Reg) (w l : BitVec 3) (avl : Option Nat) : State :=
  if ok then
    let most := s.hart.vgrant * eighths l / (8 * 2 ^ (w.toNat + 1))
    let n := min (avl.getD most) most
    wrote (s.upd (fun h => { configured h with vsew := w, vlmul := l, vill := false, vl := n })) rd (BitVec.ofNat 64 n)
  else wrote (s.upd (fun h => { configured h with vsew := 0, vlmul := 0, vill := true, vl := 0 })) rd 0

end Sys2Proof.Claims

/-! ### Configuration, masks, chains, reductions, conversions -/

/-- R208, R213, R306: VSETVL and VSETVLI set the type and the length, or `vill`, and write the length to `x[rd]`. -/
def Sys2Proof.Claims.VectorConfiguration : Prop :=
  ∀ (s : State) (sc : Sc) (rd r1 r2 : Reg) (l w : BitVec 3) (a b : W64), calm s sc → s.hart.cUnk = 0 → holds s r1 a →
    exec (.vsetvli sc rd r1 l w) s = .next (typed s (w.toNat ≤ 5 ∧ l ≠ 4) rd w l (if r1 = 0 then none else some a.toNat)) ∧
    (holds s r2 b → exec (.vsetvl sc rd r1 r2) s =
      .next (typed s ((b.extractLsb' 0 3).toNat ≤ 5 ∧ b.extractLsb' 3 3 ≠ 4 ∧ b.extractLsb' 6 56 = 0) rd (b.extractLsb' 0 3)
        (b.extractLsb' 3 3) (if r1 = 0 then none else some a.toNat)))

/-- R307: VSETDIM sets a length and a stride of the tile sweep. -/
def Sys2Proof.Claims.VectorDimensions : Prop :=
  ∀ (s : State) (sc : Sc) (rd r1 r2 : Reg) (e : BitVec 2) (d : Fin 3) (a b : W64), calm s sc → holds s r1 a → holds s r2 b →
    e.toNat = d.val + 1 →
    exec (.vsetdim sc rd r1 r2 e) s =
      .next (wrote (s.upd (fun h => { h with dlen := h.dlen.set d.val (BitVec.ofNat 16 (min a.toNat 65535)), dstr := h.dstr.set d.val b })) rd
        (BitVec.ofNat 64 (min a.toNat 65535)))

/-- R308, R317, R318, R330: comparisons and mask instructions write the bits from `vstart` to `vl` − 1 that take part. -/
def Sys2Proof.Claims.VectorMaskResults : Prop :=
  ∀ (i : Instr) (s : State) (B : Bits), bitsOf s.hart i = some B → B.legal = true → vectorReady s B.sc B.xs B.vs [] →
    (∀ k, s.hart.vstart.toNat ≤ k → k < s.hart.vl → B.takes k = true → poisonAt s.hart (B.reads k) = none) → B.completes s (exec i s)

/-- R194, R195, R331: each active element of a chain is made of A and the element before it as it then stands, or of `vseed` at the
start of the chain or of a segment; `vseed` keeps the last result. -/
def Sys2Proof.Claims.VectorChains : Prop :=
  ∀ (i : Instr) (s : State) (C : Chain), chainOf s.hart i = some C → C.legal = true →
    vectorReady s C.sc C.a.xs (C.a.regs s.hart.lm8 ++ groupRegs C.rd s.hart.lm8) (groupRegs C.rd s.hart.lm8) →
    (∀ r : Nat, (s.hart.vreg r).psn = 0) →
    let w := s.hart.sew
    let on (j : Nat) : Bool := decide (s.hart.vstart.toNat ≤ j) && decide (j < s.hart.vl) && s.hart.active C.m j
    ∃ (V : Vector VReg 32) (seed : W64) (prev : Nat → Nat),
      (∀ r : Nat, r ∉ groupRegs C.rd s.hart.lm8 → V[r]? = s.hart.v[r]?) ∧
      (∀ j, segmentStart s.hart j → prev j = s.hart.vseed.toNat % 2 ^ w) ∧
      (∀ j, ¬ segmentStart s.hart j → prev j = Hart.vel { s.hart with v := V } C.rd.toNat w (j - 1)) ∧
      (∀ j, w * (j + 1) ≤ s.hart.vgrant * groupLen s.hart.lm8 →
        Hart.vel { s.hart with v := V } C.rd.toNat w j =
          if on j then (C.f (opA s.hart C.a w false j).toNat (prev j)).1 else s.hart.vel C.rd.toNat w j) ∧
      (∀ j, on j = true → (∀ k, j < k → on k = false) → seed = BitVec.ofNat 64 (Hart.vel { s.hart with v := V } C.rd.toNat w j)) ∧
      ((∀ j, on j = false) → seed = s.hart.vseed) ∧
      exec i s = vectorEnd (s.upd (fun h => { h with v := V, vseed := seed }))
        (((List.range s.hart.vl).filter on).foldl (fun f j => f ||| (C.f (opA s.hart C.a w false j).toNat (prev j)).2) 0)

/-- R312, R327, R328: a reduction writes element 0 of `vd` from element 0 of `vs1` and the active elements of `vs2` below `vl`; with a
length of 0 it writes nothing; with a `vstart` other than 0 it is illegal. -/
def Sys2Proof.Claims.VectorReductions : Prop :=
  ∀ (i : Instr) (s : State) (R : Reduction), reductionOf s.hart i = some R →
    let w := s.hart.sew
    let els := (List.range s.hart.vl).filter (s.hart.active R.m)
    (s.hart.cUnk = 0 → calm s R.sc → s.hart.vstart ≠ 0 →
      exec i s = .next (s.trap 0 (s.hart.iw.setWidth 64) s.hart.pc)) ∧
    (vectorReady s R.sc [] (R.r1.toNat :: groupRegs R.r2 s.hart.lm8) [R.rd.toNat] → R.typed = true → groupOk R.r2 s.hart.lm8 = true →
      s.hart.vstart = 0 → (∀ r : Nat, (s.hart.vreg r).psn = 0) →
      (s.hart.vl = 0 → exec i s = vectorEnd s 0) ∧
      (s.hart.vl ≠ 0 → ∃ V : Vector VReg 32, (∀ r : Nat, r ≠ R.rd.toNat → V[r]? = s.hart.v[r]?) ∧
        (∀ j, w * (j + 1) ≤ s.hart.vgrant → Hart.vel { s.hart with v := V } R.rd.toNat w j =
          if j = 0 then (R.f (s.hart.vel R.r1.toNat w 0) (els.map (s.hart.vel R.r2.toNat w))).1 % 2 ^ w else s.hart.vel R.rd.toNat w j) ∧
        exec i s = vectorEnd (s.upd (fun h => { h with v := V }))
          (R.f (s.hart.vel R.r1.toNat w 0) (els.map (s.hart.vel R.r2.toNat w))).2))

/-- R329, R330: VEXT reads and VINS writes one element by its index, whatever `vstart` and `vl` are; MPOPC counts and MFIRST finds the
bits below `vl`. -/
def Sys2Proof.Claims.VectorScalarMoves : Prop :=
  ∀ (s : State) (sc : Sc) (rd r1 r2 : Reg) (m : BitVec 3) (a b : W64),
    (groupOk r2 s.hart.lm8 = true → vectorReady s sc [r1] (groupRegs r2 s.hart.lm8) [] → s.hart.vdep = 0 → holds s r1 a →
      (a.toNat < s.hart.vlmax → s.hart.velPsn r2.toNat s.hart.sew a.toNat = false → exec (.vext sc rd r1 r2 m) s =
        .next (wrote s rd (BitVec.ofInt 64 (BitVec.ofNat s.hart.sew (s.hart.vel r2.toNat s.hart.sew a.toNat)).toInt))) ∧
      (s.hart.vlmax ≤ a.toNat → exec (.vext sc rd r1 r2 m) s = .next (wrote s rd 0))) ∧
    (groupOk rd s.hart.lm8 = true → vectorReady s sc [r1, r2] [] (groupRegs rd s.hart.lm8) → holds s r1 a → holds s r2 b →
      (b.toNat < s.hart.vlmax → s.hart.active m b.toNat = true → ∃ V : Vector VReg 32,
        (∀ r : Nat, r ∉ groupRegs rd s.hart.lm8 → V[r]? = s.hart.v[r]?) ∧
        (∀ j, s.hart.sew * (j + 1) ≤ s.hart.vgrant * groupLen s.hart.lm8 → Hart.vel { s.hart with v := V } rd.toNat s.hart.sew j =
          if j = b.toNat then a.toNat % 2 ^ s.hart.sew else s.hart.vel rd.toNat s.hart.sew j) ∧
        exec (.vins sc rd r1 r2 m) s = .next (s.upd (fun h => { h with v := V })).retire) ∧
      (s.hart.vlmax ≤ b.toNat ∨ s.hart.active m b.toNat = false → exec (.vins sc rd r1 r2 m) s = .next s.retire)) ∧
    (vectorReady s sc [] [] [] → s.hart.vdep = 0 →
      let on := (List.range s.hart.vl).filter (s.hart.mbit r1.toNat)
      exec (.mpopc sc rd r1) s = .next (wrote (s.upd (fun h => { h with vstart := 0 })) rd (BitVec.ofNat 64 on.length)) ∧
      exec (.mfirst sc rd r1) s = .next (wrote (s.upd (fun h => { h with vstart := 0 })) rd
        ((on.head?.map (BitVec.ofNat 64)).getD (BitVec.allOnes 64))))

/-- R230, R231, R321, R322: VFCVT converts each active element; where error feedback governs it, each takes the residual that the
one before left, and `vresid` keeps the last. -/
def Sys2Proof.Claims.VectorConversions : Prop :=
  ∀ (s : State) (sc : Sc) (rd r2 : Reg) (m : BitVec 3) (t k : BitVec 5),
    let L := convertLane s.hart sc rd r2 m t k
    L.legal = true → vectorReady s sc [] L.vs (groupRegs rd L.e8) → L.clean s.hart →
    ((s.hart.frm ≠ 5 ∨ efbPair t.toNat k.toNat = false) → L.completes s (exec (.vfcvt sc rd r2 m t k) s)) ∧
    (s.hart.frm = 5 → efbPair t.toNat k.toNat = true →
      let els := (List.range s.hart.vl).filter (L.on s.hart)
      let r := feedback (fun i e => efbTo ((fmtOf k.toNat).getD fp32) 0 (elemVal t.toNat (s.hart.vel r2.toNat (formatSew t.toNat) i)).1 e)
        els s.hart.vresid.toNat
      ∃ V : Vector VReg 32, Lane.written { L with val := fun i => resultOf r.1 i % 2 ^ L.w } s.hart V ∧
        exec (.vfcvt sc rd r2 m t k) s =
          vectorEnd (s.upd (fun h => { h with v := V, vresid := if els = [] then h.vresid else BitVec.ofNat 32 r.2 }))
            (r.1.foldl (fun f q => f ||| q.2.2) 0))

/-- R235, R323 to R326: VMXUNP multiplies each element by its block's scale and rounds; VMXPACK writes the block's scale byte and the
scaled codes, with the residual where error feedback is on. -/
def Sys2Proof.Claims.VectorMxPacking : Prop :=
  ∀ (s : State) (sc : Sc) (rd r1 r2 : Reg) (e m : BitVec 3),
    (let L := unpackLane s.hart sc rd r1 r2 e m
     L.legal = true → vectorReady s sc [] L.vs (groupRegs rd L.e8) → L.clean s.hart → L.completes s (exec (.vmxunp sc rd r1 r2 e m) s)) ∧
    (let h := s.hart
     let en := h.em8 (mxSize e)
     let on (i : Nat) : Bool := decide (h.vstart.toNat ≤ i) && decide (i < h.vl) && h.active m i
     let els := (List.range h.vl).filter on
     let val (i : Nat) : FV := ((mxWide h.sew).getD fp32).decode (h.vel r2.toNat h.sew i)
     let scale (b : Nat) : Nat := mxScale (mxEmax e)
       ((((List.range h.vl).filter (fun i => h.active m i && decide (i / 32 = b)))).map val)
     let r := feedback (fun i c => mxPack (mxCode e) h.frm.toNat (scale (i / 32)) (decide (h.frm = 5)) (val i) c) els h.vresid.toNat
     (mxWide h.sew).isSome = true → modeOk h.frm = true → groupOk r2 h.lm8 = true → groupOk rd en = true →
     groupsMeet rd en r2 h.lm8 = false → groupsMeet rd en r1 8 = false → groupsMeet r1 8 r2 h.lm8 = false →
     vectorReady s sc [] (groupRegs r2 h.lm8) (r1.toNat :: groupRegs rd en) → (∀ k : Nat, (h.vreg k).psn = 0) →
     ∃ V : Vector VReg 32, (∀ k : Nat, k ≠ r1.toNat → k ∉ groupRegs rd en → V[k]? = h.v[k]?) ∧
       (∀ i, mxBits e * (i + 1) ≤ h.vgrant * groupLen en →
         Hart.mxEl { h with v := V } rd e i = if on i then resultOf r.1 i % 2 ^ mxBits e else h.mxEl rd e i) ∧
       (∀ b, 8 * (b + 1) ≤ h.vgrant →
         Hart.vel { h with v := V } r1.toNat 8 b = if (List.range h.vl).any (fun i => decide (h.vstart.toNat ≤ i) && decide (i / 32 = b)) &&
             (List.range h.vl).any (fun i => h.active m i && decide (i / 32 = b)) then scale b % 256 else h.vel r1.toNat 8 b) ∧
       exec (.vmxpack sc rd r1 r2 e m) s =
         vectorEnd (s.upd (fun h => { h with v := V, vresid := if h.frm = 5 ∧ els ≠ [] then BitVec.ofNat 32 r.2 else h.vresid }))
           (r.1.foldl (fun f q => f ||| q.2.2) 0))

/-! ## Memory behind a window, vector memory, barriers and buffers -/

namespace Sys2Proof.Claims

/-- Nothing is wrong with memory or late: no poisoned word, no word with an error, no stale row, no lost far-tier line, no line under a
VF's key (R102, R103, R448, R467, R471). -/
def memoryClean (s : State) : Prop := s.psn = [] ∧ s.ecc = [] ∧ s.stale = [] ∧ s.uioLost = [] ∧ s.encKey = []

/-- The first byte's place where an access of `n` bytes reaches a cluster SRAM bank that allows it or a stack's Lantern SRAM, and its turn at
the cluster's ports or on the bay's bus has come (R62, R71, R75 to R77): the SRAM of cluster c begins at 2^46 + 2^24 c, that of stack k at
2^45 + 2^28 k. -/
def onChip (s : State) (w : Win) (n : Nat) (u : SramUse) : Option Nat :=
  match w with
  | .sram c off => if s.sramAllows c off n u ∧ (s.portTurn c (s.me.port c)).2 = true then some (2 ^ 46 + 2 ^ 24 * c + off) else none
  | .lantern k off => if (u ≠ .load ∧ s.slotWaited k off n) ∨ (s.busTurn s.me k off).2 = false then none else some (2 ^ 45 + 2 ^ 28 * k + off)
  | _ => none

/-- An access of the hart that steps reaches on-chip memory at `k`, and no symbol pending and no earlier AMO stands in its way (R12, R15,
R73, R172). -/
def reaches (s : State) (va : W64) (n : Nat) (acc : Acc) (u : SramUse) (k : Nat) : Prop :=
  ∃ ia attr w, issue s.myCtx s.hart.level va n acc = .ok (ia, attr) ∧ s.plainWindow va ia n attr = .ok w ∧ onChip s w n u = some k ∧
    s.symBlocks ia n attr = false ∧ s.amoAhead ia = false

/-- The number in `n` bytes from `k`, least significant first (R4). -/
def numberAt (s : State) (k n : Nat) : Nat := (List.range n).foldl (fun a i => a + (s.byteAt (k + i)).toNat * 256 ^ i) 0

/-- Memory is as before but for `n` bytes from `k`, which hold the low bytes of `v`. -/
def storedAt (s t : State) (k n v : Nat) : Prop :=
  ∀ j, t.byteAt j = if k ≤ j ∧ j < k + n then BitVec.ofNat 8 (v / 256 ^ (j - k)) else s.byteAt j

/-- The instruction completed: only `x[rd]` of the general registers changed, and the PC moved on. -/
def stepped (s t : State) (rd : Reg) (v : W64) : Prop :=
  t.hart.rx rd = .known (if rd = 0 then 0 else v) ∧ sameRegsBut s t rd ∧ t.hart.pc = s.hart.pc + 4 ∧
  t.hart.instret = s.hart.instret + 1 ∧ t.hart.v = s.hart.v ∧ t.hart.m = s.hart.m ∧ t.hart.level = s.hart.level

/-- A vector memory instruction (R336, R337, R343): its operands, its group and its accesses. -/
structure VMemForm where
  load : Bool
  sc : Sc
  xs : List Reg
  ix : Option Reg := none
  vd : Reg
  scope : BitVec 3
  free : Bool
  legal : Bool
  accs : List VAcc
  at_ : Nat → Vector W64 3 := fun i => #v[BitVec.ofNat 64 i, 0, 0]

/-- The accesses of elements of 8 bits or more. -/
def elementAccs (h : Hart) (load : Bool) (vd : Reg) (ix : Option Reg) (els : List Nat) (addr : Nat → W64) : List VAcc :=
  els.map (fun i => { idx := i, va := addr i, areads := ix.toList.map (fun r => (r.toNat, h.sew, i)),
                      dreads := if load then [] else [(vd.toNat, h.sew, i)],
                      val := if load then 0 else BitVec.ofNat 64 (h.vel vd.toNat h.sew i) })

/-- The dimensions of the tile sweep; a length of 0 acts as R212 states. -/
def sweepDim (h : Hart) (d : Fin 3) : Nat :=
  if h.dlen[d].toNat ≠ 0 then h.dlen[d].toNat else if d = 0 then max 1 h.vl else 1

/-- The address of element `e` of the tile sweep (R181). -/
def sweepAddr (h : Hart) (base : W64) (e : Nat) : W64 :=
  base + BitVec.ofNat 64 (e % sweepDim h 0) * h.dstr[0] + BitVec.ofNat 64 (e / sweepDim h 0 % sweepDim h 1) * h.dstr[1] +
    BitVec.ofNat 64 (e / (sweepDim h 0 * sweepDim h 1)) * h.dstr[2]

/-- The vector memory instructions but VSLD. -/
def vmemOf (h : Hart) : Instr → Option VMemForm
  | .vld sc rd r1 p m => some (unit true sc rd r1 p true m)
  | .vst sc rd r1 p u m => some (unit false sc rd r1 p (decide (u = 1)) m)
  | .vlds sc rd r1 r2 p m => some (strided true sc rd r1 r2 p true m)
  | .vsts sc rd r1 r2 p u m => some (strided false sc rd r1 r2 p (decide (u = 1)) m)
  | .vldx sc rd r1 r2 p m => some (indexed true sc rd r1 r2 p true m)
  | .vstx sc rd r1 r2 p u m => some (indexed false sc rd r1 r2 p (decide (u = 1)) m)
  | .vldm sc rd r1 p m => some (tile true sc rd r1 p true m)
  | .vstm sc rd r1 p u m => some (tile false sc rd r1 p (decide (u = 1)) m)
  | _ => none
where
  els (m : BitVec 3) : List Nat := (List.range h.vl).filter (fun i => decide (h.vstart.toNat ≤ i) && h.active m i)
  unit (load : Bool) (sc : Sc) (rd r1 : Reg) (p : BitVec 3) (free : Bool) (m : BitVec 3) : VMemForm :=
    { load, sc, xs := [r1], vd := rd, scope := p, free,
      legal := groupOk rd h.lm8 && (decide (8 ≤ h.sew) || load ||
        (decide (m = 0) && decide (h.vstart.toNat * h.sew % 8 = 0) && decide (h.vl * h.sew % 8 = 0))),
      accs := if 8 ≤ h.sew then elementAccs h load rd none (els m) (fun i => h.kx r1 + BitVec.ofNat 64 (i * (h.sew / 8)))
              else h.accsPacked load rd (els m) (h.kx r1) }
  strided (load : Bool) (sc : Sc) (rd r1 r2 : Reg) (p : BitVec 3) (free : Bool) (m : BitVec 3) : VMemForm :=
    { load, sc, xs := [r1, r2], vd := rd, scope := p, free, legal := decide (8 ≤ h.sew) && groupOk rd h.lm8,
      accs := elementAccs h load rd none (els m) (fun i => h.kx r1 + BitVec.ofNat 64 i * h.kx r2) }
  indexed (load : Bool) (sc : Sc) (rd r1 r2 : Reg) (p : BitVec 3) (free : Bool) (m : BitVec 3) : VMemForm :=
    { load, sc, xs := [r1], ix := some r2, vd := rd, scope := p, free,
      legal := decide (8 ≤ h.sew) && groupOk rd h.lm8 && groupOk r2 h.lm8 && (!load || !groupsMeet rd h.lm8 r2 h.lm8),
      accs := elementAccs h load rd (some r2) (els m)
        (fun i => h.kx r1 + BitVec.signExtend 64 (BitVec.ofNat h.sew (h.vel r2.toNat h.sew i))) }
  tile (load : Bool) (sc : Sc) (rd r1 : Reg) (p : BitVec 3) (free : Bool) (m : BitVec 3) : VMemForm :=
    { load, sc, xs := [r1], vd := rd, scope := p, free, legal := decide (8 ≤ h.sew) && groupOk rd h.lm8,
      at_ := fun e => #v[BitVec.ofNat 64 (e % sweepDim h 0), BitVec.ofNat 64 (e / sweepDim h 0 % sweepDim h 1),
                         BitVec.ofNat 64 (e / (sweepDim h 0 * sweepDim h 1))],
      accs := elementAccs h load rd none ((els m).filter (fun e => decide (e / (sweepDim h 0 * sweepDim h 1) < sweepDim h 2)))
        (sweepAddr h (h.kx r1)) }

/-- The sources and destinations of a vector memory instruction are ready. -/
def VMemForm.ready (f : VMemForm) (s : State) : Prop :=
  s.hart.vdep = 0 ∧ vectorReady s f.sc f.xs (optRegs f.ix s.hart.lm8 ++ (if f.load then [] else groupRegs f.vd s.hart.lm8))
    (if f.load then groupRegs f.vd s.hart.lm8 else [])

/-- The entry of the vector queue that holds accesses still to be performed (R183, R185). -/
def VMemForm.entry (f : VMemForm) (h : Hart) (l : List VElem) (strict : Bool) : VQEntry :=
  { load := f.load, vd := f.vd.toNat, sew := h.sew, bytes := max 1 (h.sew / 8), scope := f.scope.toNat, elems := l, free := f.free,
    strict := strict }

/-- What a queued access says of where it goes: index, address and value. -/
def asked (l : List VElem) : List (Nat × W64 × W64) := l.map (fun x => (x.idx, x.va, x.val))

/-- A vector memory instruction completes with its accesses queued: no element changes yet, and no byte of memory. -/
def queued (s t u : State) (e : VQEntry) : Prop :=
  u.hart.vstart = 0 ∧ u.hart.pc = s.hart.pc + 4 ∧ u.hart.instret = s.hart.instret + 1 ∧
  u.hart.vq = s.hart.vq ++ (if e.elems = [] then [] else [e]) ∧ u.hart.x = s.hart.x ∧ u.hart.m = s.hart.m ∧ u.mem = t.mem

/-- The number of a barrier word (R345) for a fresh cell: `exp` and `rem` the count, `bytes` the high half, phase 0. -/
def freshCell (v tick : W64) : Nat :=
  v.toNat % 2 ^ 16 + 2 ^ 16 * (v.toNat % 2 ^ 16) + 2 ^ 32 * (v.toNat / 2 ^ 32) + 2 ^ 96 * (tick.toNat % 2 ^ 32)

/-- The status word of BARR and BARB (R350). -/
def arrivalStatus (r : BarDone) : W64 :=
  BitVec.ofNat 64 (r.phase + 16 * b2n r.flip + 32 * b2n r.ovr + 64 * b2n r.und + 2 ^ 16 * r.rem + 2 ^ 63 * b2n (r.ovr || r.und))

/-- The status word of BWAIT and BTEST (R351). -/
def waitStatus (b : BarWord) (p : Nat) (tmo : Bool) : W64 :=
  BitVec.ofNat 64 (b.phase + 16 * (if b.phase = p then 0 else 1) + 32 * b2n tmo + 64 * b2n b.ovr + 128 * b2n b.und + 256 * b2n b.eerr +
    512 * b2n b.short + 2 ^ 16 * b.rem + 2 ^ 32 * b.bytes)

/-- The deadline of a wait of `n` ticks (R351): 2^64 − 1 ticks never pass, and neither does a time past the end of the time base. -/
def waitDeadline (now n : W64) : Option W64 :=
  if n = BitVec.allOnes 64 ∨ 2 ^ 64 ≤ now.toNat + n.toNat then none else some (now + n)

end Sys2Proof.Claims

/-- R4, R62, R141, R277, R279, R281: loads, stores and atomic operations of the hart on cluster SRAM and Lantern SRAM. A load reads the
bytes least significant first; a store writes exactly its bytes; an atomic operation reads and, where it writes, writes exactly its
bytes; no other byte of memory and no other register changes. -/
def Obligations.OnChipMemory : Prop :=
  ∀ (s : State) (sc : Sc) (rd r1 r2 : Reg) (a d : W64) (k : Nat), calm s sc → memoryClean s → holds s r1 a → holds s r2 d →
    (∀ (o : BitVec 8) (w : BitVec 3), reaches s (a + scaledBy o (widthOf w)) (widthOf w) .read .load k →
      ∃ t, exec (.ld sc rd r1 o w) s = .next t ∧ stepped s t rd (loaded w (numberAt s k (widthOf w))) ∧ ∀ j, t.byteAt j = s.byteAt j) ∧
    (∀ (o : BitVec 9) (w : BitVec 2), reaches s (a + scaledBy o (2 ^ w.toNat)) (2 ^ w.toNat) .write .store k →
      ∃ t, exec (.st sc r1 r2 o w) s = .next t ∧ stepped s t 0 0 ∧ storedAt s t k (2 ^ w.toNat) d.toNat) ∧
    (∀ (i : Instr) (op n : Nat) (p : BitVec 2) (c : W64), amoForm i = some (op, n, sc, rd, r1, r2, p, 0, 0) → (op = 9 → holds s rd c) →
      a.toNat % n = 0 → reaches s a n .both .amo k →
      ∃ t, exec i s = .next t ∧ stepped s t rd (BitVec.signExtend 64 (BitVec.ofNat (8 * n) (numberAt s k n))) ∧
        (match amoNew op (8 * n) (numberAt s k n) d.toNat c.toNat with
         | some v => storedAt s t k n v
         | none => ∀ j, t.byteAt j = s.byteAt j))

/-- R34, R36, R182, R183, R202, R336 to R338, R342, R343: a vector load or store whose elements all translate completes with one access for
each active element, at the address of its form, in the vector queue, and a load's destination takes tag G; a first element that faults takes the fault with `vstart` and
the indices at it; a form or type it does not have is illegal. -/
def Sys2Proof.Claims.VectorMemoryAccesses : Prop :=
  ∀ (i : Instr) (s : State) (f : VMemForm), vmemOf s.hart i = some f →
    (calm s f.sc → s.hart.cUnk = 0 → s.hart.vill = true ∨ f.legal = false →
      exec i s = .next (s.trap 0 (s.hart.iw.setWidth 64) s.hart.pc)) ∧
    (f.legal = true → f.ready s →
      (∀ t l b, s.vplan (max 1 (s.hart.sew / 8)) f.load f.accs [] false = (t, .ok l b) →
        asked l = f.accs.map (fun a => (a.idx, a.va, a.val)) ∧
        ∃ u, exec i s = .next u ∧ queued s t u (f.entry s.hart l b) ∧
          u.hart.v = (if f.load = true ∧ f.accs ≠ [] then s.hart.onRegs (groupRegs f.vd s.hart.lm8) VReg.asG else s.hart).v) ∧
      (∀ t b k e rest, s.vplan (max 1 (s.hart.sew / 8)) f.load f.accs [] false = (t, .fault [] b k e rest) → s.hart.vq = [] →
        e.code ≠ 0x26 → e.code ≠ 0x2B →
        ∃ j, exec i s = .next ((t.upd (fun h => { h with vstart := BitVec.ofNat 14 k, didx := j })).trap (BitVec.ofNat 64 (e.code % 256))
          e.tval s.hart.pc) ∧ j = f.at_ k))

/-- R344: VSLD moves each element of the group that has one `x[rs2]` above it, and loads the elements that do not. -/
def Sys2Proof.Claims.VectorSlideRefill : Prop :=
  ∀ (s t : State) (sc : Sc) (rd r1 r2 : Reg) (p : BitVec 3) (a c : W64) (l : List VElem) (b : Bool),
    8 ≤ s.hart.sew → groupOk rd s.hart.lm8 = true → s.hart.vstart = 0 → s.hart.vdep = 0 → vectorReady s sc [r1, r2] [] (groupRegs rd s.hart.lm8) →
    (∀ r : Nat, (s.hart.vreg r).psn = 0) → holds s r1 a → holds s r2 c →
    let k := min c.toNat s.hart.vl
    let w := s.hart.sew
    let accs := elementAccs s.hart true rd none ((List.range s.hart.vl).filter (fun i => decide (s.hart.vl - k ≤ i)))
      (fun i => a + BitVec.ofNat 64 (i * (w / 8)))
    s.vplan (w / 8) true accs [] false = (t, .ok l b) →
    asked l = accs.map (fun q => (q.idx, q.va, q.val)) ∧
    ∃ (u : State) (V : Vector VReg 32), exec (.vsld sc rd r1 r2 p) s = .next u ∧
      queued s t u { load := true, vd := rd.toNat, sew := w, bytes := w / 8, scope := p.toNat, elems := l, free := true, strict := b } ∧
      u.hart.v = V ∧ (∀ r : Nat, r ∉ groupRegs rd s.hart.lm8 → V[r]? = s.hart.v[r]?) ∧
      (∀ i, w * (i + 1) ≤ s.hart.vgrant * groupLen s.hart.lm8 → Hart.vel { s.hart with v := V } rd.toNat w i =
        if k ≠ 0 ∧ i < s.hart.vl - k then s.hart.vel rd.toNat w (i + k) else s.hart.vel rd.toNat w i)

/-- R345, R346: a barrier word holds its fields, and an update takes the arrivals and the bytes away, notes what it had too few of,
and flips the phase when nothing is left, which reloads the count, clears the bytes and stamps the time. -/
def Sys2Proof.Claims.BarrierArithmetic : Prop :=
  (∀ b : BarWord, b.exp < 2 ^ 16 → b.rem < 2 ^ 16 → b.bytes < 2 ^ 32 → b.phase < 16 → b.tflip < 2 ^ 32 →
    barOf b.word = b ∧ b.word < 2 ^ 128) ∧
  (∀ (b : BarWord) (c d : Nat) (f : Bool) (tick : W64),
    let r := b.update c d f tick
    let flips := b.rem ≤ c ∧ (b.bytes ≤ d ∨ b.rem < c)
    (r.flip = true ↔ flips) ∧ (r.ovr = true ↔ b.rem < c) ∧ (r.und = true ↔ b.bytes < d) ∧ r.phase = b.phase ∧ r.rem = b.rem - c ∧
    r.word.exp = b.exp ∧ r.word.eerr = (b.eerr || f) ∧ r.word.ovr = (b.ovr || decide (b.rem < c)) ∧
    r.word.und = (b.und || decide (b.bytes < d)) ∧
    (flips → r.word.phase = (b.phase + 1) % 16 ∧ r.word.rem = b.exp ∧ r.word.bytes = 0 ∧ r.word.tflip = tick.toNat % 2 ^ 32 ∧
      r.word.short = (b.short || decide (d < b.bytes))) ∧
    (¬ flips → r.word.phase = b.phase ∧ r.word.rem = b.rem - c ∧ r.word.bytes = b.bytes - d ∧ r.word.tflip = b.tflip ∧
      r.word.short = b.short))

/-- R348 to R350: BINIT writes a fresh cell; a misaligned cell, or a count of 0, is the fault of cause 0x32; BARR and BARB release,
update the cell and answer what they found, and BARR of 0 arrivals writes nothing. -/
def Sys2Proof.Claims.BarrierArrivals : Prop :=
  ∀ (s : State) (sc : Sc) (rd r1 r2 : Reg) (p : BitVec 3) (a n : W64), calm s sc → holds s r1 a → holds s r2 n →
    (a.toNat % 32 ≠ 0 →
      exec (.binit sc r1 r2 p) s = .next (s.trap 0x32 a s.hart.pc) ∧ exec (.barr sc rd r1 r2 p) s = .next (s.trap 0x32 a s.hart.pc) ∧
      exec (.barb sc rd r1 r2 p) s = .next (s.trap 0x32 a s.hart.pc)) ∧
    (a.toNat % 32 = 0 → n.toNat % 2 ^ 16 = 0 → exec (.binit sc r1 r2 p) s = .next (s.trap 0x32 a s.hart.pc)) ∧
    (∀ k, memoryClean s → a.toNat % 32 = 0 → n.toNat % 2 ^ 16 ≠ 0 →
      (∃ ia attr w, issue s.myCtx s.hart.level a 16 .both = .ok (ia, attr) ∧ s.plainWindow a ia 16 attr = .ok w ∧
        onChip s w 32 .amo = some k ∧ onChip s w 32 .store = some k ∧ s.symBlocks ia 32 attr = false) →
      ∃ t, exec (.binit sc r1 r2 p) s = .next t ∧ stepped s t 0 0 ∧ storedAt s t k 32 (freshCell n s.tick)) ∧
    (∀ (t u : State) (ia : Nat) (attr : BitVec 2) (w : Win) (old : Nat), s.cell s.myCtx s.hart.level a .both = .ok (ia, attr, w) →
      s.symBlocks ia 16 attr = false → s.releaseFor true p.toNat = .go t () →
      (n ≠ 0 → t.rmwAt t.me a ia 16 attr w p.toNat t.hart.gen (fun v => (((barOf v).update n.toNat 0 false t.tick).word.word, true)) = (u, .ok old) →
        exec (.barr sc rd r1 r2 p) s =
          .next (wrote u rd (arrivalStatus ((barOf old).update n.toNat 0 false t.tick)))) ∧
      (t.rmwAt t.me a ia 16 attr w p.toNat t.hart.gen (fun v => (((barOf v).update 1 n.toNat false t.tick).word.word, true)) = (u, .ok old) →
        exec (.barb sc rd r1 r2 p) s =
          .next (wrote u rd (arrivalStatus ((barOf old).update 1 n.toNat false t.tick)))) ∧
      (n = 0 → t.rmwAt t.me a ia 16 attr w p.toNat t.hart.gen (fun v => (((barOf v).update 0 0 false t.tick).word.word, false)) = (u, .ok old) →
        exec (.barr sc rd r1 r2 p) s =
          .next (wrote u rd (BitVec.ofNat 64 ((barOf old).phase + 128 + 2 ^ 16 * (barOf old).rem + 2 ^ 63)))))

/-- R351, R352: BWAIT returns once the phase differs from the one named, with an acquire, or when no time is left; else it begins to
wait. BTEST reads the cell and never waits. -/
def Sys2Proof.Claims.BarrierWaits : Prop :=
  ∀ (s t : State) (sc : Sc) (rd r1 r2 : Reg) (p : BitVec 3) (a n c : W64) (b : BarWord), calm s sc → holds s r1 a → holds s r2 n →
    s.readCell a p.toNat = .go t b →
    (t.inAhead = false → exec (.btest sc rd r1 r2 p) s =
      .next (wrote (if b.phase = n.toNat % 16 then t else t.acquire t.me p.toNat) rd (waitStatus b (n.toNat % 16) false))) ∧
    (holds s rd c →
      (b.phase ≠ c.toNat % 16 → exec (.bwait sc rd r1 r2 p) s =
        .next (wrote ((t.acquire t.me p.toNat).upd (fun h => { h with wait := none })) rd (waitStatus b (c.toNat % 16) false))) ∧
      (b.phase = c.toNat % 16 → n = 0 → exec (.bwait sc rd r1 r2 p) s =
        .next (wrote (t.upd (fun h => { h with wait := none })) rd (waitStatus b (c.toNat % 16) true))) ∧
      (b.phase = c.toNat % 16 → n ≠ 0 → ∃ u, exec (.bwait sc rd r1 r2 p) s = .next u ∧
        u.hart.wait = some (.bwait rd a (c.extractLsb' 0 4) p.toNat (waitDeadline t.tick n)) ∧ u.hart.pc = t.hart.pc ∧
        u.hart.x = t.hart.x ∧ u.mem = t.mem))

/-- R64, R353 to R356: CBINIT writes a legal header; CBPUSH and CBPOP release, move a counter by what there is room or stock for, and
answer the new counter or the limit they met; CBWAIT returns once its records are there, can never be, or the time is up, else it
waits. -/
def Sys2Proof.Claims.CircularBuffers : Prop :=
  ∀ (s : State) (sc : Sc) (rd r1 r2 : Reg) (p : BitVec 3) (a n q : W64), calm s sc → holds s r1 a → holds s r2 n →
    (n.toNat / 2 ^ 48 ≠ 0 ∨ Header.legal { prod := 0, cons := 0, rsize := n.toNat % 2 ^ 16, cap := n.toNat / 2 ^ 16 % 2 ^ 32 } = false →
      exec (.cbinit sc r1 r2 p) s = .next (s.trap 0x32 a s.hart.pc)) ∧
    (∀ (t : State) (c b : Nat), n.toNat / 2 ^ 48 = 0 →
      Header.legal { prod := 0, cons := 0, rsize := n.toNat % 2 ^ 16, cap := n.toNat / 2 ^ 16 % 2 ^ 32 } = true →
      s.buffer a .both kWrite = .go t (c, b) → t.inAhead = false → t.isLate = false → t.hart.hdep = 0 → t.psn = [] → t.uioLost = [] →
      ∃ u, exec (.cbinit sc r1 r2 p) s = .next u ∧ stepped t u 0 0 ∧
        u.header c b = { prod := 0, cons := 0, rsize := n.toNat % 2 ^ 16, cap := n.toNat / 2 ^ 16 } ∧
        ∀ j, j < bankKey c b ∨ bankKey c b + 14 ≤ j → u.byteAt j = t.byteAt j) ∧
    (∀ (t u v : State) (c b : Nat) (h : Header), s.buffer a .both (kRead ||| kWrite) = .go t (c, b) → t.releaseFor true p.toNat = .go u () →
      u.headerRead a c b = .go v h → v.psn = [] → v.uioLost = [] →
      (n = 0 → exec (.cbpush sc rd r1 r2 p) s = .next (wrote v rd (BitVec.ofNat 64 h.prod)) ∧
        exec (.cbpop sc rd r1 r2 p) s = .next (wrote v rd (BitVec.ofNat 64 h.cons))) ∧
      (h.free < n.toNat → exec (.cbpush sc rd r1 r2 p) s = .next (wrote v rd (BitVec.ofNat 64 (h.prod + 2 ^ 32)))) ∧
      (h.avail < n.toNat → exec (.cbpop sc rd r1 r2 p) s = .next (wrote v rd (BitVec.ofNat 64 (h.cons + 2 ^ 33)))) ∧
      (n.toNat ≤ h.free → n ≠ 0 → ∃ z, exec (.cbpush sc rd r1 r2 p) s = .next z ∧
        stepped v z rd (BitVec.ofNat 64 ((h.prod + n.toNat) % 2 ^ 32)) ∧ storedAt v z (bankKey c b) 4 ((h.prod + n.toNat) % 2 ^ 32)) ∧
      (n.toNat ≤ h.avail → n ≠ 0 → ∃ z, exec (.cbpop sc rd r1 r2 p) s = .next z ∧
        stepped v z rd (BitVec.ofNat 64 ((h.cons + n.toNat) % 2 ^ 32)) ∧ storedAt v z (bankKey c b + 4) 4 ((h.cons + n.toNat) % 2 ^ 32))) ∧
    (∀ (t u : State) (c b : Nat) (h : Header), holds s rd q → s.buffer a .read kRead = .go t (c, b) → t.headerRead a c b = .go u h →
      let k := q.toNat % 2 ^ 32
      let have_ := if q.getLsbD 32 then h.free else h.avail
      let status (e : Nat) : W64 := BitVec.ofNat 64 (have_ + 2 ^ 32 * b2n (q.getLsbD 32) + e)
      (h.cap < k → exec (.cbwait sc rd r1 r2 p) s = .next (wrote (u.upd (fun g => { g with wait := none })) rd (status (2 ^ 34)))) ∧
      (k ≤ h.cap → k ≤ have_ → exec (.cbwait sc rd r1 r2 p) s =
        .next (wrote ((u.acquire u.me p.toNat).upd (fun g => { g with wait := none })) rd (status 0))) ∧
      (k ≤ h.cap → have_ < k → n = 0 → exec (.cbwait sc rd r1 r2 p) s =
        .next (wrote (u.upd (fun g => { g with wait := none })) rd (status (2 ^ 33)))) ∧
      (k ≤ h.cap → have_ < k → n ≠ 0 → ∃ z, exec (.cbwait sc rd r1 r2 p) s = .next z ∧
        z.hart.wait = some (.cbwait rd a (BitVec.ofNat 64 k) (q.getLsbD 32) p.toNat (waitDeadline u.tick n)) ∧ z.hart.pc = u.hart.pc ∧
        z.hart.x = u.hart.x ∧ z.mem = u.mem))

/-- R57, R357: SRCFG of a bank answers the status of the request at once, or waits for the transition that it has started, during which
the bank is busy. -/
def Sys2Proof.Claims.BankModeRequests : Prop :=
  ∀ (s : State) (sc : Sc) (rd r1 r2 : Reg) (a v : W64) (ia c off : Nat) (attr : BitVec 2), calm s sc → holds s r1 a → holds s r2 v →
    issue s.myCtx s.hart.level a 1 .write = .ok (ia, attr) → s.window a ia 1 attr = .ok (.sram c off) →
    let b := off / 2 ^ 19
    let k := s.getBank c b
    (3 ≤ v.toNat → ∃ t, exec (.srcfg sc rd r1 r2) s = .next (wrote t rd 5) ∧ (t.getBank c b).mode = k.mode) ∧
    (v.toNat < 3 → k.owned = true → k.octx ≠ s.hart.ctxid → ∃ t, exec (.srcfg sc rd r1 r2) s = .next (wrote t rd 3) ∧
      (t.getBank c b).mode = k.mode) ∧
    (v.toNat < 3 → (k.owned = false ∨ k.octx = s.hart.ctxid) → k.busy = true → ∃ t, exec (.srcfg sc rd r1 r2) s = .next (wrote t rd 4) ∧
      (t.getBank c b).mode = k.mode) ∧
    (v.toNat < 3 → (k.owned = false ∨ k.octx = s.hart.ctxid) → k.busy = false → k.mode.toNat = v.toNat →
      ∃ t, exec (.srcfg sc rd r1 r2) s = .next (wrote t rd 0) ∧ (t.getBank c b).mode = k.mode) ∧
    (v.toNat < 3 → v.toNat ≠ 0 → k.owned = true → k.octx = s.hart.ctxid → k.busy = false → k.mode = 1 → v = 2 →
      s.bankNat c b 0 4 = s.bankNat c b 4 4 →
      ∃ t, exec (.srcfg sc rd r1 r2) s = .next t ∧ t.hart.wait = some (.srcfg rd c b) ∧ (t.getBank c b).busy = true ∧
        (t.getBank c b).target = 2 ∧ (t.getBank c b).mode = k.mode ∧ t.hart.pc = s.hart.pc ∧ t.hart.x = s.hart.x ∧ t.mem = s.mem)

/-! ## Commands to the engines -/

namespace Sys2Proof.Claims

/-- A matrix instruction as it leaves the hart (R361, R363, R364, R367, R369, R371 to R373): its operand registers, its operation and
tile, its order field, whether it is legal, the operand word that names its barrier, its extent, the check of its values given the
extent's IA and whether that lies in the register window, and the fields of its operation. -/
structure MatForm where
  sc : Sc
  xs : List Reg := []
  vs : List Nat := []
  sub : Nat
  acc : Nat := 0
  ord : BitVec 3 := 0
  legal : Bool
  word : W64 := 0
  ext : Option (W64 × Nat × Acc) := none
  ok : Nat → Bool → Bool := fun _ _ => true
  fmt : Nat := 0
  slot : Nat := 0
  units : Nat := 0
  mx : Bool := false
  pitch : Nat := 0
  ofmt : Nat := 0
  on : Bool := false
  tol : Nat := 0
  sa : List Byte := []

/-- Bits `hi` to `lo` of a register value. -/
def fieldOf (v : W64) (hi lo : Nat) : Nat := v.toNat / 2 ^ lo % 2 ^ (hi + 1 - lo)

/-- Round up to a whole number of units. -/
def unitsOf (n size : Nat) : Nat := (n + size - 1) / size

/-- The formats that may carry block scales: E4M3, E5M2, E3M2, E2M3, E2M1, INT2, INT4 and INT8. -/
def scalable (f : BitVec 5) : Bool := [3, 4, 5, 6, 7, 0x10, 0x11, 0x12].contains f.toNat

/-- The matrix instructions that go to the bay. -/
def matOf (s : State) : Instr → Option MatForm
  | .mldw sc r1 r2 o k =>
    let v := s.hart.kx r2
    let mx := decide (fieldOf v 54 54 = 1)
    let n := s.hart.tk * s.hart.tn * formatBits k.toNat / 8 + (if mx then s.hart.tn * s.hart.tk / 32 else 0)
    some { sc, xs := [r1, r2], sub := 1, ord := o, word := v, ext := some (s.hart.kx r1, n, .read), fmt := k.toNat,
           slot := fieldOf v 53 48, units := unitsOf n 65536, mx,
           legal := s.hart.bv && decide (s.hart.tm ≠ 0) && (!mx || scalable k) && decide (fieldOf v 53 48 + unitsOf n 65536 ≤ 64),
           ok := fun _ _ => decide (fieldOf v 63 55 = 0) && decide (fieldOf v 4 0 = 0) }
  | .mmaz sc n => some { sc, sub := 2, acc := n.toNat, legal := s.hart.bv && decide (n.toNat < s.hart.nacc.toNat) }
  | .msta sc r1 r2 o n =>
    let v := s.hart.kx r2
    let row := s.hart.tn * (if fieldOf v 1 0 = 0 then 4 else 2)
    let q := if fieldOf v 63 48 = 0 then row else 8 * fieldOf v 63 48
    some { sc, xs := [r1, r2], sub := 3, acc := n.toNat, ord := o, word := v, ext := some (s.hart.kx r1, (s.hart.tm - 1) * q + row, .write),
           pitch := q, ofmt := fieldOf v 1 0, on := decide (fieldOf v 2 2 = 1),
           legal := s.hart.bv && decide (n.toNat < s.hart.nacc.toNat) && decide (s.hart.tm ≠ 0),
           ok := fun ia dev => decide (fieldOf v 1 0 ≠ 3) && decide (row ≤ q) && decide (fieldOf v 4 3 = 0) &&
             (!dev || (decide (ia % 8 = 0) && decide (q % 8 = 0) && decide (row % 8 = 0))) }
  | .mchk sc r2 n =>
    let v := s.hart.kx r2
    some { sc, xs := [r2], sub := 4, acc := n.toNat, word := v, on := decide (fieldOf v 48 48 = 1),
           legal := s.hart.bv && decide (n.toNat < s.hart.nacc.toNat) && decide (s.hart.tm ≠ 0),
           ok := fun _ _ => decide (fieldOf v 63 49 = 0) && decide (fieldOf v 4 0 = 0) }
  | .mver sc r2 o n =>
    let v := s.hart.kx r2
    some { sc, xs := [r2], sub := 5, acc := n.toNat, ord := o, word := v, tol := fieldOf v 63 48,
           legal := s.hart.bv && decide (n.toNat < s.hart.nacc.toNat) && decide (s.hart.tm ≠ 0), ok := fun _ _ => decide (fieldOf v 4 0 = 0) }
  | .mma sc r1 r2 o k => some (product 8 sc r1 r2 o k)
  | .mmaMx sc r1 r2 o k => some (product 9 sc r1 r2 o k)
  | _ => none
where
  product (sub : Nat) (sc : Sc) (r1 r2 : Reg) (o : BitVec 3) (k : BitVec 5) : MatForm :=
    let v := s.hart.kx r2
    let row := s.hart.tk * formatBits k.toNat / 8
    let p := if fieldOf v 63 56 = 0 then row else 64 * fieldOf v 63 56
    let g := 8 * fieldOf v 55 54
    let n := s.hart.tm * s.hart.tk / 32
    { sc, xs := [r1, r2], vs := if sub = 9 then (List.range 8).map (g + ·) else [], sub, acc := fieldOf v 2 0, ord := o, word := v,
      ext := some (s.hart.kx r1, (s.hart.tm - 1) * p + row, .read), fmt := k.toNat, slot := fieldOf v 53 48, mx := decide (sub = 9), pitch := p,
      sa := if sub = 9 then (List.range n).map (fun i => BitVec.ofNat 8 (s.hart.vel g 8 i)) else [],
      legal := s.hart.bv && decide (fieldOf v 2 0 < s.hart.nacc.toNat) && decide (s.hart.tm ≠ 0) &&
        (decide (sub = 8) || (scalable k && decide (n ≤ s.hart.vgrant))),
      ok := fun ia _ => decide (row ≤ p) && (match winOf s.ownPart ia with | some (.sram _ _) => true | _ => false) &&
        (decide (sub = 9) || decide (fieldOf v 55 54 = 0)) && decide (fieldOf v 4 3 = 0) }

/-- The fields of an operation as they leave the hart: where it goes, the shape and controls at issue, and what its word says. -/
def MatForm.made (f : MatForm) (s : State) (ia : Nat) (b : Option Nat) (cnum : Nat) (o : MOp) : Prop :=
  o.place = s.hart.place ∧ o.hid = s.hart.hid ∧ o.stack = stackOf s.hart.place ∧ o.bay = s.hart.bay.toNat ∧ o.cnum = cnum ∧ o.sub = f.sub ∧ o.acc = f.acc ∧
  o.fmt = f.fmt ∧ o.slot = f.slot ∧ o.units = f.units ∧ o.mx = f.mx ∧ o.m = s.hart.tm ∧ o.n = s.hart.tn ∧ o.k = s.hart.tk ∧
  o.tctl = s.hart.tctl ∧ o.ia = ia ∧ o.pitch = f.pitch ∧ o.ofmt = f.ofmt ∧ o.on = f.on ∧ o.tol = f.tol ∧ o.sa = f.sa ∧
  o.ctx = s.hart.ctxKey ∧ o.vf = s.hart.vfid.toNat ∧ o.barrier = b ∧ o.rel = ordRel f.ord

/-- A command has left the hart: it holds a command number, and the PC moved on; no register and no memory changed. -/
def sent (u t : State) (cnum : Nat) : Prop :=
  t.hart.cmds = nins cnum u.hart.cmds ∧ t.hart.pc = u.hart.pc + 4 ∧ t.hart.instret = u.hart.instret + 1 ∧ t.hart.x = u.hart.x ∧
  t.hart.v = u.hart.v ∧ t.hart.m = u.hart.m ∧ t.mem = u.mem ∧ t.tiles = u.tiles ∧ t.slots = u.slots

/-- The smallest of a list that is at least `n`, else the last (R362). -/
def smallest (n : Nat) : List Nat → Nat
  | [] => 0
  | [a] => a
  | a :: l => if n ≤ a then a else smallest n l

/-- A copy instruction: its kind, fields and operand registers (R377 to R379). -/
def copyForm : Instr → Option (Nat × Sc × Reg × List Reg × Bool × BitVec 3)
  | .cpy sc rd r1 r2 q o => some (0, sc, rd, [r1, r1 + 1, r2, r2 + 1], decide (q = 1), o)
  | .cpy2 sc rd r1 r2 q o => some (1, sc, rd, [r1, r1 + 1, r2, r2 + 1, r2 + 2, r2 + 3], decide (q = 1), o)
  | .cpyg sc rd r1 r2 q o => some (2, sc, rd, [r1, r1 + 1, r2, r2 + 1], decide (q = 1), o)
  | _ => none

/-- A run of rows in a word of BKLOCK or BKUNLOCK (R394): the first row and the count, unless the word is bad. -/
def lockRows (v : W64) : Option (Nat × Nat) :=
  if fieldOf v 63 21 ≠ 0 ∨ fieldOf v 10 10 ≠ 0 ∨ 1024 < fieldOf v 9 0 + fieldOf v 20 11 + 1 then none
  else some (fieldOf v 9 0, fieldOf v 20 11 + 1)

end Sys2Proof.Claims

/-- R360, R361, R363, R364, R367, R369, R371 to R373: a matrix instruction that its hart may not make is illegal; else, with its extent
and barrier translated, it leaves for the bay with what it captured, or ends with BADOPND where a value is not one it may have. -/
def Sys2Proof.Claims.MatrixCommands : Prop :=
  ∀ (i : Instr) (s : State) (f : MatForm), matOf s i = some f → calm s f.sc → (∀ r ∈ f.xs, ∃ v, holds s r v) →
    (f.legal = false → exec i s = .next (s.trap 0 (s.hart.iw.setWidth 64) s.hart.pc)) ∧
    (∀ (u : State) (cnum ia : Nat) (dev : Bool) (b : Option Nat), f.legal = true →
      (f.vs = [] ∨ s.hart.vdep = 0) → (∀ r ∈ f.vs, s.hart.loading r = false ∧ plain (s.hart.vreg r)) →
      (match f.ext with
       | some (va, n, acc) => s.extent s.myCtx s.hart.level va n acc = .ok (ia, dev)
       | none => ia = 0 ∧ dev = false) →
      (if f.sub = 2 then b = none else s.barrierOf s.myCtx s.hart.level (f.word &&& 0xffffffffffe0) = .ok b) →
      s.acquireCmd f.ord = .go u () → u.hart.cmdNumber = some cnum → (∀ o ∈ u.mops, o.id < u.nextId) →
      ∃ t o, exec i s = .next t ∧ sent u t cnum ∧ f.made s ia b cnum o ∧
        (f.ok ia dev = true → o.st = .waiting ∧ t.mops = u.mops ++ [o]) ∧
        (f.ok ia dev = false → o.st = .ended ∧ o ∈ t.mops ∧ t.mops.map (·.id) = u.mops.map (·.id) ++ [o.id] ∧ o.word = BitVec.ofNat 64 (7 + 16 * f.sub)))

/-- R362, R365, R368: TSHAPE grants the smallest shape and clears the tiles whose shape changes; MSTAT writes the last status of a tile,
and is illegal for a tile not granted; MREL frees a slot that this hart loaded once nothing of the hart uses it. -/
def Sys2Proof.Claims.MatrixState : Prop :=
  ∀ (s : State) (sc : Sc) (rd r1 : Reg) (n : BitVec 5) (a : W64), calm s sc →
    (holds s r1 a → s.mops = [] →
      let m := smallest (fieldOf a 15 0) [16, 32, 64, 128]
      let c := smallest (fieldOf a 31 16) [64, 128, 256]
      let k := min 32768 (max 32 (32 * unitsOf (fieldOf a 47 32) 32))
      let g := m + 2 ^ 16 * c + 2 ^ 32 * k
      ∃ t, exec (.tshape sc rd r1) s = .next t ∧
        stepped s t rd (BitVec.ofNat 64 (g + (if g = a.toNat % 2 ^ 48 then 0 else 2 ^ 63))) ∧ t.hart.tm = m ∧ t.hart.tn = c ∧ t.hart.tk = k ∧
        t.mem = s.mem ∧ t.slots = s.slots ∧
        (m = s.hart.tm → c = s.hart.tn → t.tiles = s.tiles) ∧
        (m ≠ s.hart.tm ∨ c ≠ s.hart.tn → ∀ j < s.hart.nacc.toNat,
          (t.getTile (tileKey s.hart.place j)).elems = [] ∧ (t.getTile (tileKey s.hart.place j)).psn = [] ∧
          (t.getTile (tileKey s.hart.place j)).chk = false)) ∧
    (n.toNat < s.hart.nacc.toNat → exec (.mstat sc rd n) s = .next (wrote s rd (s.getTile (tileKey s.hart.place n.toNat)).last)) ∧
    (s.hart.nacc.toNat ≤ n.toNat → exec (.mstat sc rd n) s = .next (s.trap 0 (s.hart.iw.setWidth 64) s.hart.pc)) ∧
    (holds s r1 a → s.hart.bv = false → exec (.mrel sc r1) s = .next (s.trap 0 (s.hart.iw.setWidth 64) s.hart.pc)) ∧
    (holds s r1 a → s.hart.bv = true →
      let key := slotKey (stackOf s.hart.place) s.hart.bay.toNat (a.toNat % 64)
      (∀ o ∈ s.mops, o.place = s.hart.place → o.slot = a.toNat % 64 → (o.sub = 1 ∨ o.sub = 8 ∨ o.sub = 9) → o.st = .ended) →
      exec (.mrel sc r1) s = .next ((if (s.getSlot key).wby = s.hart.hid then s.setSlot key { s.getSlot key with valid := false } else s).retire))

/-- R186, R196, R360, R377 to R379: a copy whose operands are known and whose checks pass leaves with its segments and its barrier, takes
a command number and, unless `rd` is `x0`, the open slot, whose symbol `x[rd]` then holds; one with a bad value leaves as a failed
command of code BADOPND; one with a fault takes it. CPY has one segment. -/
def Sys2Proof.Claims.CopyCommands : Prop :=
  (∀ (i : Instr) (kind : Nat) (s t u : State) (sc : Sc) (rd : Reg) (rs : List Reg) (q : Bool) (o : BitVec 3) (ops : List W64) (cnum : Nat),
    copyForm i = some (kind, sc, rd, rs, q, o) → calm s sc → ops.length = rs.length →
    (∀ e ∈ rs.zip ops, s.hart.rx e.1 = .known e.2 ∧ (e.1 = 0 ∨ s.hart.xBad.getLsbD e.1.toNat = false)) → s.hart.depOf rs = 0 →
    s.listHold kind ops = false →
    (∀ f, s.planCopy s.me s.myCtx kind ops = (t, .trap f) → batched f.code = false → t.inAhead = false → t.isLate = false →
      exec i s = .next (t.trap (BitVec.ofNat 64 (f.code % 256)) f.tval t.hart.pc)) ∧
    (∀ p segs b code, s.planCopy s.me s.myCtx kind ops = (t, p) → (p = .go segs b ∧ code = 0 ∨ p = .bad b ∧ segs = [] ∧ code = 4) →
      t.acquireCmd o = .go u () → u.hart.cmdNumber = some cnum → (rd = 0 ∨ u.hart.openSlot.isSome = true) →
      ∃ z c, exec i s = .next z ∧ z.copies = u.copies ++ [c] ∧ c.place = some u.hart.place ∧ c.cnum = cnum ∧ c.segs = segs ∧ c.barrier = b ∧
        c.kind = kind ∧ c.ordered = q ∧ c.rel = ordRel o ∧ c.code = BitVec.ofNat 4 code ∧ c.st = (if code = 0 then .sent else .finishing) ∧
        c.ctx = u.hart.ctxKey ∧ c.vf = u.hart.vfid.toNat ∧ c.tag = u.hart.gen ∧ c.older = u.myCopies ∧
        z.hart.cmds = nins cnum u.hart.cmds ∧ z.hart.pc = u.hart.pc + 4 ∧ z.mem = u.mem ∧ sameRegsBut u z rd ∧
        (∀ k, rd ≠ 0 → u.hart.openSlot = some k →
          z.hart.rx rd = .form k 1 0 ∧ z.hart.slot k = .copyStatus cnum ∧ c.slot = some k))) ∧
  (∀ (s : State) (dst src len bar : W64) (d r : Nat) (b : Option Nat), 0 < len.toNat → len.toNat < 2 ^ 32 →
    s.extent s.myCtx s.hart.level dst len.toNat .write = .ok (d, false) → s.extent s.myCtx s.hart.level src len.toNat .read = .ok (r, false) →
    s.barrierOf s.myCtx s.hart.level bar = .ok b → (d + len.toNat ≤ r ∨ r + len.toNat ≤ d) →
    s.planCopy s.me s.myCtx 0 [dst, src, len, bar] = (s, .go [(d, r, len.toNat)] b))

/-- R383: CPYX answers 2 for a register that holds no copy's symbol, 1 for a copy past stopping, and 0 for one that it stops, whose code
is then ABORTED. -/
def Sys2Proof.Claims.CopyAborts : Prop :=
  ∀ (s : State) (sc : Sc) (rd r1 : Reg), calm s sc → (r1 = 0 ∨ s.hart.xBad.getLsbD r1.toNat = false) →
    ((∀ k a b, s.hart.rx r1 ≠ .form k a b) → exec (.cpyx sc rd r1) s = .next (wrote s rd 2)) ∧
    (∀ k a b, s.hart.rx r1 = .form k a b → (∀ n, s.hart.slot k ≠ .copyStatus n) → exec (.cpyx sc rd r1) s = .next (wrote s rd 2)) ∧
    (∀ k a b n, s.hart.rx r1 = .form k a b → s.hart.slot k = .copyStatus n → s.hart.held = [] →
      ((∀ c ∈ s.copies, c.place = some s.hart.place → c.cnum = n → c.saved = none → c.st = .finishing ∨ c.st = .ended) →
        exec (.cpyx sc rd r1) s = .next (wrote s rd 1)) ∧
      (∀ c, s.copies = [c] → c.place = some s.hart.place → c.cnum = n → c.saved = none → c.st = .sent ∨ c.st = .waiting ∨ c.st = .moving →
        ∃ t, exec (.cpyx sc rd r1) s = .next t ∧ stepped s t rd 0 ∧ t.copies = [{ c with code := 1, cause := 0 }] ∧ t.mem = s.mem))

/-- R360, R384, R388 to R390, R423: a BKOP whose checks pass sends one invocation for each page and answers 0, or waits while its window to
one of their dies is full (log 102); one whose page is not aligned
answers 4 with a failed command; one with a fault takes it. -/
def Sys2Proof.Claims.BankOperations : Prop :=
  ∀ (s t u : State) (sc : Sc) (rd r1 r2 : Reg) (o : BitVec 3) (a m v : W64) (cnum : Nat), calm s sc →
    (∀ e ∈ [(r1, a), (r1 + 1, m), (r2, v)], s.hart.rx e.1 = .known e.2 ∧ (e.1 = 0 ∨ s.hart.xBad.getLsbD e.1.toNat = false)) →
    s.hart.depOf [r1, r1 + 1, r2] = 0 →
    (∀ f, s.planBkop s.me s.myCtx a m v = (t, .trap f) → batched f.code = false → t.inAhead = false → t.isLate = false →
      exec (.bkop sc rd r1 r2 o) s = .next (t.trap (BitVec.ofNat 64 (f.code % 256)) f.tval t.hart.pc)) ∧
    (∀ pages b, s.planBkop s.me s.myCtx a m v = (t, .go pages b) → t.windowFull t.hart.place (pages.map (fun q => keyDie q.2)) = true →
      exec (.bkop sc rd r1 r2 o) s = .next t) ∧
    (∀ pages b, s.planBkop s.me s.myCtx a m v = (t, .go pages b) → t.windowFull t.hart.place (pages.map (fun q => keyDie q.2)) = false →
      t.acquireCmd o = .go u () → u.hart.cmdNumber = some cnum →
      ∃ z c, exec (.bkop sc rd r1 r2 o) s = .next z ∧ stepped u z rd 0 ∧ z.mem = u.mem ∧ z.hart.cmds = nins cnum u.hart.cmds ∧
        z.bcmds = u.bcmds ++ [c] ∧ c.copy = false ∧ c.place = some u.hart.place ∧ c.cnum = cnum ∧ c.barrier = b ∧ c.msg = m ∧
        c.pages = pages.map (·.1) ∧ c.total = pages.length ∧ c.code = 0 ∧
        ∃ l : List Inv, z.invs = u.invs ++ l ∧ l.map (·.id) = c.invs ∧ l.map (·.ia) = pages.map (·.1) ∧
          (∀ v ∈ l, v.cmd = c.id ∧ v.st = .sent ∧ v.pc = 0 ∧ v.h = m.toNat % 16 ∧ v.arg = BitVec.ofNat 12 (m.toNat / 2 ^ 52) ∧
            ∀ j : Fin 4, v.p[j] = BitVec.ofNat 10 (m.toNat / 2 ^ (4 + 10 * j.val)))) ∧
    (∀ b, s.planBkop s.me s.myCtx a m v = (t, .bad b) → t.acquireCmd o = .go u () → u.hart.cmdNumber = some cnum →
      ∃ z c, exec (.bkop sc rd r1 r2 o) s = .next z ∧ stepped u z rd 4 ∧ z.mem = u.mem ∧ z.bcmds = u.bcmds ++ [c] ∧ c.code = 4 ∧
        c.barrier = b ∧ c.cnum = cnum ∧ z.invs = u.invs)

/-- R98, R99, R169, R393, R394: BKFENCE completes once the hart's bank commands have made their accesses, with an acquire; BKLOCK answers
3 for a bad run, 1 when the bank has eight locks, 2 when another context's lock meets it, and else 0 with the rows held; BKUNLOCK answers
5 for rows this context has not locked, and 0 where it ends the lock. -/
def Sys2Proof.Claims.RowLocks : Prop :=
  ∀ (s t : State) (sc : Sc) (rd r1 r2 : Reg) (o : BitVec 3) (a v : W64), calm s sc → holds s r1 a → holds s r2 v →
    (s.hart.held = [] → (∀ b ∈ s.bcmds, b.place ≠ some s.hart.place) → exec (.bkfence sc o) s = .next (s.acquire s.me (ordScope o)).retire) ∧
    (∀ key, s.lockPage a = .go t key → t.inAhead = false → t.isLate = false → t.hart.rx r2 = s.hart.rx r2 → key = none ∨ lockRows v = none →
      exec (.bklock sc rd r1 r2) s = .next (wrote t rd 3) ∧ exec (.bkunlock sc rd r1 r2) s = .next (wrote t rd 3)) ∧
    (∀ key x n, s.lockPage a = .go t (some key) → t.inAhead = false → t.isLate = false → t.hart.rx r2 = s.hart.rx r2 → lockRows v = some (x, n) →
      (∀ l ∈ t.locks, l.waiter ≠ some t.hart.place) →
      let here := t.locks.filter (fun l => !l.expired && decide (l.die = key / 2 ^ 32 % 256) && decide (l.bank = key / 2 ^ 26 % 64))
      let clash := here.filter (fun l => decide (l.sub = key / 2 ^ 20 % 64) && decide (l.ctx ≠ t.hart.ctxKey) && decide (l.row < x + n) &&
        decide (x < l.row + l.count))
      (8 ≤ here.length → exec (.bklock sc rd r1 r2) s = .next (wrote t rd 1)) ∧
      (here.length < 8 → clash ≠ [] → exec (.bklock sc rd r1 r2) s = .next (wrote t rd 2)) ∧
      (here.length < 8 → clash = [] → t.invs = [] → t.waits = [] → t.parts = [] → (∀ l ∈ t.locks, l.id < t.nextId) →
        ∃ u l, exec (.bklock sc rd r1 r2) s = .next u ∧ stepped t u rd 0 ∧ u.mem = t.mem ∧ u.locks = t.locks ++ [l] ∧ l.isHeld = true ∧
          l.die = key / 2 ^ 32 % 256 ∧ l.bank = key / 2 ^ 26 % 64 ∧ l.sub = key / 2 ^ 20 % 64 ∧ l.row = x ∧ l.count = n ∧
          l.ctx = t.hart.ctxKey ∧ l.since = t.tick) ∧
      (∀ ia attr, issue t.myCtx t.hart.level a 1048576 { Acc.write with eng := true } = .ok (ia, attr) →
        t.symBlocks (ia + 1024 * x) (1024 * n) = false → t.hart.rx r1 = s.hart.rx r1 →
        (t.locks = [] → exec (.bkunlock sc rd r1 r2) s = .next (wrote t rd 5)) ∧
        (∀ l, t.locks = [l] → l.isHeld = true → l.waiter = none → l.ctx = t.hart.ctxKey → l.die = key / 2 ^ 32 % 256 →
          l.bank = key / 2 ^ 26 % 64 → l.sub = key / 2 ^ 20 % 64 → l.row = x → l.count = n →
          ∃ u, exec (.bkunlock sc rd r1 r2) s = .next u ∧ stepped t u rd 0 ∧ u.locks = [] ∧ u.mem = t.mem)))

/-- R395: a BKCOPY whose two pages are probed leaves as one command with the rows it names, and answers 0; rows past the page, or runs
of one page that meet, answer 4. -/
def Sys2Proof.Claims.BankCopies : Prop :=
  ∀ (s t z u : State) (sc : Sc) (rd r1 r2 : Reg) (o : BitVec 3) (dv rv w bv : W64) (d r dk rk cnum : Nat) (dd rd' : Bool) (b : Option Nat),
    calm s sc → holds s r1 dv → holds s (r1 + 1) rv → holds s r2 w → holds s (r2 + 1) bv →
    s.extent s.myCtx s.hart.level dv 1048576 .write = .ok (d, dd) → s.extent s.myCtx s.hart.level rv 1048576 .read = .ok (r, rd') →
    s.barrierOf s.myCtx s.hart.level bv = .ok b → dv.toNat % 1048576 = 0 → rv.toNat % 1048576 = 0 →
    let x := fieldOf w 9 0
    let y := fieldOf w 19 10
    let n := fieldOf w 29 20 + 1
    let good := fieldOf w 63 30 = 0 ∧ x + n ≤ 1024 ∧ y + n ≤ 1024 ∧ (d = r → y + n ≤ x ∨ x + n ≤ y)
    (good → s.probe s.me dv d .write = (t, .ok dk) → t.probe t.me rv r .read = (z, .ok rk) → z.inAhead = false →
      z.acquireCmd o = .go u () → u.hart.cmdNumber = some cnum →
      ∃ q c, exec (.bkcopy sc rd r1 r2 o) s = .next q ∧ stepped u q rd 0 ∧ q.mem = u.mem ∧ q.bcmds = u.bcmds ++ [c] ∧ c.copy = true ∧
        c.dst = d ∧ c.src = r ∧ c.row = x ∧ c.drow = y ∧ c.count = n ∧ c.barrier = b ∧ c.code = 0 ∧ c.cnum = cnum) ∧
    (¬ good → s.acquireCmd o = .go u () → u.hart.cmdNumber = some cnum →
      ∃ q c, exec (.bkcopy sc rd r1 r2 o) s = .next q ∧ stepped u q rd 4 ∧ q.mem = u.mem ∧ q.bcmds = u.bcmds ++ [c] ∧ c.code = 4 ∧ c.barrier = b)

/-- R396 to R398: at app, WICKLOAD and BKCFG are illegal. WICKLOAD answers 2 for a bad target and 1 with the first bad microword of an
image, and else waits until the dies that are not fenced hold the image. BKCFG answers the old value of a die's register and writes it
where bit 11 asks, and answers all ones for a selector that names none. -/
def Sys2Proof.Claims.BankSetup : Prop :=
  (∀ (s : State) (sc : Sc) (rd r1 r2 : Reg), calm s sc → s.hart.level = .app →
    exec (.wickload sc rd r1 r2) s = .next (s.trap 0 (s.hart.iw.setWidth 64) s.hart.pc) ∧
    exec (.bkcfg sc rd r1 r2) s = .next (s.trap 0 (s.hart.iw.setWidth 64) s.hart.pc)) ∧
  (∀ (s : State) (sc : Sc) (rd r1 r2 : Reg) (a v : W64), calm s sc → s.hart.level ≠ .app → holds s r1 a → holds s r2 v →
    let dies := (List.range 256).filter (fun d => v.getLsbD (32 + d / 16) && v.getLsbD (16 + d % 16))
    (a.toNat % 2 = 1 ∨ fieldOf v 63 48 ≠ 0 ∨ fieldOf v 15 12 ≠ 0 ∨ dies = [] → exec (.wickload sc rd r1 r2) s = .next (wrote s rd 2)) ∧
    (∀ t l, a.toNat % 2 = 0 → fieldOf v 63 48 = 0 → fieldOf v 15 12 = 0 → dies ≠ [] → s.imageWords (fieldOf v 11 4 + 1) a = .go t l →
      (∀ i, imageBad l = some i → exec (.wickload sc rd r1 r2) s = .next (wrote t rd (BitVec.ofNat 64 (1 + 256 * i)))) ∧
      (imageBad l = none → (∀ d ∈ dies, t.dieFenced d = true) → exec (.wickload sc rd r1 r2) s = .next (wrote t rd 3)) ∧
      (imageBad l = none → (∀ d ∈ dies, t.dieFenced d = false) → ∃ u, exec (.wickload sc rd r1 r2) s = .next u ∧
        u.hart.wait = some (.wickload rd 0 (fieldOf v 3 0) dies) ∧ u.hart.pc = t.hart.pc ∧ u.hart.x = t.hart.x ∧ u.mem = t.mem ∧
        ∀ d ∈ dies, (fieldOf v 3 0, t.hart.place, l) ∈ (u.getDie d).loading)) ∧
    (fieldOf a 63 12 ≠ 0 ∨ 5 ≤ fieldOf a 10 8 ∨ s.dieFenced (16 * fieldOf a 7 4 + fieldOf a 3 0) = true →
      exec (.bkcfg sc rd r1 r2) s = .next (wrote s rd (BitVec.allOnes 64))) ∧
    (fieldOf a 63 12 = 0 → fieldOf a 10 8 < 5 → s.dieFenced (16 * fieldOf a 7 4 + fieldOf a 3 0) = false →
      let d := 16 * fieldOf a 7 4 + fieldOf a 3 0
      let old := BitVec.ofNat 64 (s.devValue (fieldOf a 7 4) (.bank d (fieldOf a 10 8)))
      exec (.bkcfg sc rd r1 r2) s = .next (wrote (if fieldOf a 11 11 = 1 then s.bankRegPut d (fieldOf a 10 8) v else s) rd old)))

/-! ## Wick micro-ops -/

namespace Sys2Proof.Claims

/-- The step posts something that may happen next. -/
def posted (t : State) (i : Instr) : Prop := Act.event i ∈ t.agenda

/-- The invocation whose micro-op runs: running, on a die that is not fenced, in a bank with no access slot open or due (R97), with `cost` cycles
of its budget left (R93, R111). -/
def microRuns (s : State) (v : Inv) (cost : Nat) : Prop :=
  s.invAt s.cur = some v ∧ v.st = .running ∧ s.dieFenced v.die = false ∧ s.holdsOps (64 * v.die + v.bank) = false ∧ v.cycles + cost ≤ 2560

/-- The number of the row that a data specifier names (R399). -/
def dataRow (v : Inv) (p : BitVec 6) : Nat := (v.b[p.toNat / 8 % 4]).toNat + p.toNat % 8

/-- A specifier names a row of the subarray (R399). -/
def specInRange (v : Inv) (p : BitVec 6) : Prop := p.getLsbD 5 = true ∨ dataRow v p ≤ 1023

/-- Where a data row of an invocation's page begins (R83). -/
def rowPlace (v : Inv) (p : BitVec 6) : Nat := 2 ^ 32 * v.die + 2 ^ 26 * v.bank + 2 ^ 20 * v.sub + 1024 * dataRow v p

/-- The columns of 1,024 bytes of memory: column 8j + k is bit k of byte j (R83). -/
def rowInMemory (s : State) (key : Nat) (x : Row) : Prop :=
  ∀ c : Fin 8192, x.getLsbD c.val = (s.byteAt (key + c.val / 8)).getLsbD (c.val % 8)

/-- The row that a specifier names holds `x` (R88, R399). -/
def rowHolds (s : State) (v : Inv) (p : BitVec 6) (x : Row) : Prop :=
  if p.getLsbD 5 = true then
    ∀ c : Fin 8192, x.getLsbD c.val =
      (if h : p.toNat % 8 < 6 then (v.t[p.toNat % 8]).getLsbD c.val else decide (p.toNat % 8 = 7))
  else rowInMemory s (rowPlace v p) x

/-- No word is poisoned or has an error, and no far-tier line is lost. -/
def rowsClean (s : State) : Prop := s.psn = [] ∧ s.ecc = [] ∧ s.uioLost = []

/-- A micro-op of `cost` cycles has completed: the invocation is `w` but for its cycles, its next microword is posted, and the bank has
counted the cycles (R93, R110). -/
def microGone (s t : State) (v w : Inv) (cost : Nat) : Prop :=
  t.invAt v.id = some { w with cycles := v.cycles + cost } ∧ (∀ k, k ≠ v.id → t.invAt k = s.invAt k) ∧
  Act.micro v.id ∈ t.agenda ∧ t.hart = s.hart ∧ sget 0 (t.getDie v.die).counts v.bank = sget 0 (s.getDie v.die).counts v.bank + cost

/-- A row operation has written `x` to the row of a specifier: a compute row of the invocation, or a data row of its page (R401). -/
def rowWritten (s t : State) (v : Inv) (d : BitVec 6) (x : Row) (cost : Nat) (stale : Bool) : Prop :=
  if d.getLsbD 5 = true then
    microGone s t v { v with pc := v.pc + 1, t := v.t.setIfInBounds (d.toNat % 8) x } cost ∧ t.mem = s.mem ∧ t.stale = s.stale
  else
    microGone s t v { v with pc := v.pc + 1 } cost ∧ nmem (rowPlace v d / 1024) t.stale = stale ∧
    ((s.pageLeaf v).2 = false → rowInMemory t (rowPlace v d) x ∧
      ∀ k, k < rowPlace v d ∨ rowPlace v d + 1024 ≤ k → t.byteAt k = s.byteAt k)

/-- What PAR puts into a base register (R401): a parameter, or the register plus a signed number, or a number. -/
def parValue (v : Inv) (r m : BitVec 2) (k : BitVec 8) : BitVec 11 :=
  if m = 0 then BitVec.ofNat 11 (v.p[k.toNat % 4]).toNat
  else if m = 1 then BitVec.ofInt 11 ((v.b[r.toNat]).toNat + k.toInt)
  else if m = 2 then BitVec.ofNat 11 k.toNat else v.b[r.toNat]

/-- The microwords of an image from `i` on hold no LOOP and no END before `j`, and END at `j` (R402). -/
def plainLoop (code : List Micro) (i j : Nat) : Prop :=
  i ≤ j ∧ (∃ w, code[j]? = some w ∧ w.extractLsb' 12 4 = 11) ∧
  ∀ k, i ≤ k → k < j → ∀ w, code[k]? = some w → w.extractLsb' 12 4 ≠ 10 ∧ w.extractLsb' 12 4 ≠ 11

end Sys2Proof.Claims

/-- R89, R103, R399, R401: AAP copies a row and keeps its check bits; NOT writes the complement and leaves the source in a DC row; SHL
and SHR move the columns by one; ZR and ON fill a row; ECR recomputes the check bits of a row without changing its bytes. -/
def Sys2Proof.Claims.MicroRows : Prop :=
  ∀ (s : State) (v : Inv) (d p : BitVec 6) (x : Row), rowsClean s → specInRange v d →
    (specInRange v p → rowHolds s v p x →
      (microRuns s v 10 → ∃ t, exec (.uAap d p) s = .next t ∧
        rowWritten s t v d x 10 (p.getLsbD 5 || nmem (rowPlace v p / 1024) s.stale)) ∧
      (microRuns s v 12 → (∃ t, exec (.uShl d p) s = .next t ∧ rowWritten s t v d (BitVec.ofNat 8192 (2 * x.toNat)) 12 true) ∧
        ∃ t, exec (.uShr d p) s = .next t ∧ rowWritten s t v d (BitVec.ofNat 8192 (x.toNat / 2)) 12 true) ∧
      (microRuns s v 20 → d ≠ notDc d p → ∃ t, exec (.uNot d p) s = .next t ∧
        rowWritten s t { v with t := v.t.setIfInBounds ((notDc d p).toNat % 8) x } d (~~~x) 20 true)) ∧
    (microRuns s v 10 → (∃ t, exec (.uZr d) s = .next t ∧ rowWritten s t v d 0 10 true) ∧
      ∃ t, exec (.uOn d) s = .next t ∧ rowWritten s t v d (BitVec.allOnes 8192) 10 true) ∧
    (microRuns s v 12 → d.getLsbD 5 = false → ∃ t, exec (.uEcr d) s = .next t ∧ microGone s t v { v with pc := v.pc + 1 } 12 ∧
      nmem (rowPlace v d / 1024) t.stale = false ∧ t.mem = s.mem)

/-- R401, R402: AP3 leaves the column majority of three T rows in each; NOP, WAIT, SIG, PAR, LOOP and END change what they name of
their invocation and nothing else; HALT ends it with its status. -/
def Sys2Proof.Claims.MicroControl : Prop :=
  ∀ (s : State) (v : Inv),
    (∀ z y x : BitVec 2, microRuns s v 10 → ∃ t m, exec (.uAp3 z y x) s = .next t ∧ t.mem = s.mem ∧
      microGone s t v { v with pc := v.pc + 1, t := ((v.t.setIfInBounds x.toNat m).setIfInBounds y.toNat m).setIfInBounds z.toNat m } 10 ∧
      ∀ c : Fin 8192, m.getLsbD c.val = decide (2 ≤ b2n ((v.t[x.toNat]).getLsbD c.val) + b2n ((v.t[y.toNat]).getLsbD c.val) +
        b2n ((v.t[z.toNat]).getLsbD c.val))) ∧
    (∀ k : BitVec 12, microRuns s v k.toNat → ∃ t, exec (.uWait k) s = .next t ∧ t.mem = s.mem ∧
      microGone s t v { v with pc := v.pc + 1 } k.toNat) ∧
    (microRuns s v 1 →
      (∃ t, exec .uNop s = .next t ∧ t.mem = s.mem ∧ microGone s t v { v with pc := v.pc + 1 } 1) ∧
      (∀ k : BitVec 12, ∃ t, exec (.uSig k) s = .next t ∧ t.mem = s.mem ∧ microGone s t v { v with pc := v.pc + 1, status := k } 1) ∧
      (∀ (r m : BitVec 2) (k : BitVec 8), ∃ t, exec (.uPar r m k) s = .next t ∧ t.mem = s.mem ∧
        microGone s t v { v with pc := v.pc + 1, b := v.b.setIfInBounds r.toNat (parValue v r m k) } 1) ∧
      (∀ (e : BitVec 2) (n : BitVec 10) (k j : Nat),
        k = (if e = 0 then n.toNat else if e = 1 then (v.p[n.toNat % 4]).toNat else if e = 2 then v.arg.toNat % 64 else v.arg.toNat / 64) →
        (k ≠ 0 → ∃ t, exec (.uLoop e n) s = .next t ∧ t.mem = s.mem ∧
          microGone s t v { v with pc := v.pc + 1, loops := (v.pc + 1, k) :: v.loops } 1) ∧
        (k = 0 → plainLoop v.code (v.pc + 1) j → ∃ t, exec (.uLoop e n) s = .next t ∧ t.mem = s.mem ∧
          microGone s t v { v with pc := j + 1 } 1)) ∧
      (∀ k : BitVec 4, ∃ (t : State) (w : Inv), exec (.uEnd k) s = .next t ∧ t.mem = s.mem ∧ microGone s t v w 1 ∧
        (∀ i : Fin 4, w.b[i] = v.b[i] + (if k.getLsbD i.val then 1 else 0)) ∧ w.status = v.status ∧ w.t = v.t ∧ w.st = .running ∧
        (∀ a n l, v.loops = (a, n) :: l →
          (1 < n → w.pc = a ∧ w.loops = (a, n - 1) :: l) ∧ (n ≤ 1 → w.pc = v.pc + 1 ∧ w.loops = l))) ∧
      (∀ k : BitVec 12, ∃ t w, exec (.uHalt k) s = .next t ∧ t.mem = s.mem ∧ t.invAt v.id = some w ∧ w.st = .ended ∧ w.status = k ∧
        w.ecode = 0 ∧ w.cycles = v.cycles + 1 ∧ posted t (.invocationStart v.die) ∧
        ((∀ q ∈ s.invs, q.cmd = v.cmd → q.id ≠ v.id → q.st = .ended) → posted t (.bkopComplete v.cmd))))

/-- R93, R105, R386, R399, R403, R404: CPYB sends a row of its own VF's page to the same row of another bank of the group; a
destination bank that is its own, or that it does not own, ends the invocation with 9 or 6; a micro-op past the budget ends it with 2,
and a row past the page with 5. -/
def Sys2Proof.Claims.MicroEnds : Prop :=
  ∀ (s : State) (v : Inv) (d p : BitVec 6) (n : BitVec 2) (x : Row),
    (microRuns s v 48 → p.getLsbD 5 = false → dataRow v p ≤ 1023 → rowsClean s →
      let there := v.bank / 4 * 4 + n.toNat
      let sub := 4096 * v.die + 64 * there + v.sub
      (there = v.bank → ∃ t w, exec (.uCpyb n p) s = .next t ∧ t.invAt v.id = some w ∧ w.st = .ended ∧ w.ecode = 9) ∧
      (there ≠ v.bank → (∀ pg, s.ownerOf sub ≠ some (v.vf, pg)) → ∃ t w, exec (.uCpyb n p) s = .next t ∧ t.invAt v.id = some w ∧
        w.st = .ended ∧ w.ecode = 6) ∧
      (there ≠ v.bank → (∃ pg, s.ownerOf sub = some (v.vf, pg)) → s.locks = [] → rowInMemory s (rowPlace v p) x →
        ∃ t, exec (.uCpyb n p) s = .next t ∧ t.mem = s.mem ∧ posted t (.cpybDestWrite v.id) ∧
          t.invAt v.id = some { v with
            st := .cpyWait
            cpy := some (2 ^ 20 * sub + 1024 * dataRow v p, x.toNat, b2n (nmem (rowPlace v p / 1024) s.stale))
            waits := s.computing (64 * v.die + there) || s.cpyRecent v.die there })) ∧
    (s.invAt s.cur = some v → v.st = .running → s.dieFenced v.die = false → s.holdsOps (64 * v.die + v.bank) = false →
      (2560 < v.cycles + 1 → ∃ t w, exec .uNop s = .next t ∧ t.invAt v.id = some w ∧ w.st = .ended ∧ w.ecode = 2 ∧ t.mem = s.mem) ∧
      (d.getLsbD 5 = false → 1023 < dataRow v d → ∃ t w, exec (.uZr d) s = .next t ∧ t.invAt v.id = some w ∧ w.st = .ended ∧
        w.ecode = 5 ∧ t.mem = s.mem)) ∧
    (s.invAt s.cur = some v → v.st = .running → s.dieFenced v.die = true →
      ∃ t w, exec .uNop s = .next t ∧ t.invAt v.id = some w ∧ w.st = .ended ∧ w.ecode = 7)

/-! ## Events: registers, holds and translation -/

namespace Sys2Proof.Claims

/-- The registers of the 0xA window that a write leaves at its read-write bits (R20, R32, R56, R107, R136, R398, R431, R457, R464,
R469, R473): their offset at stack `k` and those bits. -/
def plainReg (k : Nat) : List (Nat × W64) :=
  [(0x200000, 0x000fffffffffe001), (0x200030, 0xffff), (0x500008, 0xfff0fff), (0x500010, 0xfff0fff), (0x500018, 0xfff0fff),
   (0x600000, BitVec.allOnes 64), (0x600008, 0xffffffff), (0x600010, BitVec.allOnes 64), (0x800008, 0x00ffffffffffffff),
   (0x800018, 0xfff0fff), (0x800020, BitVec.allOnes 64), (0x800028, BitVec.allOnes 64), (0xc00000, 0x1ff)] ++
  (List.range 4096).map (fun r => (0x208000 + 8 * r, 0xffff7f)) ++
  (List.range 16).map (fun d => (0x400000 + 0x1000 * d, 0x01ff3f07)) ++
  (List.range 16).map (fun d => (0x400008 + 0x1000 * d, 0xfffff)) ++
  (List.range 64).map (fun f => (0x100200 + 8 * f, 0xffff003f)) ++
  (List.range 64).map (fun f => (0x110200 + 8 * f, 0xffff003f)) ++
  (if k % 5 = 0 then [(0xa00000, 3)] else []) ++
  (if k = 0 then [(0xa00010, 0xfffffffff000007f)] ++ (List.range 64).map (fun f => (0xb00000 + 8 * f, 0x1fffffffffffffff)) else [])

/-- The harts and every byte of memory are as before. -/
def apart (s t : State) : Prop := t.hart = s.hart ∧ t.harts = s.harts ∧ t.mem = s.mem

/-- A request has been translated and is still to be performed (R44). -/
def atWork (r : Req) : Prop := r.stage = .engine ∨ r.stage = .unit ∨ (r.isAmo = true ∧ r.stage = .done)

/-- An atomic operation has reached its unit and is still to be performed on the line of another (R73, R172). -/
def keepsLine (q r : Req) : Prop := q.isAmo = true ∧ (q.stage = .unit ∨ q.stage = .done) ∧ q.ia / 128 = r.ia / 128

end Sys2Proof.Claims

/-- R7, R17, R20, R505: a register write at sup or mon leaves the register at the written value's read-write bits, and no hart and no
byte of memory changes; a write at app to any register but the submission registers, a write to an offset that holds none, and a
write to a fenced stack change nothing. A write of a region descriptor writes it on every stack. -/
def Sys2Proof.Claims.RegisterWindow : Prop :=
  (∀ (s : State) (k off : Nat) (m v : W64) (l : BitVec 2), k < 16 → s.fenced k = false → (off, m) ∈ plainReg k →
    (l = 1 ∨ l = 3 → ∃ t r, exec (.registerWrite (2 ^ 24 * k + off) v l) s = .next t ∧ devReg k off = some r ∧
      t.devValue k r = (v &&& m).toNat ∧ apart s t) ∧
    exec (.registerWrite (2 ^ 24 * k + off) v 0) s = .next s) ∧
  (∀ (s : State) (k off : Nat) (v : W64) (l : BitVec 2), k < 16 → off < 2 ^ 24 → s.fenced k = true ∨ off % 8 ≠ 0 ∨ devReg k off = none →
    exec (.registerWrite (2 ^ 24 * k + off) v l) s = .next s) ∧
  (∀ (s : State) (r : Nat) (v : W64), r < 4096 → ∃ t, exec (.regionDescriptorWrite r v) s = .next t ∧ apart s t ∧
    sget 0 t.regions r = v &&& 0xffff7f ∧ ∀ j, j ≠ r → sget 0 t.regions j = sget 0 s.regions j)

/-- R31, R32: a write of TCINV queues an invalidation, at most seventeen at once; TCINV reads 0 exactly when none is left; an
invalidation that is done has removed the translations it names. -/
def Sys2Proof.Claims.Invalidations : Prop :=
  ∀ (s : State) (k : Nat) (v : W64), k < 16 →
    ((s.getStk k).tcinvQ.length ≤ 16 → ∃ t, exec (.tcinvWrite k v) s = .next t ∧ posted t (.tcinvInvalidationDone k) ∧ apart s t ∧
      (t.getStk k).tcinvQ = (s.getStk k).tcinvQ ++ [v &&& 0xfffffffff0007] ∧ (t.getStk k).tc = (s.getStk k).tc) ∧
    (16 < (s.getStk k).tcinvQ.length → ∃ t, exec (.tcinvWrite k v) s = .next t ∧ posted t (.tcinvWrite k v) ∧ t.stk = s.stk ∧ apart s t) ∧
    (∃ t w, exec (.tcinvRead k) s = .next t ∧ t.reads = s.reads ++ [(w, false)] ∧ apart s t ∧ t.stk = s.stk ∧
      (w = 0 ↔ (s.getStk k).tcinvQ = [])) ∧
    (∀ l, (s.getStk k).tcinvQ = v :: l → ∃ t, exec (.tcinvInvalidationDone k) s = .next t ∧ (t.getStk k).tcinvQ = l ∧ apart s t ∧
      (l ≠ [] → posted t (.tcinvInvalidationDone k)) ∧
      (6 ≤ fieldOf v 2 0 → (t.getStk k).tc = [] ∧ (t.getStk k).tec = []) ∧
      (fieldOf v 2 0 = 5 → (t.getStk k).tc = (s.getStk k).tc) ∧
      (fieldOf v 2 0 ≤ 4 → ∀ q ∈ (t.getStk k).tc, q ∈ (s.getStk k).tc ∧
        ¬ (q.size = fieldOf v 2 0 ∧ q.ia ≤ fieldOf v 51 16 * 65536 ∧ fieldOf v 51 16 * 65536 < q.ia + pageSize q.size)))

/-- R32, R44, R45, R98, R385: a hold is asked for, takes effect once nothing in the bank plane uses the page, is drained once no
request translated before is left, and its release lets the held requests go on. -/
def Sys2Proof.Claims.Holds : Prop :=
  ∀ (s : State) (k i : Nat), k < 16 → i < 4 →
    let m := s.getMig k i
    let ia := 65536 * m.ia.toNat
    (∀ v : W64, m.held = false →
      (∀ j < 4, j ≠ i → (s.getMig k j).held = true → (s.getMig k j).overlaps (65536 * fieldOf v 51 16) (pageSize (fieldOf v 7 5)) = false) →
      ∃ t, exec (.migctlHold k i v) s = .next t ∧ posted t (.migctlHoldGranted k i) ∧ apart s t ∧ (t.getMig k i).wanted = true ∧
        (t.getMig k i).held = false ∧ (t.getMig k i).ia.toNat = fieldOf v 51 16 ∧ (t.getMig k i).size.toNat = fieldOf v 7 5) ∧
    (∀ v : W64, m.held = true → exec (.migctlHold k i v) s = .next s) ∧
    (m.wanted = true → m.held = false → (∀ j < 4, j ≠ i → (s.getMig k j).held = true → (s.getMig k j).overlaps ia (pageSize m.size.toNat) = false) →
      (s.rangeBusy k ia (pageSize m.size.toNat) = false → ∃ t, exec (.migctlHoldGranted k i) s = .next t ∧ posted t (.migctlDrained k i) ∧ apart s t ∧
        t.getMig k i = { m with wanted := false, held := true, drained := false }) ∧
      (s.rangeBusy k ia (pageSize m.size.toNat) = true → ∃ t, exec (.migctlHoldGranted k i) s = .next t ∧ posted t (.migctlHoldGranted k i) ∧ t.getMig k i = m)) ∧
    (m.held = true → m.drained = false →
      ((∀ r ∈ s.reqs, atWork r → r.ia + r.n ≤ ia ∨ ia + pageSize m.size.toNat ≤ r.ia) →
        ∃ t, exec (.migctlDrained k i) s = .next t ∧ apart s t ∧ t.getMig k i = { m with drained := true }) ∧
      (∀ r ∈ s.reqs, atWork r → ia < r.ia + r.n → r.ia < ia + pageSize m.size.toNat →
        ∃ t, exec (.migctlDrained k i) s = .next t ∧ posted t (.migctlDrained k i) ∧ t.getMig k i = m)) ∧
    (m.held = true → (∀ page ∈ mibPages ia (pageSize m.size.toNat), s.planarAt k page = none) → ∃ t, exec (.migctlRelease k i) s = .next t ∧ apart s t ∧
      t.getMig k i = { m with held := false, drained := false } ∧ (∀ q ∈ t.reqs, q.stage ≠ .heldMig) ∧
      ∀ r ∈ s.reqs, r.stage = .heldMig → posted t (.homeAccess r.id))

/-- R18, R30, R34, R44, R45: a request that arrives at its home is held on a held page, walks where its translation is not cached,
fails with the cause of its first fault, and else is served: a symbolic load's answer is on its way. Outside the translated window
nothing is translated. -/
def Sys2Proof.Claims.RequestsAtHome : Prop :=
  ∀ (s : State) (r : Req), s.reqAt r.id = some r → r.stage = .sent →
    (∀ w, winOf s.ownPart r.ia = some w → w ≠ .trans → ∃ t, exec (.homeAccess r.id) s = .next t ∧ posted t (.accessResponse r.id) ∧
      apart s t ∧ t.reqAt r.id = some { r with stage := .done, result := 0 }) ∧
    (winOf s.ownPart r.ia = some .trans → 0 < r.n → r.ia % 65536 + r.n ≤ 65536 →
      (∀ k, s.home r.ia = some k → s.fenced k = false →
        (s.migHeld k r.ia = true → (s.getStk k).heldBy.length + (s.reqs.filter (fun q => decide (q.stage = .heldMig) && decide (s.home q.ia = some k))).length < 256 →
          ∃ t, exec (.homeAccess r.id) s = .next t ∧ apart s t ∧ t.reqAt r.id = some { r with stage := .heldMig }) ∧
        (s.migHeld k r.ia = false → (s.getStk k).cached r.ia = none →
          (∃ t, exec (.homeAccess r.id) s = .next t ∧ apart s t ∧ t.reqAt r.id = some { r with stage := .walking } ∧
            ((s.getStk k).batch = none → posted t (.walkBatchClose k) ∧
              (t.getStk k).batch = some { openB := true, level := 2, elems := [{ req := r.id, unit := r.ia / 65536 }] })))) ∧
      ((∀ k, s.home r.ia = some k → s.fenced k = true ∨ (s.migHeld k r.ia = false ∧ (s.getStk k).cached r.ia ≠ none)) →
        (∀ u f, s.pieces (s.reqWho r) r.va r.ia r.n r.acc = (u, .fault f) → ∃ t, exec (.homeAccess r.id) s = .next t ∧
          posted t (.faultResponse r.id) ∧ t.reqAt r.id = some { r with stage := .failed, cause := f.code }) ∧
        (∀ u ps p j, s.pieces (s.reqWho r) r.va r.ia r.n r.acc = (u, .ok ps) → r.op = .read → r.src = .sym p j →
          ∃ t, exec (.homeAccess r.id) s = .next t ∧ posted t (.accessResponse r.id) ∧ t.mem = u.mem ∧
            t.reqAt r.id = some { r with stage := .done, result := 0 })))

/-- R22, R27 to R30: a batch that closes gathers its level; an element whose entry faults fails its request, one whose entry is a table
goes down a level, and one whose entry maps is cached, with `ref` set, and its request goes on. An element of a scalar, vector or engine access
leaves the fault for the access to find, or the cached translation. -/
def Sys2Proof.Claims.WalkBatches : Prop :=
  ∀ (s : State) (k : Nat) (b : Batch), (s.getStk k).batch = some b →
    (b.openB = true → ∃ t, exec (.walkBatchClose k) s = .next t ∧ posted t (.walkGatherDone k) ∧ apart s t ∧
      (t.getStk k).batch = some { b with openB := false }) ∧
    (∀ e r, b.openB = false → b.elems = [e] → e.by_ = none → s.reqAt e.req = some r → r.id = e.req →
      (s.walkStep k b.level (65536 * e.unit) = .down → ∃ t, exec (.walkGatherDone k) s = .next t ∧ posted t (.walkGatherDone k) ∧ apart s t ∧
        (t.getStk k).batch = some { b with level := b.level - 1 }) ∧
      (∀ c, s.walkStep k b.level (65536 * e.unit) = .fault c → (s.getStk k).missed = [] → ∃ t, exec (.walkGatherDone k) s = .next t ∧ posted t (.faultResponse e.req) ∧
        apart s t ∧ t.reqAt e.req = some { r with stage := .failed, cause := c }) ∧
      (∀ p l key, s.walkStep k b.level (65536 * e.unit) = .leaf p l key → (ptePlanar p && pteEnc p) = false → (s.getStk k).missed = [] →
        ∃ t, exec (.walkGatherDone k) s = .next t ∧ posted t (.homeAccess e.req) ∧ t.reqAt e.req = some { r with stage := .sent } ∧
          ((t.getStk k).cached (65536 * e.unit)).isSome = true ∧ t.hart = s.hart ∧
          t.mem = memWrite s.mem key 8 (if bitOf p 15 then p else p + 2 ^ 15))) ∧
    (∀ e u, b.openB = false → b.elems = [e] → e.by_ = some u → (s.getStk k).missed = [] →
      (∀ c, s.walkStep k b.level (65536 * e.unit) = .fault c → ∃ t, exec (.walkGatherDone k) s = .next t ∧ apart s t ∧
        (t.getStk k).walked = (s.getStk k).walked ++ [(u, e.unit, c, b.level)]) ∧
      (∀ p l key, s.walkStep k b.level (65536 * e.unit) = .leaf p l key → (ptePlanar p && pteEnc p) = false →
        ∃ t, exec (.walkGatherDone k) s = .next t ∧ ((t.getStk k).cached (65536 * e.unit)).isSome = true ∧ t.hart = s.hart ∧
          t.mem = memWrite s.mem key 8 (if bitOf p 15 then p else p + 2 ^ 15)))

/-- R38, R116, R192, R464: an answer makes the symbol that waits for it resolve, a fault makes it poisoned, and the host receives what
it read, or all ones with the mark of an error where its read failed. -/
def Sys2Proof.Claims.Responses : Prop :=
  ∀ (s : State) (r : Req), s.reqAt r.id = some r →
    (r.stage = .done →
      (∀ p j, r.src = .sym p j → s.slotOf r = some (p, j) → ∃ t, exec (.accessResponse r.id) s = .next t ∧
        posted t (.symbolResolve p j) ∧ apart s t ∧ t.reqs = s.reqs) ∧
      (r.src = .host → ∃ t, exec (.accessResponse r.id) s = .next t ∧ apart s t ∧ t.reqAt r.id = none ∧
        t.reads = s.reads ++ (if r.op = .read then [(r.result, false)] else []))) ∧
    (r.stage = .failed →
      (∀ p j, r.src = .sym p j → s.slotOf r = some (p, j) → ∃ t, exec (.faultResponse r.id) s = .next t ∧
        posted t (.symbolPoison p j) ∧ apart s t ∧ t.reqs = s.reqs) ∧
      (r.src = .host → ∃ t, exec (.faultResponse r.id) s = .next t ∧ t.mem = s.mem ∧ t.reqAt r.id = none ∧
        t.reads = s.reads ++ (if r.op = .read then [(BitVec.allOnes 64, true)] else [])))

/-- R41 to R43, R442: a run-ahead that stops leaves the hart as it was at its checkpoint, writes the record of what it met at the record
address, and takes the trap of the original fault, saying where there is no record; the record's header tells where it began and
stopped and how many entries follow. -/
def Sys2Proof.Claims.RunAheadStops : Prop :=
  (∀ (s : State) (r : RunAhead) (n code : Nat) (e : BatchEntry), s.ahead = some r → s.aheadDone r = some n → r.arrived = [] →
    r.entries.head? = some e → e.cause = code → code < 256 →
    let w : State := { s with hart := r.ck, ras := s.ras.filter (fun q => decide (q.place ≠ s.hart.place)) }
    (r.ck.fbbase = 0 → exec (.runAheadStop s.hart.place n) s = .next (w.trap (BitVec.ofNat 64 (code + 2 ^ 61)) r.tval r.ck.pc)) ∧
    (∀ u, w.writeRecord (recordBytes r.ck.pc s.hart.pc r.entries n (s.hart.instret - r.ck.instret).toNat) = (u, .ok ()) →
      exec (.runAheadStop s.hart.place n) s = .next (u.trap (BitVec.ofNat 64 code) r.tval u.hart.pc)) ∧
    (∀ u f, w.writeRecord (recordBytes r.ck.pc s.hart.pc r.entries n (s.hart.instret - r.ck.instret).toNat) = (u, .fault f) →
      exec (.runAheadStop s.hart.place n) s = .next (u.trap (BitVec.ofNat 64 (code + 2 ^ 61)) r.tval u.hart.pc))) ∧
  (∀ (pc sp : W64) (es : List BatchEntry) (stop n : Nat), stop < 256 → n < 65536 →
    let l := recordBytes pc sp es stop n
    l.length = 32 + 16 * min 16 es.length ∧ ofBytesLE (l.take 8) = pc.toNat ∧ ofBytesLE ((l.drop 8).take 4) = min 16 es.length ∧
    ofBytesLE ((l.drop 12).take 1) = stop ∧ ofBytesLE ((l.drop 14).take 2) = n ∧ ofBytesLE ((l.drop 16).take 8) = sp.toNat)

/-- R46, R111: a frame that reaches its threshold begins its count again, and each page over it moves to a fresh frame; where there is
none, its entry is marked retired. -/
def Sys2Proof.Claims.Retirement : Prop :=
  ∀ (s : State) (k f : Nat), max 1 (s.getStk k).retthr.toNat ≤ sget 0 (s.getStk k).corrFrames f → s.ecc = [] → s.stale = [] →
    let pages := (List.range 16).flatMap (fun j => (s.leavesOver j f).map (fun q => (j, q)))
    (∀ q ∈ pages, s.rangeBusy q.1 q.2.1 (pageSize (leafSize q.2.2.2.1 q.2.2.1)) = false) → s.reqs = [] → s.locks = [] → s.invs = [] →
    s.waits = [] →
    ∃ t, exec (.retirementThreshold k f) s = .next t ∧ t.hart = s.hart ∧ sget 0 (t.getStk k).corrFrames f = 0 ∧
      (∀ q ∈ pages, (s.freshFor f q.2).isSome = true → nmem f (t.getStk q.1).retired = true ∧
        (ptePlanar q.2.2.1 = true → ∀ g, f / 16 * 16 ≤ g → g < f / 16 * 16 + 16 → nmem g (t.getStk q.1).retired = true)) ∧
      (∀ j ia e l key, s.freshFor f (ia, e, l, key) = none → pages = [(j, ia, e, l, key)] → pteRetired (memRead t.mem key 8) = true)

/-! ## Events: caches, banks, atomic engines and replicas -/

/-- R49, R125: a line that arrives fills the bytes that are not dirty; a write-back, where no line goes before it (R155), leaves the line clean
and its dirty bytes, and no others, at the home; a cluster with no byte of an older generation acknowledges the flip. -/
def Sys2Proof.Claims.CacheLines : Prop :=
  ∀ (s : State) (c line : Nat) (ln : Line), (s.getClu c).copyOf line = some ln →
    (∀ u v z p got, s.pieceAt (cacheWho c ln.vf) 0 (128 * line) (128 * line) 128 .read = (u, .ok p) →
      u.gate (cacheWho c ln.vf) p.line false = (v, true) → v.fetch { cacheWho c ln.vf with unit := unitCache c } p.line = (z, got) →
      ∃ t l, exec (.lineFill c line) s = .next t ∧ (t.getClu c).copyOf line = some l ∧ l.dirty = ln.dirty ∧ l.lock = ln.lock ∧
        ∀ i : Fin 128, (ln.dirty.getLsbD i.val = true → l.byte i.val = ln.byte i.val ∧ l.valid.getLsbD i.val = ln.valid.getLsbD i.val) ∧
          (∀ b, ln.dirty.getLsbD i.val = false → got[i.val]? = some (b, none) → l.byte i.val = b ∧ l.valid.getLsbD i.val = true) ∧
          (∀ b o, ln.dirty.getLsbD i.val = false → got[i.val]? = some (b, some o) → l.valid.getLsbD i.val = false)) ∧
    (ln.dirty = 0 → ln.after = [] → ∃ t, exec (.writebackArrival c line) s = .next t ∧ apart s t ∧ (t.getClu c).copyOf line = some ln) ∧
    (∀ u v p, ln.dirty ≠ 0 → ln.after = [] → s.pieceAt (cacheWho c ln.vf) 0 (128 * line) (128 * line) 128 .write = (u, .ok p) →
      u.readyWrite (cacheWho c ln.vf) p ln.gen = (v, true) → memoryClean v → pteRepl p.pte = false → pteTracked p.pte = false →
      pteEnc p.pte = false → pteMod p.pte = true →
      ∃ t, exec (.writebackArrival c line) s = .next t ∧ (t.getClu c).copyOf line = some { ln with dirty := 0 } ∧
        ∀ k, t.byteAt k = if p.key ≤ k ∧ k < p.key + 128 ∧ ln.dirty.getLsbD (k - p.key) = true then ln.byte (k - p.key) else v.byteAt k) ∧
    (∀ u f, ln.dirty ≠ 0 → ln.after = [] → s.pieceAt (cacheWho c ln.vf) 0 (128 * line) (128 * line) 128 .write = (u, .fault f) →
      ∃ t, exec (.writebackArrival c line) s = .next t ∧ (t.getClu c).copyOf line = some { ln with dirty := 0 } ∧ t.mem = u.mem) ∧
    (nmem (unitCache c) s.gens.lag = false → nmem (unitCache c) s.gens.unsettled = true → s.oldLines c = [] →
      ∃ t, exec (.writebackAck c) s = .next t ∧ posted t (.settleAck (unitCache c)) ∧ apart s t)

/-- R55 to R60, R64, R65, R357: a write of a bank's register asks for a mode with no requester; a transition that is done leaves the bank
in its new mode, its bytes undefined unless a FIFO becomes a scratchpad, a FIFO empty with records of 8 bytes, and lets the hart that
waits for it go on. -/
def Sys2Proof.Claims.BankTransitions : Prop :=
  ∀ (s : State) (c b : Nat), c < 32 → b < 32 →
    let k := s.getBank c b
    (∀ v : W64, fieldOf v 1 0 < 3 → fieldOf v 1 0 ≠ k.mode.toNat → k.busy = false → k.mode = 2 ∨ (k.mode = 1 ∧ fieldOf v 1 0 = 2) →
      s.bankNat c b 0 4 ≠ s.bankNat c b 4 4 →
      ∃ t, exec (.sbcfgWrite c b v) s = .next t ∧ apart s t ∧ t.getBank c b = { k with last := 1 }) ∧
    (∀ v : W64, fieldOf v 1 0 < 3 → fieldOf v 1 0 ≠ k.mode.toNat → k.busy = false →
      (k.mode = 2 ∨ (k.mode = 1 ∧ fieldOf v 1 0 = 2) → s.bankNat c b 0 4 = s.bankNat c b 4 4) →
      ∃ t, exec (.sbcfgWrite c b v) s = .next t ∧ posted t (.bankTransitionDone c b) ∧ apart s t ∧ (t.getBank c b).busy = true ∧
        (t.getBank c b).mode = k.mode ∧ (t.getBank c b).target.toNat = fieldOf v 1 0) ∧
    (∀ v : W64, fieldOf v 1 0 = 3 → ∃ t, exec (.sbcfgWrite c b v) s = .next t ∧ apart s t ∧ t.getBank c b = { k with last := 5 }) ∧
    (k.busy = true → (k.mode = 0 → ∀ l ∈ (s.getClu c).lines, l.bank ≠ b) → s.bankInFlight c b = false →
      ∃ t, exec (.bankTransitionDone c b) s = .next t ∧ (t.getBank c b).mode = k.target ∧ (t.getBank c b).busy = false ∧
        (∀ rd, s.hart.wait = some (.srcfg rd c b) → t.hart.rx rd = .known 0 ∧ t.hart.wait = none ∧ t.hart.pc = s.hart.pc + 4) ∧
        ((∀ rd, s.hart.wait ≠ some (.srcfg rd c b)) → t.hart = s.hart) ∧
        (∀ a, a < bankKey c b ∨ bankKey c b + 2 ^ 19 ≤ a → memGet t.mem a = memGet s.mem a) ∧
        (k.mode = 2 → k.target = 1 → t.mem = s.mem ∧ (t.getBank c b).epoch = k.epoch) ∧
        (k.mode ≠ 2 ∨ k.target ≠ 1 → (t.getBank c b).epoch = k.epoch + 1) ∧
        (k.target = 2 → t.header c b = { prod := 0, cons := 0, rsize := 8, cap := 65504 }))

/-- R62, R63, R66, R69, R71, R73, R75, R77: a request to a bank that allows it is served or goes to the cluster's engine, else it fails
with cause 0x30; a Lantern load is served, and a Lantern atomic operation is served in its turn, behind those on its line that came before. -/
def Sys2Proof.Claims.WindowRequests : Prop :=
  ∀ (s : State) (r : Req) (c off : Nat), s.reqAt r.id = some r → r.stage = .sent →
    (winOf s.ownPart r.ia = some (.sram c off) → s.fenced (c / 2) = false →
      (r.op = .read → s.sramAllows c off r.n .load = true → ∃ t, exec (.sramWindowAccess r.id) s = .next t ∧ apart s t ∧
        posted t (.accessResponse r.id) ∧ t.reqAt r.id = some { r with stage := .done, result := 0 }) ∧
      (r.op = .read → s.sramAllows c off r.n .load = false → ∃ t, exec (.sramWindowAccess r.id) s = .next t ∧ apart s t ∧
        posted t (.faultResponse r.id) ∧ t.reqAt r.id = some { r with stage := .failed, cause := 0x30 }) ∧
      (∀ op v w, r.op = .amo op v w → s.sramAllows c off r.n .amo = true → ∃ t, exec (.sramWindowAccess r.id) s = .next t ∧ apart s t ∧
        posted t (.atomicEngineAccept c) ∧ t.reqAt r.id = some { r with stage := .engine } ∧ ∃ q ∈ (t.getClu c).ports, q.req = r.id) ∧
      (∀ op v w, r.op = .amo op v w → s.sramAllows c off r.n .amo = false → ∃ t, exec (.sramWindowAccess r.id) s = .next t ∧ apart s t ∧
        posted t (.faultResponse r.id) ∧ t.reqAt r.id = some { r with stage := .failed, cause := 0x30 })) ∧
    (winOf s.ownPart r.ia = some (.lantern c off) → s.fenced c = false →
      (r.op = .read → ∃ t, exec (.lanternWindowAccess r.id) s = .next t ∧ apart s t ∧ posted t (.accessResponse r.id) ∧
        t.reqAt r.id = some { r with stage := .done, result := 0 }) ∧
      (∀ op v w, r.op = .amo op v w → s.slotWaited c off r.n = false →
        ((∀ q ∈ s.reqs, q.id ≠ r.id → ¬ keepsLine q r) → ∃ t, exec (.lanternWindowAccess r.id) s = .next t ∧ apart s t ∧
          posted t (.accessResponse r.id) ∧ t.reqAt r.id = some { r with stage := .done, result := 0 }) ∧
        ((∃ q ∈ s.reqs, q.id ≠ r.id ∧ keepsLine q r) → ∃ t, exec (.lanternWindowAccess r.id) s = .next t ∧ apart s t ∧
          posted t (.lanternWindowAccess r.id) ∧ t.reqAt r.id = some { r with stage := .unit })))

/-- R69 to R74, R81, R118: the engine of a cluster accepts one request of its scan: one to its own SRAM is served, one on a line that is hot
joins the line's queue; the oldest operation of a hot line is served and keeps the line, and one at the home's unit is served behind those on
its line that came before. Each is performed as its symbol is bound (R172). -/
def Sys2Proof.Claims.AtomicEngines : Prop :=
  ∀ (s : State) (c : Nat) (r : Req), s.reqAt r.id = some r →
    (∀ port off op v w, (s.getClu c).ports = [{ port := port, req := r.id }] → port < 65 → winOf s.ownPart r.ia = some (.sram c off) →
      r.op = .amo op v w → s.amoAhead r.ia = false →
      ∃ t, exec (.atomicEngineAccept c) s = .next t ∧ posted t (.accessResponse r.id) ∧ apart s t ∧ (t.getClu c).ports = [] ∧
        (t.getClu c).lastWin = port ∧ t.reqAt r.id = some { r with stage := .done, result := 0 }) ∧
    (∀ port q, (s.getClu c).ports = [{ port := port, req := r.id }] → port < 65 → (∀ d o, winOf s.ownPart r.ia ≠ some (.sram d o)) →
      (s.getClu c).camOf (r.ia / 128) = some q → q.queue.length < 4 →
      ∃ t, exec (.atomicEngineAccept c) s = .next t ∧ posted t (.atomicEngineOp c (r.ia / 128)) ∧ apart s t ∧ (t.getClu c).ports = [] ∧
        (t.getClu c).lastWin = port ∧ (t.getClu c).camOf (r.ia / 128) = some { q with queue := q.queue ++ [r.id] }) ∧
    (∀ u ps q l line, (s.getClu c).camOf line = some q → q.queue = r.id :: l → r.stage = .engine → s.reqPieces r .both = (u, .ok ps) →
      u.reqs = s.reqs → ∃ t, exec (.atomicEngineOp c line) s = .next t ∧ posted t (.accessResponse r.id) ∧ t.mem = u.mem ∧
        (t.getClu c).camOf line = (u.getClu c).camOf line ∧ t.reqAt r.id = some { r with stage := .done, result := 0 }) ∧
    (∀ u ps, r.stage = .engine → s.reqPieces r .both = (u, .ok ps) →
      ((∀ q ∈ u.reqs, q.id ≠ r.id → ¬ keepsLine q r) → ∃ t, exec (.homeAtomicOp r.id) s = .next t ∧ posted t (.accessResponse r.id) ∧
        t.mem = u.mem ∧ t.reqAt r.id = some { r with stage := .done, result := 0 }) ∧
      ((∃ q ∈ u.reqs, q.id ≠ r.id ∧ keepsLine q r) → ∃ t, exec (.homeAtomicOp r.id) s = .next t ∧ posted t (.homeAtomicOp r.id) ∧
        t.mem = u.mem ∧ t.reqAt r.id = some { r with stage := .unit }))

/-- R79, R126, R142, R148: the sequencer orders an update behind those of its maker to the same unit, applies it and sends it to the other replicas; a replica applies the oldest that it
lacks; an update that every replica has applied is acknowledged. -/
def Sys2Proof.Claims.ReplicaUpdates : Prop :=
  ∀ (s v : State) (u : Update), s.updates.find? (fun x => decide (x.id = u.id)) = some u →
    (u.ordered = false →
      (∀ x ∈ s.updates.takeWhile (fun x => decide (x.id ≠ u.id)),
        x.ordered = true ∨ x.place ≠ u.place ∨ x.owner ≠ u.owner ∨ x.ia / 65536 ≠ u.ia / 65536) →
      s.fenced (fieldOf (sget 0 s.regions (u.ia / 2 ^ 36 % 4096)) 6 3) = false →
      s.applyReplica (fieldOf (sget 0 s.regions (u.ia / 2 ^ 36 % 4096)) 6 3) u = (v, true) →
      let k := fieldOf (sget 0 s.regions (u.ia / 2 ^ 36 % 4096)) 6 3
      ∃ t x, exec (.replicaUpdateOrder u.id) s = .next t ∧ t.mem = v.mem ∧ t.updates.getLast? = some x ∧ x.id = u.id ∧ x.ordered = true ∧
        x.data = u.data ∧ x.ia = u.ia ∧ k ∉ x.pending ∧
        (∀ j, j < 16 → j ≠ k → (nmem j x.pending = true ↔
          (sget 0 s.regions (u.ia / 2 ^ 36 % 4096)).getLsbD (8 + j) = true ∧ v.fenced j = false)) ∧
        (∀ j ∈ x.pending, posted t (.replicaUpdateApply j)) ∧ (x.pending = [] → posted t (.replicaStoreAck u.id)) ∧
        (u.n ≤ 8 → s.slotsInUse = [] → x.live.toNat = 2 ^ u.n - 1)) ∧
    (∀ j, s.updates.find? (fun x => x.ordered && nmem j x.pending) = some u → s.fenced j = false → s.applyReplica j u = (v, true) →
      ∃ t, exec (.replicaUpdateApply j) s = .next t ∧ t.mem = v.mem ∧ (∀ x ∈ t.updates, x.id = u.id → nmem j x.pending = false) ∧
        (nrem j u.pending = [] → posted t (.replicaStoreAck u.id))) ∧
    (∃ t, exec (.replicaStoreAck u.id) s = .next t ∧ apart s t ∧
      (∀ x, x ∈ t.updates ↔ x ∈ s.updates ∧ ¬ (x.id = u.id ∧ x.ordered = true ∧ x.pending = [])))

/-! ## Events: symbols, the vector queue and waits -/

/-- R172, R186, R187, R190, R191, R298: a symbol's load or atomic operation is performed as it is bound: its value reaches every register that is
a form over it, its slot frees and the event latch sets; registers over other symbols stay. An atomic operation on on-chip memory reads the old
number and writes the new one. -/
def Sys2Proof.Claims.SymbolResolution : Prop :=
  (∀ (s : State) (p : Producer) (r : Req) (k : Nat), p.amo ≠ 0 → memoryClean s →
    ((∃ c off, winOf s.ownPart r.ia = some (.sram c off) ∧ k = 2 ^ 46 + 2 ^ 24 * c + off) ∨
      ∃ c off, winOf s.ownPart r.ia = some (.lantern c off) ∧ k = 2 ^ 45 + 2 ^ 28 * c + off) →
    ∀ op v w, r.op = .amo op v w → op ≤ 9 → ∃ u, s.symValue p r = (u, .ok (BitVec.ofNat 64 (numberAt s k r.n))) ∧
      (match amoNew op (8 * r.n) (numberAt s k r.n) v.toNat w.toNat with
       | some x => storedAt s u k r.n x
       | none => ∀ j, u.byteAt j = s.byteAt j)) ∧
  ∀ (s u : State) (p : Producer) (r : Req) (k : Nat) (v : W64), s.producerOf s.hart.place k = some (p, r) → r.stage = .done →
    s.symValue p r = (u, .ok v) → u.hart.place = s.hart.place → u.inAhead = false →
    u.hart.held = [] →
    ∃ t, exec (.symbolResolve s.hart.place k) s = .next t ∧ t.hart.slot k = .free ∧ t.hart.latch = true ∧ t.mem = u.mem ∧
      t.hart.pc = u.hart.pc ∧ t.reqAt r.id = none ∧
      (∀ x : Reg, ∀ a b, u.hart.rx x = .form k a b → t.hart.rx x = .known (a * v + b)) ∧
      (∀ x : Reg, ∀ l, u.hart.rx x = .chain k l → t.hart.rx x = .known (replay l v).1) ∧
      (∀ x : Reg, (u.hart.rx x).over ≠ some k → t.hart.rx x = u.hart.rx x) ∧
      (∀ j, j ≠ k → t.hart.slot j = u.hart.slot j) ∧
      ((∀ y ∈ u.hart.x.toList, ∀ l, y ≠ .chain k l) → t.hart.fflags = u.hart.fflags ∧ t.hart.defer = u.hart.defer)

/-- R38, R192, R298: a producer's fault poisons its slot and every register over it, but for the causes 0x26 and 0x2B, which hold the
slot for its re-issue and leave the forms. -/
def Sys2Proof.Claims.SymbolPoisons : Prop :=
  ∀ (s : State) (p : Producer) (r : Req) (k : Nat), s.producerOf s.hart.place k = some (p, r) → r.stage = .failed → s.ras = [] →
    s.hart.held = [] →
    ∃ t, exec (.symbolPoison s.hart.place k) s = .next t ∧ t.mem = s.mem ∧ t.hart.latch = true ∧ t.hart.pc = s.hart.pc ∧
      t.reqAt r.id = none ∧
      (r.cause = 0x26 ∨ r.cause = 0x2B → t.hart.slot k = .held r.cause p none ∧ t.hart.x = s.hart.x) ∧
      (r.cause ≠ 0x26 → r.cause ≠ 0x2B → t.hart.slot k = .poisoned r.cause p.va ∧
        (∀ x : Reg, ∀ a b, s.hart.rx x = .form k a b → t.hart.rx x = .poisoned k r.cause p.va) ∧
        (∀ x : Reg, ∀ l, s.hart.rx x = .chain k l → t.hart.rx x = .poisoned k r.cause p.va) ∧
        (∀ x : Reg, (s.hart.rx x).over ≠ some k → t.hart.rx x = s.hart.rx x))

/-- R183, R185, R340: the oldest entry of the vector queue passes its trap point; after it a store writes its element and a load's data
lands in its element, and nothing else of the vector file changes. -/
def Obligations.VectorQueue : Prop :=
  ∀ (s : State) (e : VQEntry),
    (∀ l, s.hart.vq = e :: l → e.tp = false → (∀ q ∈ s.hart.vq, q.fence = none) → ∃ t, exec (.vectorTrapPoint s.hart.place) s = .next t ∧ t.mem = s.mem ∧
      t.hart.vq = { e with tp := true } :: l ∧ t.hart.v = s.hart.v ∧ (e.load = true → posted t (.vectorLoadData s.hart.place))) ∧
    (∀ x w u, s.hart.vq = [e] → e.tp = true → e.elems = [x] → e.fence = none → e.late = none → s.window x.va x.ia e.bytes x.attr = .ok w →
      let me : Who := { s.me with vec := true, after := if e.free then [] else e.lines }
      (e.load = false → e.free = true ∨ s.unacked me true = false → s.storeAt me x.va x.ia x.attr w e.scope (bytesLE e.bytes x.val.toNat) s.hart.gen = (u, .ok ()) → u.hart.vq = s.hart.vq →
        ∃ t, exec (.vectorTrapPoint s.hart.place) s = .next t ∧ t.mem = u.mem ∧ t.hart.vq = [] ∧ t.hart.v = u.hart.v) ∧
      (∀ l, e.load = true → s.loadAt me x.va x.ia e.bytes x.attr w e.scope .read = (u, .ok l) → u.hart.vq = s.hart.vq →
        u.hart.v = s.hart.v → u.hart.vgrant = s.hart.vgrant → e.vd < 32 →
        8 ≤ e.sew → e.sew ∣ s.hart.vgrant → 0 < s.hart.vgrant → s.hart.vgrant ≤ 4096 → e.vd + e.sew * x.idx / s.hart.vgrant < 32 →
        ∃ t, exec (.vectorLoadData s.hart.place) s = .next t ∧ t.mem = u.mem ∧ t.hart.vq = [] ∧
          ((∀ q ∈ l, q.2 = none) → t.hart.vel e.vd e.sew x.idx = ofBytesLE (l.map (·.1)) % 2 ^ e.sew ∧
            t.hart.velPsn e.vd e.sew x.idx = false) ∧
          ((∃ q ∈ l, q.2 ≠ none) → t.hart.velPsn e.vd e.sew x.idx = true) ∧
          ∀ j, j ≠ x.idx → t.hart.vel e.vd e.sew j = s.hart.vel e.vd e.sew j ∧ t.hart.velPsn e.vd e.sew j = s.hart.velPsn e.vd e.sew j))

/-- R298, R304, R351, R356: a wait that its event or the end of its time ends writes its answer and the instruction completes; one that
neither ends goes on. -/
def Sys2Proof.Claims.WaitsEnd : Prop :=
  ∀ (s u : State) (p : Nat) (rd : Reg), u = s.focus p → u.hart.place = p →
    let done (v : State) (w : W64) : State := wrote (v.upd (fun h => { h with wait := none })) rd w
    let late (d : Option W64) : Prop := ∃ x, d = some x ∧ x.toNat ≤ u.tick.toNat
    (∀ (va : W64) (ph : BitVec 4) (sc : Nat) (d : Option W64) (v : State) (b : BarWord), u.hart.wait = some (.bwait rd va ph sc d) →
      ((u.postOnce (.bwaitReturn p)).readCell va sc = .go v b → exec (.bwaitReturn p) s =
        .next (if b.phase = ph.toNat then v else done (v.acquire v.me sc) (waitStatus b ph.toNat false))) ∧
      (late d → (u.postOnce (.bwaitTimeout p)).readCell va sc = .go v b → exec (.bwaitTimeout p) s =
        .next (if b.phase = ph.toNat then done v (waitStatus b ph.toNat true) else done (v.acquire v.me sc) (waitStatus b ph.toNat false))) ∧
      (¬ late d → exec (.bwaitTimeout p) s = .next (u.postOnce (.bwaitTimeout p)))) ∧
    (∀ (va k : W64) (sel : Bool) (sc : Nat) (d : Option W64) (v z : State) (c b : Nat) (h : Header),
      u.hart.wait = some (.cbwait rd va k sel sc d) →
      let n := if sel then h.free else h.avail
      let st (e : Nat) : W64 := BitVec.ofNat 64 (n + 2 ^ 32 * b2n sel + e)
      ((u.postOnce (.cbwaitReturn p)).buffer va .read kRead = .go v (c, b) → v.headerRead va c b = .go z h → k.toNat ≤ h.cap →
        exec (.cbwaitReturn p) s = .next (if k.toNat ≤ n then done (z.acquire z.me sc) (st 0) else z)) ∧
      (late d → (u.postOnce (.cbwaitTimeout p)).buffer va .read kRead = .go v (c, b) → v.headerRead va c b = .go z h → k.toNat ≤ h.cap →
        exec (.cbwaitTimeout p) s = .next (if k.toNat ≤ n then done (z.acquire z.me sc) (st 0) else done z (st (2 ^ 33)))) ∧
      (¬ late d → exec (.cbwaitTimeout p) s = .next (u.postOnce (.cbwaitTimeout p)))) ∧
    (∀ (m : W64) (d : Option W64), u.hart.wait = some (.swait rd m d) →
      (∀ v w, u.swaitTest m = (v, w) → exec (.swaitWake p) s = .next (if w = 0 then v.postOnce (.swaitWake p) else done v w)) ∧
      (late d → exec (.swaitTimeout p) s = .next (done u 0)) ∧ (¬ late d → exec (.swaitTimeout p) s = .next (u.postOnce (.swaitTimeout p)))) ∧
    (∀ d : Option W64, u.hart.wait = some (.wfe rd d) →
      (u.hart.latch = true → exec (.wfeWake p) s = .next (done (u.upd (fun h => { h with latch := false })) 0)) ∧
      (u.hart.latch = false → exec (.wfeWake p) s = .next (u.postOnce (.wfeWake p))) ∧
      (late d → exec (.wfeTimeout p) s = .next (done u 1)) ∧ (¬ late d → exec (.wfeTimeout p) s = .next (u.postOnce (.wfeTimeout p))))

/-! ## Events: the bank plane -/

namespace Sys2Proof.Claims

/-- The status word of a BKOP of one page whose invocation was not reset (R391). -/
def bankWord (v : Inv) : W64 :=
  BitVec.ofNat 64 ((if v.ecode = 0 then 0 else 1 + 2 ^ 16) + 2 ^ 32 * v.ecode.toNat +
    2 ^ 36 * (if v.ecode = 4 then v.errRow.toNat else 0) + 2 ^ 46 * v.status.toNat)

end Sys2Proof.Claims

/-- R384, R388, R389, R419: each page of a wick node is probed in turn; a fault ends the node with FAULT, and after the last answer one
invocation leaves for each page, with its number and its parameters. -/
def Sys2Proof.Claims.BankProbes : Prop :=
  ∀ (s : State) (c : BankCmd), s.bcmdAt c.id = some c → c.invs = [] →
    (∀ ia u, c.code = 0 → c.pages[c.probed.length]? = some ia →
      (∀ key, s.probe c.who 0 ia .both = (u, .ok key) → ∃ t, exec (.bankProbe c.id) s = .next t ∧ t.mem = u.mem ∧
        posted t (.bankProbeAnswer c.id) ∧ t.bcmdAt c.id = some { c with probed := c.probed ++ [(ia, BitVec.ofNat 64 key)] }) ∧
      (∀ f, s.probe c.who 0 ia .both = (u, .fault f) → ∃ t, exec (.bankProbe c.id) s = .next t ∧ t.mem = u.mem ∧
        posted t (.bankProbeAnswer c.id) ∧ t.bcmdAt c.id = some { c with code := 2, cause := f.code })) ∧
    (c.pages ≠ [] → c.sent = false →
      (c.code ≠ 0 → ∃ t, exec (.bankProbeAnswer c.id) s = .next t ∧ apart s t ∧ t.bcmdAt c.id = none ∧
        ∀ n d, c.node = some n → s.nodeAt n = some d → d.phase = 0 → posted t (.nodeComplete n) ∧ ∃ e, t.nodeAt n = some e ∧
          e.code = 3 ∧ e.cause = c.cause) ∧
      (c.code = 0 → c.probed.length < c.pages.length → ∃ t, exec (.bankProbeAnswer c.id) s = .next t ∧ apart s t ∧
        posted t (.bankProbe c.id) ∧ t.bcmds = s.bcmds) ∧
      (c.code = 0 → c.pages.length ≤ c.probed.length → s.windowFull (invFrom c.place c.stack) (c.probed.map (fun q => keyDie q.2.toNat)) = true →
        ∃ t, exec (.bankProbeAnswer c.id) s = .next t ∧ apart s t ∧ posted t (.bankProbeAnswer c.id) ∧ t.invs = s.invs) ∧
      (c.code = 0 → c.pages.length ≤ c.probed.length → s.windowFull (invFrom c.place c.stack) (c.probed.map (fun q => keyDie q.2.toNat)) = false →
        ∃ t l, exec (.bankProbeAnswer c.id) s = .next t ∧ apart s t ∧
        t.invs = s.invs ++ l ∧ l.map (·.ia) = c.probed.map (·.1) ∧ l.map (·.idx) = List.range c.probed.length ∧
        t.bcmdAt c.id = some { c with total := c.probed.length, invs := l.map (·.id) } ∧
        ∀ v ∈ l, v.cmd = c.id ∧ v.st = .sent ∧ v.vf = c.vf ∧ v.ctx = c.ctx ∧ v.tag = c.tag ∧ v.h = c.msg.toNat % 16 ∧
          posted t (.invocationArrival v.id)))

/-- R88, R91, R94, R106, R118, R389, R403, R423, R486: an invocation enters its die's queue unless that is full; the oldest that may start
runs from its first microword with the image its slot holds, and a bank that enters compute mode counts from 0; one whose slot is empty, or whose die is fenced, ends with its code. -/
def Sys2Proof.Claims.Invocations : Prop :=
  ∀ (s : State) (v : Inv), s.invAt v.id = some v →
    (v.st = .sent → (s.getSender (senderStack (s.invSender v)) (s.invSender v)).waiting = false → s.dieFenced v.die = false →
      (∀ q ∈ s.invs, q.st = .sent → q.die = v.die → v.id ≤ q.id) →
      ((s.getDie v.die).queue.length < 256 → ∃ t, exec (.invocationArrival v.id) s = .next t ∧ t.mem = s.mem ∧
        posted t (.invocationStart v.die) ∧ (t.getDie v.die).queue = (s.getDie v.die).queue ++ [v.id] ∧
        t.invAt v.id = some { v with st := .queued }) ∧
      (256 ≤ (s.getDie v.die).queue.length → ∃ t, exec (.invocationArrival v.id) s = .next t ∧ apart s t ∧
        posted t (.nakReceived (s.invSender v)) ∧ (t.getDie v.die).queue = (s.getDie v.die).queue ∧ t.invAt v.id = some v)) ∧
    ((s.getDie v.die).queue = [v.id] → s.dieFenced v.die = false → s.mayStart v [] = true → (s.pageLeaf v).2 = false →
      (sget [] (s.getDie v.die).slots v.h ≠ [] → ∃ t w, exec (.invocationStart v.die) s = .next t ∧ t.invAt v.id = some w ∧
        w.st = .running ∧ w.pc = 0 ∧ w.code = sget [] (s.getDie v.die).slots v.h ∧ w.tag = v.tag ∧ w.p = v.p ∧ w.b = v.b ∧ w.arg = v.arg ∧
        w.cycles = v.cycles ∧ (t.getDie v.die).queue = [] ∧ Act.micro v.id ∈ t.agenda ∧
        (s.computing (64 * v.die + v.bank) = false → sget 0 (t.getDie v.die).counts v.bank = 0)) ∧
      (sget [] (s.getDie v.die).slots v.h = [] → ∃ t w, exec (.invocationStart v.die) s = .next t ∧ t.invAt v.id = some w ∧
        w.st = .ended ∧ w.ecode = 1 ∧ t.mem = s.mem)) ∧
    ((s.getDie v.die).queue = [v.id] → s.dieFenced v.die = true → ∃ t w, exec (.invocationStart v.die) s = .next t ∧
      t.invAt v.id = some w ∧ w.st = .ended ∧ w.ecode = 7 ∧ t.mem = s.mem)

/-- R46, R93, R97, R100, R102, R103, R105, R107, R108, R110, R403, R404: what a die does while invocations run. A budget that runs out
in a CPYB's wait ends the invocation; a bank that has computed for its periods holds its micro-ops and opens a slot for the oldest access that waits; a refresh
changes nothing; above the cap a die's divider goes up; a corrected row lets the micro-op run again, past sixteen corrections or with an uncorrectable word the invocation ends; a
CPYB's row is written at its destination; the scrubber recomputes a stale row's check bits. The divider is the model's free value (log
17). -/
def Sys2Proof.Claims.DieEvents : Prop :=
  (∀ (s : State) (v : Inv), s.invAt v.id = some v →
    (v.st = .cpyWait → v.waits = true → ∃ t w, exec (.budgetExpiry v.id) s = .next t ∧ t.invAt v.id = some w ∧
      w.st = .ended ∧ w.ecode = 2 ∧ t.mem = s.mem) ∧
    (v.waits = false → exec (.budgetExpiry v.id) s = .next s) ∧
    (v.st = .correcting → s.psn = [] → (∀ w ∈ s.rowErrors (v.rowKey v.errRow.toNat), badSymbols (sget 0 s.ecc w) = 1) →
      let n := v.corrections + (s.rowErrors (v.rowKey v.errRow.toNat)).length
      (n ≤ 16 → ∃ t, exec (.syndromeCorrection v.id) s = .next t ∧ t.mem = s.mem ∧ Act.micro v.id ∈ t.agenda ∧
        t.invAt v.id = some { v with corrections := n, st := .running } ∧ ∀ w ∈ s.rowErrors (v.rowKey v.errRow.toNat), sget 0 t.ecc w = 0) ∧
      (17 ≤ n → ∃ t w, exec (.syndromeCorrection v.id) s = .next t ∧ t.mem = s.mem ∧ t.invAt v.id = some w ∧ w.st = .ended ∧ w.ecode = 3)) ∧
    (v.st = .correcting → (∃ w ∈ s.rowErrors (v.rowKey v.errRow.toNat), 2 ≤ badSymbols (sget 0 s.ecc w) ∧ badSymbols (sget 0 s.ecc w) ≤ 3) →
      ∃ t w, exec (.syndromeCorrection v.id) s = .next t ∧ t.invAt v.id = some w ∧ w.st = .ended ∧ w.ecode = 4 ∧ w.errRow = v.errRow) ∧
    (∀ key x stale, v.cpy = some (key, x, stale) → v.st = .cpyWait → s.locks = [] → s.psn = [] → s.uioLost = [] →
      s.computing v.destBank = false → s.cpyRecent v.die (v.destBank % 64) = false → v.waits = false →
      (let ia := (match s.ownerOf (key / 2 ^ 20) with | some (_, p) => p * 2 ^ 20 | none => 0) + key % 2 ^ 20
       ∀ k e l, s.peekLeaf ia = some (k, e, l) → pteTracked e = false ∧ pteMod e = true) →
      ∃ t, exec (.cpybDestWrite v.id) s = .next t ∧ rowInMemory t key (BitVec.ofNat 8192 x) ∧ Act.micro v.id ∈ t.agenda ∧
        nmem (key / 1024) t.stale = decide (stale = 1) ∧ (∀ j, j < key ∨ key + 1024 ≤ j → t.byteAt j = s.byteAt j) ∧
        t.invAt v.id = some { v with st := .running, cpy := none, cycles := v.cycles + 48, pc := v.pc + 1 })) ∧
  (∀ (s : State) (b d : Nat) (val : W64),
    exec (.refresh b) s = .next s ∧
    (s.computing b = true → s.slotOpen b = false →
      let e := s.getDie (b / 64)
      (s.oldestWait b = none → exec (.accessSlot b) s = .next s) ∧
      (∀ q, s.oldestWait b = some q → s.waits = [q] →
        (10 * max 4 e.slotn.toNat ≤ sget 0 e.counts (b % 64) → s.holdsOps b = true ∧ ∃ t, exec (.accessSlot b) s = .next t ∧ apart s t ∧ posted t (.accessSlot b) ∧
          t.waits = [{ q with served := q.served + 1 }] ∧ sget 0 (t.getDie (b / 64)).counts (b % 64) = 0) ∧
        (sget 0 e.counts (b % 64) < 10 * max 4 e.slotn.toNat → ∃ t, exec (.accessSlot b) s = .next t ∧ apart s t ∧
          posted t (.accessSlot b) ∧ t.waits = s.waits ∧ t.dies = s.dies))) ∧
    (s.computing b = false → exec (.accessSlot b) s = .next s) ∧
    (∃ t, exec (.bpctlWrite d val) s = .next t ∧ apart s t ∧ posted t (.invocationStart d) ∧ t.getDie d =
      { s.getDie d with div := BitVec.ofNat 3 (fieldOf val 2 0), slotn := BitVec.ofNat 6 (fieldOf val 13 8), base := BitVec.ofNat 9 (fieldOf val 24 16) }) ∧
    (let total := ((List.range 256).map (fun i => if i = d then (s.getDie d).energy else (s.getDie i).lastEnergy)).sum
     ∃ t dv, exec (.energyTelemetryTick d) s = .next t ∧ apart s t ∧ posted t (.invocationStart d) ∧
      t.getDie d = { s.getDie d with div := dv, lastEnergy := (s.getDie d).energy, energy := 0 } ∧
      (total ≤ 234375 * s.plat.capBank.toNat → dv = Config.divider d total) ∧
      (234375 * s.plat.capBank.toNat < total → min 7 ((s.getDie d).div.toNat + 1) ≤ dv.toNat))) ∧
  (∀ (s : State) (row : Nat), row < 2 ^ 30 → s.dieFenced (row / 2 ^ 22) = false → s.locks = [] → s.waits = [] → s.computing (row / 65536) = false → s.ecc = [] →
    ∃ t, exec (.scrubberVisit row) s = .next t ∧ t.mem = s.mem ∧ t.hart = s.hart ∧ nmem row t.stale = false ∧
      (∀ q, q ≠ row → nmem q t.stale = nmem q s.stale) ∧
      (row % 64 = 63 → sget 0 (t.getStk (row / 2 ^ 26)).corrFrames (row / 64) = 0))

/-- R91, R99, R391, R394 to R396: a row-lock that has been held for its longest time expires and is counted; a reserved one is held once
no invocation of another context runs on its page; a handler image is in its slot once no invocation runs it, and the hart that waits for
its last die goes on; a bank command whose work has ended reports its status and then frees its number. -/
def Sys2Proof.Claims.BankEnds : Prop :=
  (∀ (s : State) (l : RowLock), s.locks = [l] →
    (l.isHeld = true → (l.since.toNat + max 1000 (min 1000000 (s.getDie l.die).lkmax.toNat) ≤ s.tick.toNat →
        ∃ t, exec (.rowLockExpiry l.id) s = .next t ∧ apart s t ∧ t.locks = [{ l with isHeld := false, expired := true }] ∧
          posted t (.invocationStart l.die) ∧ (t.getDie l.die).lkexp.toNat = min 65535 ((s.getDie l.die).lkexp.toNat + 1)) ∧
      (s.tick.toNat < l.since.toNat + max 1000 (min 1000000 (s.getDie l.die).lkmax.toNat) →
        ∃ t, exec (.rowLockExpiry l.id) s = .next t ∧ apart s t ∧ t.locks = [l] ∧ posted t (.rowLockExpiry l.id))) ∧
    (l.isHeld = false → l.expired = false →
      (s.lockBlocked l = false → ∃ t, exec (.bklockHeld l.id) s = .next t ∧ apart s t ∧ posted t (.rowLockExpiry l.id) ∧
        t.locks = [{ l with isHeld := true, since := s.tick }]) ∧
      (s.lockBlocked l = true → ∃ t, exec (.bklockHeld l.id) s = .next t ∧ apart s t ∧ t.locks = [l] ∧ posted t (.bklockHeld l.id)))) ∧
  (∀ (s : State) (d i p : Nat) (code : List Micro), (s.getDie d).loading.find? (fun q => decide (q.1 = i)) = some (i, p, code) →
    (∀ v ∈ s.invs, v.die = d → v.h = i → v.st.active = false) →
    ∃ t, exec (.wickloadDieLoad d i) s = .next t ∧ t.mem = s.mem ∧ sget [] (t.getDie d).slots i = code ∧
      (t.getDie d).loading = (s.getDie d).loading.eraseIdx ((s.getDie d).loading.findIdx (fun q => decide (q.1 = i))) ∧
      (s.hart.place ≠ p → t.hart = s.hart) ∧
      (∀ rd w, s.hart.place = p → s.hart.wait = some (.wickload rd w i [d]) → t.hart.wait = none ∧ t.hart.pc = s.hart.pc + 4 ∧ (rd ≠ 0 → t.hart.rx rd = .known w)) ∧
      (∀ rd w ds, s.hart.place = p → s.hart.wait = some (.wickload rd w i ds) → (∃ e ∈ ds, e ≠ d) → t.hart.pc = s.hart.pc ∧ t.hart.x = s.hart.x ∧
        t.hart.wait = some (.wickload rd w i (ds.filter (fun e => decide (e ≠ d)))))) ∧
  (∀ (s : State) (c : BankCmd), s.bcmdAt c.id = some c →
    (∀ v, c.copy = false → c.sent = false → c.code = 0 → c.invs ≠ [] → c.barrier = none → c.rel = false → s.invs.filter (fun q => decide (q.cmd = c.id)) = [v] →
      v.st = .ended → v.idx = 0 → v.ecode ≠ 8 →
      ∃ t, exec (.bkopComplete c.id) s = .next t ∧ posted t (.bkopComplete c.id) ∧ t.mem = s.mem ∧ t.bcmdAt c.id = some { c with sent := true, word := bankWord v }) ∧
    (∀ p, c.sent = true → s.signals = [] → c.place = some p → s.hart.place = p →
      (c.copy = false → ∃ t, exec (.bkopComplete c.id) s = .next t ∧ t.mem = s.mem ∧ t.bcmdAt c.id = none ∧ (∀ v ∈ t.invs, v.cmd ≠ c.id) ∧
        t.hart.cmds = nrem c.cnum s.hart.cmds ∧ t.hart.latch = true) ∧
      (c.copy = true → ∃ t, exec (.bkcopyComplete c.id) s = .next t ∧ t.mem = s.mem ∧ t.bcmdAt c.id = none ∧
        t.hart.cmds = nrem c.cnum s.hart.cmds ∧ t.hart.latch = true)) ∧
    (∀ u z l, c.copy = true → c.sent = false → c.code = 0 → c.moved < c.count → s.behindInvs c = false →
      s.engineRead c.who (c.src + 1024 * (c.row + c.moved)) 1024 = (u, .ok l) → (∀ b ∈ l, b.2 = none) →
      u.engineWrite c.who (c.dst + 1024 * (c.drow + c.moved)) (l.map (·.1)) (genMax c.tag (u.unitGen c.who.unit)) = (z, .ok ()) →
      z.bcmds = s.bcmds →
      ∃ t, exec (.bkcopyComplete c.id) s = .next t ∧ posted t (.bkcopyComplete c.id) ∧ t.mem = z.mem ∧
        t.bcmdAt c.id = some { c with moved := c.moved + 1 }) ∧
    (c.copy = true → c.sent = false → c.count ≤ c.moved → c.code = 0 → c.barrier = none → c.rel = false → ∃ t, exec (.bkcopyComplete c.id) s = .next t ∧
      posted t (.bkcopyComplete c.id) ∧ t.mem = s.mem ∧ t.bcmdAt c.id = some { c with sent := true, word := 64 }))

/-! ## Events: generations -/

/-- R114, R136: the first enable of the sequencing makes the device generation and every hart's generation 1; while it is enabled, the
sequencer and the reserves stay, and so does the enable while a slot is in use. -/
def Sys2Proof.Claims.GenerationControl : Prop :=
  ∀ (s : State) (k : Nat) (v : W64), k < 16 →
    ((∀ e ∈ s.stk, e.2.gsctlEn = false) → v.getLsbD 0 = true → ∃ t, exec (.gsctlWrite k v) s = .next t ∧ t.mem = s.mem ∧
      t.gens.dev = 1 ∧ t.gens.lag = [] ∧ t.hart = { s.hart with gen := 1 } ∧ (∀ h ∈ t.harts, h.gen = 1) ∧
      t.getStk k = { s.getStk k with gsctlEn := true, gsctlSeq := v.extractLsb' 1 4, gsctlRsv := v.extractLsb' 8 8, gsctlRtmo := v.extractLsb' 16 32 }) ∧
    ((s.getStk k).gsctlEn = true → ∃ t, exec (.gsctlWrite k v) s = .next t ∧ apart s t ∧ t.gens = s.gens ∧
      t.getStk k = { s.getStk k with gsctlEn := v.getLsbD 0 || decide (s.slotsInUse ≠ []), gsctlRtmo := v.extractLsb' 16 32 })

/-- R116, R119, R120, R136, R299: the sequencer flips for the oldest SNAP where a slot is free or drained: the device generation goes up
by one, the slot holds the one before, every unit that is not fenced must adopt and settle, and the hart is answered; with no such slot, or
with the sequencer disabled or fenced, the answer says so and nothing flips; while a flip settles, the request waits. -/
def Sys2Proof.Claims.Flips : Prop :=
  (∀ (s : State) (p : Nat) (l : List Nat), s.gens.snapq = p :: l →
    let answered (t : State) (c : Nat) : Prop := apart s t ∧ t.gens.snapq = l ∧ posted t (.snapAnswer p) ∧
      t.gens.answers = s.gens.answers ++ [(p, BitVec.ofNat 64 (s.gens.dev.toNat + 2 ^ 32 * c))]
    let ok : Prop := s.fenced (s.getStk 0).gsctlSeq.toNat = false ∧ (s.getStk (s.getStk 0).gsctlSeq.toNat).gsctlEn = true
    (∀ i, ok → s.gens.settling = none → s.gens.freeSlot = some i → ∃ t, exec .snapRequest s = .next t ∧ answered t 0 ∧
      t.gens.dev = s.gens.dev + 1 ∧ t.gens.settling = some i ∧ t.gens.slot (1 - i) = s.gens.slot (1 - i) ∧
      (t.gens.slot i).g = s.gens.dev ∧ (t.gens.slot i).state = 1 ∧ (t.gens.slot i).tflip = s.tick ∧ (t.gens.slot i).recs = [] ∧
      ∀ u ∈ s.units, s.fenced (unitStack u) = false → u ∈ t.gens.lag ∧ u ∈ t.gens.unsettled ∧ posted t (.flipArrival u)) ∧
    (ok → s.gens.settling = none → s.gens.freeSlot = none → ∃ t, exec .snapRequest s = .next t ∧ answered t 1 ∧ t.gens.dev = s.gens.dev) ∧
    (¬ ok → ∃ t, exec .snapRequest s = .next t ∧ answered t 2 ∧ t.gens.dev = s.gens.dev) ∧
    (∀ i, ok → s.gens.settling = some i → ∃ t, exec .snapRequest s = .next t ∧ posted t .snapRequest ∧ apart s t ∧ t.gens = s.gens)) ∧
  (∀ g : Gens, (g.slot0.state = 0 → g.freeSlot = some 0) ∧
    (g.slot0.state ≠ 0 → g.slot1.state = 0 → g.freeSlot = some 1) ∧
    (g.slot0.state = 3 → g.slot1.state = 3 → g.freeSlot = some (if (g.slot1.g - g.slot0.g).toNat < 2 ^ 31 then 0 else 1)) ∧
    (g.slot0.state = 3 → g.slot1.state = 1 ∨ g.slot1.state = 2 → g.freeSlot = some 0) ∧
    (g.slot0.state = 1 ∨ g.slot0.state = 2 → g.slot1.state = 3 → g.freeSlot = some 1) ∧
    (g.slot0.state = 1 ∨ g.slot0.state = 2 → g.slot1.state = 1 ∨ g.slot1.state = 2 → g.freeSlot = none)) ∧
  (∀ (s : State) (u : Nat),
    (nmem u s.gens.lag = false → exec (.flipArrival u) s = .next s) ∧
    (nmem u s.gens.lag = true → ∃ t, exec (.flipArrival u) s = .next t ∧ t.mem = s.mem ∧ nmem u t.gens.lag = false ∧
      (∀ w, w ≠ u → nmem w t.gens.lag = nmem w s.gens.lag) ∧
      (if 10000 ≤ u ∧ u < 10032 then posted t (.writebackAck (u - 10000)) else posted t (.settleAck u)) ∧
      (u = s.hart.place → u < 10000 → t.hart = { s.hart with gen := s.gens.dev }) ∧ (u ≠ s.hart.place → t.hart = s.hart))) ∧
  (∀ (s : State) (rd : Reg) (w : W64), s.gens.answers.find? (fun q => decide (q.1 = s.hart.place)) = some (s.hart.place, w) →
    s.hart.wait = some (.snap rd) → ∃ t, exec (.snapAnswer s.hart.place) s = .next t ∧ t.mem = s.mem ∧
      t.hart.rx rd = .known (if rd = 0 then 0 else w) ∧ sameRegsBut s t rd ∧ t.hart.wait = none ∧ t.hart.pc = s.hart.pc + 4 ∧
      t.hart.instret = s.hart.instret + 1 ∧ nmem s.hart.place t.gens.lag = false)

/-- R119, R124: the last acknowledgement of a flip makes its slot DRAINING; one whose unit still has older writes on the way waits. -/
def Sys2Proof.Claims.Settling : Prop :=
  ∀ (s : State) (u i : Nat), i < 2 → nmem u s.gens.unsettled = true → nmem u s.gens.lag = false → s.gens.settling = some i →
    (s.sentOlder u = true → ∃ t, exec (.settleAck u) s = .next t ∧ posted t (.settleAck u) ∧ apart s t ∧ t.gens = s.gens) ∧
    (s.sentOlder u = false → nrem u s.gens.unsettled ≠ [] → ∃ t, exec (.settleAck u) s = .next t ∧ apart s t ∧
      t.gens = { s.gens with unsettled := nrem u s.gens.unsettled }) ∧
    (s.sentOlder u = false → nrem u s.gens.unsettled = [] → ∃ t, exec (.settleAck u) s = .next t ∧ apart s t ∧ t.gens.settling = none ∧
      t.gens.unsettled = [] ∧ (t.gens.slot i).state = 2 ∧ (t.gens.slot i).g = (s.gens.slot i).g ∧ (t.gens.slot i).tflip = (s.gens.slot i).tflip ∧
      (t.gens.slot i).recs = (s.gens.slot i).recs ∧ (∀ f ∈ t.gens.frames, nmem i f.slots = true → f.mask = []) ∧
      (posted t (.drainComplete i) ∨ ∃ b, (t.gens.slot i).visit = some b ∧ posted t (.copyClassRound (s.drainStack b))))

/-- R117, R123, R130, R131: a host's write is performed at its home; a preservation copies the next row of its block into its frame with
its poisoned words; a frame that no slot needs is freed; the wait of the first write that is still stalled makes the slot incomplete once it
outlasts `rtmo`. -/
def Sys2Proof.Claims.Preservation : Prop :=
  (∀ (s u v : State) (r : Req) (p : Piece), s.reqAt r.id = some r → r.stage = .engine → r.op = .write → s.reqPieces r .write = (u, .ok [p]) →
    u.readyWrite (u.reqWho r) p r.tag = (v, true) → memoryClean v → p.len = r.n → pteRepl p.pte = false → pteTracked p.pte = false →
    pteEnc p.pte = false → pteMod p.pte = true → p.key < 2 ^ 60 →
    ∃ t, exec (.trackedWrite r.id) s = .next t ∧ posted t (.accessResponse r.id) ∧ storedAt v t p.key r.n r.data.toNat) ∧
  (∀ (s : State) (f : Nat) (fr : Frame), s.getFrame f = some fr →
    (∀ r, r < 64 → (∀ j < r, fr.rows.getLsbD j = true) → fr.rows.getLsbD r = false → ∀ key, s.peekKey (65536 * fr.block) = some key →
      s.locks = [] → s.invs = [] → s.waits = [] → ∃ t q, exec (.preserveRowCopied f) s = .next t ∧ posted t (.preserveRowCopied f) ∧ apart s t ∧ t.getFrame f = some q ∧
        (∀ j < 64, q.rows.getLsbD j = (fr.rows.getLsbD j || decide (j = r))) ∧
        ∀ o, memGet q.bytes o = if o / 1024 = r then s.byteAt (key + o) else memGet fr.bytes o) ∧
    (fr.rows = BitVec.allOnes 64 → exec (.preserveRowCopied f) s = .next s) ∧
    (fr.slots = [] → ∃ t, exec (.reserveFrameFreed f) s = .next t ∧ apart s t ∧ t.getFrame f = none ∧
      (∀ g, g ≠ f → t.getFrame g = s.getFrame g) ∧ t.gens.slot0 = s.gens.slot0 ∧ t.gens.slot1 = s.gens.slot1) ∧
    (fr.slots ≠ [] → exec (.reserveFrameFreed f) s = .next s)) ∧
  (∀ (s : State) (i b : Nat) (t0 : W64) (l : List (Nat × W64)), i < 2 →
    (s.gens.slot i).stalls.filter (fun q => s.stalled i q.1) = (b, t0) :: l → (s.gens.slot i).timedOut = false →
    ((s.getStk (s.getStk 0).gsctlSeq.toNat).gsctlRtmo.toNat ≤ (s.tick - t0).toNat → ∃ t, exec (.reserveTimeout i) s = .next t ∧ apart s t ∧
      t.gens.slot i = { s.gens.slot i with stalls := (b, t0) :: l, inc := true, timedOut := true }) ∧
    ((s.tick - t0).toNat < (s.getStk (s.getStk 0).gsctlSeq.toNat).gsctlRtmo.toNat → ∃ t, exec (.reserveTimeout i) s = .next t ∧ apart s t ∧
      posted t (.reserveTimeout i) ∧ t.gens.slot i = { s.gens.slot i with stalls := (b, t0) :: l })) ∧
  (∀ (s : State) (i : Nat), i < 2 → (∀ q ∈ (s.gens.slot i).stalls, s.stalled i q.1 = false) → ∃ t, exec (.reserveTimeout i) s = .next t ∧
    apart s t ∧ t.gens.slot i = { s.gens.slot i with stalls := [] })

/-- R122, R130, R132 to R135: a visited block's record holds its address and, shared, its live bytes, or, preserved, its frame's; the
slot's area that is full ends the drain; a drain that is done writes its header, and the slot is DRAINED. -/
def Sys2Proof.Claims.Drain : Prop :=
  ∀ (s : State) (i b : Nat), i < 2 → (s.gens.slot i).state = 2 →
    let area := (s.drainArea i).1
    let size := (s.drainArea i).2
    let rec_ := area + 64 + 65600 * (s.gens.slot i).recs.length
    let kept (t : State) (st : BlockState) : Prop := t.hart = s.hart ∧ (t.gens.slot i).recs = (s.gens.slot i).recs ++ [b] ∧
      (t.getBlock i b).st = st ∧ (t.getBlock i b).frame = none ∧ numberAt t rec_ 8 = 65536 * b
    (nmem b (s.undrained i) = true → rec_ + 65600 ≤ area + size → b < 2 ^ 36 → rowsClean s → s.locks = [] → s.invs = [] → s.waits = [] →
      ((s.getBlock i b).st = .SH → ∀ k e z, s.peekLeaf (65536 * b) = some (k, e, z) → s.stale = [] →
        ∃ t, exec (.drainVisit i b) s = .next t ∧ kept t .DR ∧ ∀ o < 65536, t.byteAt (rec_ + 64 + o) = s.byteAt (keyUnder e z (65536 * b) + o)) ∧
      (∀ f fr, (s.getBlock i b).st = .PR → (s.getBlock i b).frame = some f → s.getFrame f = some fr → fr.rows = BitVec.allOnes 64 → fr.psn = [] → fr.ecc = [] → fr.stale = 0 →
        ∃ t, exec (.drainVisit i b) s = .next t ∧ kept t .DR ∧ (∀ o < 65536, t.byteAt (rec_ + 64 + o) = memGet fr.bytes o) ∧
          (fr.slots = [i] → posted t (.reserveFrameFreed f))) ∧
      ((s.getBlock i b).st = .LO → ∃ t, exec (.drainVisit i b) s = .next t ∧ kept t .LO ∧ numberAt t (rec_ + 8) 1 % 2 = 1)) ∧
    (nmem b (s.undrained i) = true → area + size < rec_ + 65600 → ∃ t, exec (.drainVisit i b) s = .next t ∧ apart s t ∧
      posted t (.drainComplete i) ∧ (t.gens.slot i).dfull = true ∧ (t.gens.slot i).inc = true ∧ (t.gens.slot i).state = 2) ∧
    (nmem b (s.undrained i) = false → exec (.drainVisit i b) s = .next s) ∧
    (s.undrained i = [] → ∃ t, exec (.drainComplete i) s = .next t ∧ t.gens.slot i = { s.gens.slot i with state := 3 } ∧
      (0 < size → numberAt t area 4 = (s.gens.slot i).g.toNat ∧ numberAt t (area + 4) 4 = (s.gens.slot i).recs.length % 2 ^ 32 ∧
        numberAt t (area + 16) 8 = (s.gens.slot i).tflip.toNat ∧ numberAt t (area + 24) 8 = s.tick.toNat)) ∧
    (s.undrained i ≠ [] → 0 < size → ∃ t c, exec (.drainComplete i) s = .next t ∧ apart s t ∧ c ∈ s.undrained i ∧
      t.gens.slot i = { s.gens.slot i with visit := some c } ∧ posted t (.copyClassRound (s.drainStack c))) ∧
    (s.undrained i ≠ [] → size = 0 → ∃ t, exec (.drainComplete i) s = .next t ∧ apart s t ∧ (t.gens.slot i).dfull = true ∧
      (t.gens.slot i).inc = true ∧ posted t (.drainComplete i))

/-- R137, R432: the rollback service is answered on the sequencer's stack: 2 elsewhere, 3 while another is in progress, 1 where no slot
holds the generation drained; else, with no context mapping an affected page, the records are written back and the lost ones counted. A
service that does not exist is answered 0xFF. -/
def Sys2Proof.Claims.Mailboxes : Prop :=
  ∀ (s : State) (k i : Nat), k < 16 → i < 16 → (s.getBox k i).go = true →
    let answered (t : State) (v : W64) : Prop := t.getBox k i = { s.getBox k i with resp := v, go := false, done := true }
    ((s.getBox k i).svc ≠ 1 → ∃ t, exec (.mailboxUnknownService k i) s = .next t ∧ apart s t ∧ answered t 0xFF) ∧
    ((s.getBox k i).svc = 1 →
      (k ≠ (s.getStk 0).gsctlSeq.toNat → ∃ t, exec (.mailboxRollback k i) s = .next t ∧ apart s t ∧ answered t 2) ∧
      (k = (s.getStk 0).gsctlSeq.toNat →
        (∀ r, s.plat.rollback = some r → r ≠ 16 * k + i → ∃ t, exec (.mailboxRollback k i) s = .next t ∧ apart s t ∧ answered t 3) ∧
        (s.plat.rollback = none →
          ((∀ j < 2, (s.gens.slot j).state = 3 → (s.gens.slot j).g ≠ (s.getBox k i).arg0.extractLsb' 0 32) →
            ∃ t, exec (.mailboxRollback k i) s = .next t ∧ apart s t ∧ answered t 1) ∧
          (∀ j u, let w : State := { s with plat := { s.plat with rollback := some (16 * k + i) } }
            let bs := w.rollBlocks j (s.getBox k i).arg1
            s.drainedSlot ((s.getBox k i).arg0.extractLsb' 0 32) = some j → w.rollAll j bs = (u, true) → u.stk = s.stk →
            (∀ h ∈ s.hart :: s.harts, h.lamp = true ∨ ∀ q ∈ bs, (s.getCtx h.ctxKey).mapsBlock q.1 = false) →
            ∃ t, exec (.mailboxRollback k i) s = .next t ∧ t.mem = u.mem ∧ t.plat.rollback = none ∧
              answered t (BitVec.ofNat 64 (256 * (bs.filter (fun q => decide ((u.getBlock j q.1).st = .LO))).length))))))

/-! ## Events: nodes, gangs and submissions -/

namespace Sys2Proof.Claims

/-- A node's work has ended with a code (R416): its completion is posted. -/
def ended (t : State) (n : Node) (code : BitVec 4) : Prop :=
  posted t (.nodeComplete n.id) ∧ ∃ m, t.nodeAt n.id = some m ∧ m.phase = 1 ∧ m.code = code

/-- The coordinator has aborted a gang (R420, R421): its READYs are forgotten, and every participant that had sent one is told. -/
def aborted (s t : State) (g : Gang) : Prop :=
  t.gangOf g.vf g.gang =
    some { g with readys := [], acks := [], started := false, aborts := g.aborts + 1, attempt := g.attempt + 1 } ∧ (t.getVf g.vf).gab = true ∧
  t.nodes = s.nodes ∧ ∀ i ∈ g.readys, s.nodeAt i ≠ none → posted t (.gangAbort i)

/-- The low bits of an error queue entry's word (R430). -/
def errEntry (cls vf low : Nat) : W64 := BitVec.ofNat 64 (2 ^ 63 + cls * 2 ^ 56 + vf * 2 ^ 50 + low % 2 ^ 48)

end Sys2Proof.Claims

/-- R414, R423: a decrement lowers the count of its node, which may fire at 0; one past 0 is an error; one for no node is kept, or refused
where 1,024 are kept; a refused sender waits, twice as long each time, up to 64 times `bkoff`, and sends its entries again. -/
def Sys2Proof.Claims.Decrements : Prop :=
  (∀ (s : State) (src k vf tag : Nat), src < 16 → k < 16 → tag < 2 ^ 32 → s.decOut = [(src, k, vf, tag)] →
    (s.getSender src ((16 * src + k) * 2 + 1)).waiting = false → s.fenced k = false →
    (∀ n, s.nodes.find? (fun n => decide (n.home = k) && decide (n.vf = vf) && decide (n.tag = tag)) = some n → s.nodeAt n.id = some n →
      (n.count = 0 → ∃ t, exec (.decrementArrival k vf tag) s = .next t ∧ apart s t ∧ t.decOut = [] ∧ t.nodes = s.nodes ∧
        (t.getStk k).errq = (s.getStk k).errq ++ [errEntry 2 vf tag]) ∧
      (0 < n.count → ∃ t, exec (.decrementArrival k vf tag) s = .next t ∧ apart s t ∧ t.decOut = [] ∧
        t.nodeAt n.id = some { n with count := n.count - 1 } ∧ (n.count = 1 → posted t (.nodeFire n.id)))) ∧
    (s.nodes.find? (fun n => decide (n.home = k) && decide (n.vf = vf) && decide (n.tag = tag)) = none →
      ((s.getStk k).decs.length < 1024 → ∃ t, exec (.decrementArrival k vf tag) s = .next t ∧ apart s t ∧ t.decOut = [] ∧
        t.nodes = s.nodes ∧ (t.getStk k).decs = (s.getStk k).decs ++ [(vf, tag)]) ∧
      (1024 ≤ (s.getStk k).decs.length → ∃ t, exec (.decrementArrival k vf tag) s = .next t ∧ apart s t ∧ t.decOut = s.decOut ∧
        posted t (.nakReceived ((16 * src + k) * 2 + 1)) ∧ t.stk = s.stk))) ∧
  (∀ (s : State) (x : Nat),
    let k := senderStack x
    let d := s.getSender k x
    (d.waiting = false → ∃ t, exec (.nakReceived x) s = .next t ∧ apart s t ∧ posted t (.replayBackoffExpiry x) ∧
      t.getSender k x = { naks := d.naks + 1, resendAt := s.tick + BitVec.ofNat 64 (max 1 (s.getStk k).bkoff.toNat * 2 ^ min d.naks 6), waiting := true }) ∧
    (d.waiting = true → s.tick.toNat < d.resendAt.toNat → ∃ t, exec (.replayBackoffExpiry x) s = .next t ∧ apart s t ∧
      posted t (.replayBackoffExpiry x) ∧ t.stk = s.stk) ∧
    (d.waiting = true → d.resendAt.toNat ≤ s.tick.toNat → ∃ t, exec (.replayBackoffExpiry x) s = .next t ∧ apart s t ∧
      t.getSender k x = { d with waiting := false } ∧
      (x < 2 ^ 80 → x % 2 = 0 → ∀ v ∈ s.invs, v.st = .sent → s.invSender v = x → posted t (.invocationArrival v.id)) ∧
      (x < 2 ^ 80 → x % 2 = 1 → ∀ q ∈ s.decOut, (16 * q.1 + q.2.1) * 2 + 1 = x → posted t (.decrementArrival q.2.1 q.2.2.1 q.2.2.2))))

/-- R415 to R420: a node with count 0 becomes READY once its buffers are, waits while one is not, and ends with FAULT where one fails; the
first READY node whose grant the binding is runs on it, or reserves it for its gang. -/
def Sys2Proof.Claims.NodeStarts : Prop :=
  ∀ (s u : State) (n : Node), s.nodeAt n.id = some n → n.phase = 0 →
    (n.count = 0 → n.st = .waiting ∨ n.st = .blocked → u.nodes = s.nodes →
      (s.buffersOf n (upto 8) = (u, .ready) → ∃ t b, exec (.nodeFire n.id) s = .next t ∧ t.mem = u.mem ∧ posted t (.nodeDispatch n.home b) ∧
        t.nodeAt n.id = some { n with st := .ready, since := u.tick }) ∧
      (s.buffersOf n (upto 8) = (u, .unmet) → ∃ t, exec (.nodeFire n.id) s = .next t ∧ t.mem = u.mem ∧ posted t (.nodeFire n.id) ∧
        t.nodeAt n.id = some { n with st := .blocked }) ∧
      (∀ c, s.buffersOf n (upto 8) = (u, .fault c) → ∃ t, exec (.nodeFire n.id) s = .next t ∧ t.mem = u.mem ∧ ended t n 3)) ∧
    (∀ (l : List Node) (b : W64) (h : Hart), s.dispatchable n.home = n :: l → n.st = .ready → n.kind = 0 → s.grantFits n b = true →
      s.grantable n = true →
      (n.gang = 0 → s.loadImage n (s.nodeHart n b) = (u, .hart h) → u.nodes = s.nodes → ∃ t, exec (.nodeDispatch n.home b) s = .next t ∧
        t.mem = u.mem ∧ t.hart = u.hart ∧ (∃ i, { h with hid := i } ∈ t.harts) ∧ t.nodeAt n.id = some { n with bind := none, skipAt := none, st := .running, core := h.place }) ∧
      (n.gang ≠ 0 → (∀ g, s.gangOf n.vf n.gang = some g → g.aborts < 4) → ∃ t, exec (.nodeDispatch n.home b) s = .next t ∧ apart s t ∧
        posted t (if s.gangAway then .gangStart n.id else .gangReady n.id) ∧ posted t (.gangTimeout n.id) ∧ t.nodeAt n.id =
          some { n with bind := some b, gst := .readySent, sentAt := s.tick, attempt := ((s.gangOf n.vf n.gang).map (·.attempt)).getD 0 }))

/-- R415, R418, R424, R429: the scheduling tick tries the blocked nodes and the dispatch again; a node at the highest priority that has been
skipped for 256 µs gets the reservation of its stack, unless another has it. -/
def Sys2Proof.Claims.Scheduling : Prop :=
  ∀ (s : State) (k q : Nat),
    (s.fenced k = true → exec (.schedulingTick k) s = .next s) ∧
    (s.fenced k = false → (k = 0 → ∀ e ∈ s.vfs, e.2.fetched = 0) → ∃ t, exec (.schedulingTick k) s = .next t ∧ apart s t ∧ t.nodes = s.nodes ∧
      (∀ n ∈ s.nodes, n.home = k → n.st = .blocked → posted t (.nodeFire n.id)) ∧
      (s.dispatchable k ≠ [] → posted t (.schedulingTick k) ∧ ∃ b, posted t (.nodeDispatch k b))) ∧
    (s.dispatchable k = [] → exec (.nodeDispatch k 0) s = .next s ∧ exec (.reservationOpen k q) s = .next s) ∧
    (∀ n x, s.dispatchable k = [n] → n.skipAt = some x →
      (s.prioOf n = 15 → x.toNat + 256000 ≤ s.tick.toNat → (s.getStk k).resv = none → ∃ t, exec (.reservationOpen k q) s = .next t ∧
        apart s t ∧ t.nodes = s.nodes ∧ (t.getStk k).resv = some (n.id, 128 * k + q % 128)) ∧
      (s.prioOf n ≠ 15 ∨ s.tick.toNat < x.toNat + 256000 → exec (.reservationOpen k q) s = .next s))

/-- R414, R416, R430: a node that ends reports its arrival, then enters the completion queue with its kind, VF, tag and code, then sends its
decrements, and leaves its pool. -/
def Sys2Proof.Claims.NodeCompletion : Prop :=
  ∀ (s : State) (n : Node), s.nodeAt n.id = some n →
    (n.phase = 1 → n.cell = 0 → ∃ t, exec (.nodeComplete n.id) s = .next t ∧ apart s t ∧ posted t (.nodeComplete n.id) ∧
      t.nodeAt n.id = some { n with phase := 2 } ∧ t.signals = s.signals) ∧
    (n.phase = 2 → s.signalled n.id = true → ∃ t, exec (.nodeComplete n.id) s = .next t ∧ apart s t ∧ posted t (.nodeComplete n.id) ∧
      t.nodes = s.nodes) ∧
    (n.phase = 2 → s.signalled n.id = false → ∃ t, exec (.nodeComplete n.id) s = .next t ∧ apart s t ∧ posted t (.nodeComplete n.id) ∧
      t.nodeAt n.id = some { n with phase := 3 } ∧
      (t.getStk n.home).compl = (s.getStk n.home).compl ++ [BitVec.ofNat 64 (2 ^ 63 + n.kind * 2 ^ 60 + n.vf * 2 ^ 54 + n.tag * 2 ^ 22 +
        n.code.toNat * 2 ^ 18 + n.ecode.toNat * 2 ^ 14 + (if n.kind = 0 then n.core else 0))]) ∧
    (n.phase = 3 → n.nsucc = 0 → ∃ t, exec (.nodeComplete n.id) s = .next t ∧ apart s t ∧ t.nodeAt n.id = none ∧ t.decOut = s.decOut ∧
      posted t (.schedulingTick n.home)) ∧
    (∀ u e, n.phase = 3 → n.nsucc = 1 → s.readVa n.who (s.getCtx n.ctx) n.slist 8 = (u, .ok e) → u.decsFull n.home (e / 2 ^ 32 % 16) = true →
      ∃ t, exec (.nodeComplete n.id) s = .next t ∧ t.mem = u.mem ∧ t.decOut = u.decOut ∧ posted t (.nodeComplete n.id)) ∧
    (∀ u e, n.phase = 3 → n.nsucc = 1 → s.readVa n.who (s.getCtx n.ctx) n.slist 8 = (u, .ok e) → u.decsFull n.home (e / 2 ^ 32 % 16) = false → ∃ t, exec (.nodeComplete n.id) s = .next t ∧
      t.mem = u.mem ∧ t.nodeAt n.id = none ∧ t.decOut = u.decOut ++ [(n.home, e / 2 ^ 32 % 16, n.vf, e % 2 ^ 32)] ∧
      posted t (.decrementArrival (e / 2 ^ 32 % 16) n.vf (e % 2 ^ 32)))

/-- R420: READY, START, ACK and GO of a gang: the last READY sets the start tick T, one `glead` ahead, and starts every participant; a
participant with its reservation answers ACK in time, else NAY; the last ACK sends GO; one that gets GO before T starts at T with its
work, and a later one says so. Where another part has the coordinator, its START and its answers are free (log 65). -/
def Sys2Proof.Claims.GangStarts : Prop :=
  ∀ (s : State) (n : Node) (g : Gang), s.gangFor n.id = some (n, g) →
    let lead := 1000 * (s.getStk g.coord).glead.toNat
    let marg (k : Nat) := 1000 * min (s.getStk k).glead.toNat (s.getStk k).gmarg.toNat
    (s.gangAway = true → exec (.gangReady n.id) s = .next s ∧ exec (.gangAck n.id) s = .next s ∧
      (n.gst = .readySent → n.attempt = g.attempt → g.started = true →
        (∀ m ∈ s.gangNodes n.vf n.gang, m.gst ≠ .none ∧ m.attempt = g.attempt) →
        (s.tick.toNat + marg n.home < g.t.toNat ∧ (n.bind.isSome = true ∨ n.kind ≠ 0) → ∃ t, exec (.gangStart n.id) s = .next t ∧ apart s t ∧
          t.nodeAt n.id = some { n with gst := .acked, startT := g.t }) ∧
        (¬ (s.tick.toNat + marg n.home < g.t.toNat ∧ (n.bind.isSome = true ∨ n.kind ≠ 0)) → ∃ t, exec (.gangStart n.id) s = .next t ∧ apart s t ∧
          t.nodes = s.nodes ∧ ∀ m ∈ s.gangNodes n.vf n.gang, posted t (.gangAbort m.id)))) ∧
    (s.gangAway = false → n.gst = .readySent → nmem n.id g.readys = false →
      (n.phase = 0 → n.gsize ≤ g.readys.length → ∃ t, exec (.gangReady n.id) s = .next t ∧ t.mem = s.mem ∧ ended t n 4) ∧
      (g.readys.length + 1 < n.gsize → ∃ t, exec (.gangReady n.id) s = .next t ∧ apart s t ∧ t.nodes = s.nodes ∧
        t.gangOf g.vf g.gang = some { g with readys := g.readys ++ [n.id] }) ∧
      (g.readys.length + 1 = n.gsize → ∃ t, exec (.gangReady n.id) s = .next t ∧ apart s t ∧ t.nodes = s.nodes ∧
        t.gangOf g.vf g.gang = some { g with readys := g.readys ++ [n.id], t := s.tick + BitVec.ofNat 64 lead, started := true } ∧
        posted t (.gangAckDeadline g.vf g.gang) ∧ ∀ i ∈ g.readys ++ [n.id], s.nodeAt i ≠ none → posted t (.gangStart i))) ∧
    (s.gangAway = false → n.gst = .readySent → g.started = true →
      (s.tick.toNat + marg n.home < g.t.toNat → n.bind.isSome = true ∨ n.kind ≠ 0 → ∃ t, exec (.gangStart n.id) s = .next t ∧ apart s t ∧
        posted t (.gangAck n.id) ∧ t.nodeAt n.id = some { n with gst := .acked, startT := g.t }) ∧
      (g.t.toNat ≤ s.tick.toNat + marg n.home ∨ (n.bind = none ∧ n.kind = 0) → ∃ t, exec (.gangStart n.id) s = .next t ∧ apart s t ∧
        posted t (.gangNay n.id) ∧ t.nodes = s.nodes)) ∧
    (n.gst = .acked → g.started = true →
      (s.gangAway = false → nmem n.id g.acks = false → s.tick.toNat + marg g.coord / 2 < g.t.toNat →
        (g.acks.length + 1 < g.readys.length → ∃ t, exec (.gangAck n.id) s = .next t ∧ apart s t ∧ t.nodes = s.nodes ∧
          t.gangOf g.vf g.gang = some { g with acks := g.acks ++ [n.id] }) ∧
        (g.readys.length ≤ g.acks.length + 1 → ∃ t, exec (.gangAck n.id) s = .next t ∧ apart s t ∧ t.nodes = s.nodes ∧
          ∀ i ∈ g.acks ++ [n.id], s.nodeAt i ≠ none → posted t (.gangGo i))) ∧
      (s.tick.toNat < n.startT.toNat → (∃ t, exec (.gangGo n.id) s = .next t ∧ apart s t ∧ posted t (.gangStartTick n.id) ∧ t.nodes = s.nodes) ∧
        ∃ t, exec (.gangStartTick n.id) s = .next t ∧ apart s t ∧ posted t (.gangStartTick n.id) ∧ t.nodes = s.nodes) ∧
      (n.startT.toNat ≤ s.tick.toNat → (∃ t, exec (.gangGo n.id) s = .next t ∧ apart s t ∧ posted t (.gangLate n.id) ∧ t.nodes = s.nodes) ∧
        ∀ u h, n.kind = 0 → s.loadImage n (s.nodeHart n (n.bind.getD 0)) = (u, .hart h) → u.nodes = s.nodes →
          ∃ t, exec (.gangStartTick n.id) s = .next t ∧ t.mem = u.mem ∧ (∃ i, { h with hid := i } ∈ t.harts) ∧
            t.nodeAt n.id = some { n with bind := none, skipAt := none, st := .running, core := h.place, gst := .started }))

/-- R420, R421: a NAY, an ACK missing at T less half of `gmarg`, and a LATE abort the gang; a participant that is told, or that waited four
`glead` for its START, is READY again, and ends with GABORT after four aborts. -/
def Sys2Proof.Claims.GangAborts : Prop :=
  ∀ (s : State) (n : Node) (g : Gang), s.gangFor n.id = some (n, g) →
    let lead := 1000 * (s.getStk n.home).glead.toNat
    let marg := 1000 * min (s.getStk g.coord).glead.toNat (s.getStk g.coord).gmarg.toNat
    let back (t : State) (k : Nat) : Prop := if 4 ≤ k then ended t n 4 else
      t.nodeAt n.id = some { n with bind := none, gst := .none, st := .ready, since := s.tick } ∧ ∃ b, posted t (.nodeDispatch n.home b)
    (g.started = true → s.gangAway = true → (∃ t, exec (.gangLate n.id) s = .next t ∧ apart s t ∧ t.nodes = s.nodes ∧
        ∀ m ∈ s.gangNodes n.vf n.gang, posted t (.gangAbort m.id)) ∧
      exec (.gangNay n.id) s = .next s ∧ exec (.gangAckDeadline g.vf g.gang) s = .next s) ∧
    (g.started = true → s.gangAway = false →
      (nmem n.id g.readys = true → ∃ t, exec (.gangNay n.id) s = .next t ∧ apart s t ∧ aborted s t g) ∧
      (nmem n.id g.readys = false → exec (.gangNay n.id) s = .next s) ∧
      (s.tick.toNat + marg / 2 < g.t.toNat → ∃ t, exec (.gangAckDeadline g.vf g.gang) s = .next t ∧ apart s t ∧
        posted t (.gangAckDeadline g.vf g.gang) ∧ t.gangs = s.gangs) ∧
      (g.t.toNat ≤ s.tick.toNat + marg / 2 →
        (g.acks.length < g.readys.length → ∃ t, exec (.gangAckDeadline g.vf g.gang) s = .next t ∧ apart s t ∧ aborted s t g) ∧
        (g.readys.length ≤ g.acks.length → exec (.gangAckDeadline g.vf g.gang) s = .next s)) ∧
      (∃ t, exec (.gangLate n.id) s = .next t ∧ apart s t ∧ aborted s t g ∧ errEntry 1 g.vf n.tag ∈ (t.getStk g.coord).errq)) ∧
    (n.phase = 0 → n.gst = .readySent ∨ n.gst = .acked → ∃ t, exec (.gangAbort n.id) s = .next t ∧ apart s t ∧
      back t (if s.gangAway = true ∧ n.attempt = g.attempt then g.aborts + 1 else g.aborts)) ∧
    (n.phase = 0 → n.gst = .none → exec (.gangAbort n.id) s = .next s) ∧
    (n.phase = 0 → n.gst = .readySent → g.started = false →
      (s.tick.toNat < n.sentAt.toNat + 4 * lead → ∃ t, exec (.gangTimeout n.id) s = .next t ∧ apart s t ∧ posted t (.gangTimeout n.id) ∧
        t.gangs = s.gangs ∧ t.nodes = s.nodes) ∧
      (n.sentAt.toNat + 4 * lead ≤ s.tick.toNat → ∃ t, exec (.gangTimeout n.id) s = .next t ∧ apart s t ∧
        back t (if n.attempt = g.attempt then g.aborts + 1 else g.aborts) ∧
        (t.getVf n.vf).gab = true ∧ ∃ h, t.gangOf g.vf g.gang = some h ∧
          h.aborts = (if n.attempt = g.attempt then g.aborts + 1 else g.aborts) ∧ nmem n.id h.readys = false))

/-- R427 to R429: a write of QSUB is numbered and queued, or, past 256 entries, refused and counted; a write of QSTAT clears the bits it
names, and at sup or mon frees the entries up to its number. -/
def Obligations.SubmissionBlocks : Prop :=
  ∀ (s : State) (f : Nat) (v : W64),
    let q := s.getVf f
    (q.flr = false → q.entries.length < 256 → ∃ t, exec (.qsubWrite f v) s = .next t ∧ apart s t ∧
      t.getVf f = { q with next := q.next + 1, entries := q.entries ++ [(q.next.toNat, v)] }) ∧
    (q.flr = false → 256 ≤ q.entries.length → ∃ t, exec (.qsubWrite f v) s = .next t ∧ apart s t ∧ (t.getVf f).entries = q.entries ∧
      (t.getVf f).ovf = true ∧ (t.getVf f).next = q.next + 1 ∧ (t.getVf f).lost = (if q.ovf then q.lost else q.next) ∧
      (t.getStk 0).errq = (s.getStk 0).errq ++ [errEntry 3 f 0]) ∧
    (∃ t, exec (.qstatWrite f v 0) s = .next t ∧ apart s t ∧
      t.getVf f = { q with ovf := q.ovf && !v.getLsbD 9, rfail := q.rfail && !v.getLsbD 12, gab := q.gab && !v.getLsbD 13 }) ∧
    (∀ l : BitVec 2, l = 1 ∨ l = 3 → ∃ t, exec (.qstatWrite f v l) s = .next t ∧ apart s t ∧ (t.getVf f).cons = v.extractLsb' 32 16 ∧
      ∀ e, e ∈ (t.getVf f).entries ↔ e ∈ q.entries ∧ 256 ≤ (v.extractLsb' 32 16 - BitVec.ofNat 16 e.1).toNat)

/-! ## Events: copies, barrier arrivals and matrix operations -/

/-- R132, R347, R380, R381, R422, R505: an accepted copy arms its cell, then begins: its bytes are cut at the 128-byte lines of their
destination, those of the 0xA window at their registers, and its stack's round gives its class its weight of chunks, at most 16 in flight, and
class 3 serves the drains beside its copies; a copy with a buffer end waits for room, and one that was ended before moves nothing. -/
def Sys2Proof.Claims.CopyStarts : Prop :=
  (∀ (d r n : Nat), let l := chunksOf none none 0 [(d, r, n)]
    (inDev d = false → inDev r = false →
      (∀ c ∈ l, ∀ p ∈ c, 0 < p.2.2 ∧ p.1 / 128 = (p.1 + p.2.2 - 1) / 128 ∧ p.2.1 + d = p.1 + r) ∧ (l.map (fun c => (c.map (·.2.2)).sum)).sum = n) ∧
    (inDev d = true ∨ inDev r = true → l = (upto (n / 8)).map (fun i => [(d + 8 * i, r + 8 * i, 8)]))) ∧
  (∀ (s u : State) (c : Copy) (d r n : Nat), s.copyAt c.id = some c → c.segs = [(d, r, n)] → c.chunks = [] →
    (c.st = .sent → c.arr = 0 →
      (c.code ≠ 0 → c.pushBank = none → c.popBank = none → ∃ t, exec (.copyAccept c.id) s = .next t ∧ apart s t ∧ posted t (.copyComplete c.id) ∧
        t.copyAt c.id = some { c with st := .finishing, moved := 0 }) ∧
      (∀ ia, c.code = 0 → c.barrier = some ia → ∃ t, exec (.copyAccept c.id) s = .next t ∧ apart s t ∧ posted t (.barrierArm c.id) ∧
        t.copyAt c.id = some { c with arr := s.nextId }) ∧
      (c.code = 0 → c.barrier = none → chunksOf none none 0 c.segs ≠ [] → s.bufferEnd d = none → s.bufferEnd r = none → ∃ t, exec (.copyAccept c.id) s = .next t ∧ apart s t ∧
        posted t (.copyClassRound c.stack) ∧
        t.copyAt c.id = some { c with arr := s.nextId, armed := true, st := .moving, chunks := chunksOf none none 0 c.segs })) ∧
    (∀ ia, c.barrier = some ia → c.armed = false → c.arr ≠ 0 → u.copies = s.copies →
      (s.engineCell c.who ia (s.copyTag c) (fun b => b.arm c.total) = (u, false) → ∃ t, exec (.barrierArm c.id) s = .next t ∧ t.mem = u.mem ∧
        posted t (.barrierArm c.id) ∧ t.copies = s.copies) ∧
      (s.engineCell c.who ia (s.copyTag c) (fun b => b.arm c.total) = (u, true) → c.code = 0 → chunksOf none none 0 c.segs ≠ [] → u.bufferEnd d = none → u.bufferEnd r = none →
        ∃ t, exec (.barrierArm c.id) s = .next t ∧ t.mem = u.mem ∧ posted t (.copyClassRound c.stack) ∧
          t.copyAt c.id = some { c with armed := true, st := .moving, chunks := chunksOf none none 0 c.segs })) ∧
    (∀ b z, c.st = .waiting → c.code = 0 → c.pushBank = some (b, z) → c.popBank = none →
      let k := s.getBank (b / 32) (b % 32)
      let h := s.header (b / 32) (b % 32)
      (k.mode = 2 → k.busy = false → c.total / z ≤ h.free → ∃ t, exec (.copyBufferReady c.id) s = .next t ∧
        (chunksOf (some (h.ring b h.prod)) none 0 c.segs ≠ [] → apart s t ∧ posted t (.copyClassRound c.stack) ∧
          t.copyAt c.id = some { c with st := .moving, chunks := chunksOf (some (h.ring b h.prod)) none 0 c.segs })) ∧
      (k.mode = 2 → k.busy = false → h.free < c.total / z → ∃ t, exec (.copyBufferReady c.id) s = .next t ∧ apart s t ∧
        posted t (.copyBufferReady c.id) ∧ t.copies = s.copies) ∧
      (k.mode ≠ 2 ∨ k.busy = true → ∃ t, exec (.copyBufferReady c.id) s = .next t ∧ apart s t ∧ posted t (.copyComplete c.id) ∧
        t.copyAt c.id = some { c with code := 2, cause := 0x30, st := .finishing, moved := 0 }))) ∧
  (∀ (s : State) (c : Copy), s.copies = [c] → (c.cls = 3 → s.drains c.stack = []) → c.st = .moving → c.cls < 4 → c.code = 0 → c.chunks ≠ [] → c.issued = 0 → c.done = [] → c.failed = 0 →
    let w := max 1 ((s.getStk c.stack).cewgt.toNat / 2 ^ (8 * c.cls) % 256)
    let n := min (min w 16) c.chunks.length
    ∃ t, exec (.copyClassRound c.stack) s = .next t ∧ apart s t ∧ t.copies = [{ c with issued := n }] ∧
      (∀ j < n, posted t (.copyChunkComplete c.id j)) ∧ (n < c.chunks.length → posted t (.copyClassRound c.stack))) ∧
  (∀ (s : State) (k a i b : Nat), s.copies = [] → s.drains k = [(a, i, b)] →
    let e := s.getStk k
    let w := max 1 (e.cewgt.toNat / 2 ^ 24 % 256)
    (e.drained + w < 513 → ∃ t, exec (.copyClassRound k) s = .next t ∧ apart s t ∧ (t.getStk k).drained = e.drained + w ∧ t.gens = s.gens ∧
      posted t (.copyClassRound k)) ∧
    (512 ≤ e.drained → ∃ t, exec (.copyClassRound k) s = .next t ∧ apart s t ∧ (t.getStk k).drained = 0 ∧ (t.gens.slot i).visit = none ∧
      posted t (.drainVisit i b)))

/-- R162, R164, R190, R347, R381, R382: a chunk is read and written, or its fault stops the copy; the bytes moved are taken from the cell, at most
4 KiB at a time; a copy that is done arrives with the bytes it did not move, then binds its status and frees its number. -/
def Sys2Proof.Claims.CopyMoves : Prop :=
  ∀ (s u v : State) (c : Copy), s.copyAt c.id = some c →
    (∀ j d r n, c.st = .moving → c.dev = false → inDev d = false → inDev r = false → j < c.issued → nmem j c.done = false →
      c.chunks.getD j [] = [(d, r, n)] → c.barrier = none →
      c.pushBank = none → c.popBank = none → u.copies = s.copies → v.copies = s.copies →
      (s.engineRead c.who r n = (u, .hold) → ∃ t, exec (.copyChunkComplete c.id j) s = .next t ∧ t.mem = u.mem ∧ t.copies = s.copies ∧
        posted t (.copyChunkComplete c.id j)) ∧
      (∀ f, s.engineRead c.who r n = (u, .fault f) → c.code = 0 → ∃ t q, exec (.copyChunkComplete c.id j) s = .next t ∧ t.mem = u.mem ∧
        t.copyAt c.id = some q ∧ q.code = 2 ∧ q.cause = f.code ∧ q.done = c.done ∧ q.failed = c.failed + 1) ∧
      (∀ l, s.engineRead c.who r n = (u, .ok l) → (∀ b ∈ l, b.2 = none) → u.engineWrite c.who d (l.map (·.1)) (u.copyTag c) = (v, .ok ()) →
        ∃ t q, exec (.copyChunkComplete c.id j) s = .next t ∧ t.mem = v.mem ∧ t.copyAt c.id = some q ∧ q.done = nins j c.done ∧
          q.code = c.code ∧ q.cause = c.cause ∧ q.psn = c.psn ∧
          (c.issued = c.chunks.length → c.done.length + 1 = c.issued → c.failed = 0 → posted t (.copyComplete c.id) ∧ q.st = .finishing))) ∧
    (∀ ia, c.barrier = some ia → c.sent = false →
      (c.prefixLen ≤ c.taken → exec (.barrierTake c.id) s = .next s) ∧
      (c.rel = true → c.st = .moving → s.behindCopies c = false → exec (.barrierTake c.id) s = .next s) ∧
      (c.taken < c.prefixLen → s.behindCopies c = false → c.rel = false ∨ c.st ≠ .moving → s.cmdReleased c.rel c.place c.id = (v, true) →
        v.engineCell c.who ia (v.copyTag c) (fun b => (b.update 0 (min 4096 (c.prefixLen - c.taken)) false v.tick).word) = (u, true) → u.copies = s.copies →
        ∃ t, exec (.barrierTake c.id) s = .next t ∧ t.mem = u.mem ∧
          t.copyAt c.id = some { c with taken := c.taken + min 4096 (c.prefixLen - c.taken) } ∧
          (4096 < c.prefixLen - c.taken → posted t (.barrierTake c.id)))) ∧
    (c.st = .finishing → c.sent = false → s.behindCopies c = false → s.cmdReleased c.rel c.place c.id = (u, false) →
      ∃ t, exec (.copyComplete c.id) s = .next t ∧ t.mem = u.mem ∧ t.copies = u.copies ∧ posted t (.copyComplete c.id)) ∧
    (c.st = .finishing → c.sent = false → s.behindCopies c = false → s.cmdReleased c.rel c.place c.id = (u, true) → u.copies = s.copies →
      (c.barrier = none → ∃ t, exec (.copyComplete c.id) s = .next t ∧ apart u t ∧ posted t (.copyComplete c.id) ∧
        t.copyAt c.id = some { c with sent := true }) ∧
      (∀ ia, c.barrier = some ia → c.taken < c.moved → ∃ t, exec (.copyComplete c.id) s = .next t ∧ apart u t ∧ posted t (.barrierTake c.id) ∧
        posted t (.copyComplete c.id) ∧ t.copies = s.copies) ∧
      (∀ ia, c.barrier = some ia → c.moved ≤ c.taken → c.armed = true → ∃ t g, exec (.copyComplete c.id) s = .next t ∧ apart u t ∧
        t.copyAt c.id = some { c with sent := true } ∧ t.signals = u.signals ++ [g] ∧ posted t (.barrierArrive g.id) ∧ g.ia = ia ∧
        g.d = c.total - c.moved ∧ g.f = decide (c.code ≠ 0) ∧ g.owner = c.id)) ∧
    (∀ p k, c.st = .finishing → c.sent = true → s.signalled c.id = false → c.saved = none → c.place = some p → c.slot = some k →
      s.resolve p k (BitVec.ofNat 64 (c.code.toNat + 16 * b2n c.psn + 256 * c.cause + 2 ^ 16 * c.moved)) = some u → u.hart.place = p →
      ∃ t, exec (.copyComplete c.id) s = .next t ∧ t.mem = u.mem ∧ t.copyAt c.id = none ∧ t.hart.cmds = nrem c.cnum u.hart.cmds ∧
        t.hart.x = u.hart.x ∧ t.hart.latch = true)

/-- R76, R347: an arrival updates its cell with an arrival count of one, and its command completes; a vertical bus carries two beats in a
core cycle to the requester whose turn it is. -/
def Sys2Proof.Claims.ArrivalsAndBeats : Prop :=
  (∀ (s u : State) (g : Signal), s.signals.find? (fun q => decide (q.id = g.id)) = some g →
    (s.engineCell (engineWho g.unit g.stack g.lvl g.vf g.ctx) g.ia (genMax g.tag (s.unitGen g.unit)) (fun b => (b.update 1 g.d g.f s.tick).word) = (u, true) →
      ∃ t, exec (.barrierArrive g.id) s = .next t ∧ t.mem = u.mem ∧ (∀ q ∈ t.signals, q.id ≠ g.id) ∧
        ((∃ c ∈ u.copies, c.id = g.owner) → posted t (.copyComplete g.owner)) ∧
        ((∀ c ∈ u.copies, c.id ≠ g.owner) → (∃ m ∈ u.mops, m.id = g.owner) → posted t (.matrixOpComplete g.owner))) ∧
    (s.engineCell (engineWho g.unit g.stack g.lvl g.vf g.ctx) g.ia (genMax g.tag (s.unitGen g.unit)) (fun b => (b.update 1 g.d g.f s.tick).word) = (u, false) →
      ∃ t, exec (.barrierArrive g.id) s = .next t ∧ t.mem = u.mem ∧ t.signals = u.signals ∧ posted t (.barrierArrive g.id))) ∧
  (∀ (s : State) (o : MOp), s.mops = [o] → o.st = .waiting ∨ o.st = .running → o.arr ≠ 0 → o.pos < 9 →
    (0 < o.beats → ∃ t, exec (.vbusBeatGrant o.stack o.bay) s = .next t ∧ apart s t ∧ t.mops = [{ o with beats := o.beats - 2 }] ∧
      (2 < o.beats → posted t (.vbusBeatGrant o.stack o.bay))) ∧
    (o.beats = 0 → exec (.vbusBeatGrant o.stack o.bay) s = .next s))

namespace Sys2Proof.Claims

/-- A matrix operation, alone at its bay and arrived there, has ended with a status word (R376). -/
def opEnded (t : State) (o : MOp) (w : W64) : Prop :=
  t.mops = [{ o with st := .ended, word := w }] ∧ posted t (.matrixOpComplete o.id)

/-- The status word of R376 with a code, the operation, flags and a cause. -/
def opWord (code sub flags cause : Nat) : W64 := BitVec.ofNat 64 (code + 16 * sub + 256 * flags + 2 ^ 16 * cause)

end Sys2Proof.Claims

/-- R363, R364, R366, R367, R369, R370, R376: a layer-load makes the descriptors of its slots invalid, moves its bytes and writes its own
descriptor; an MMA whose slot is not loaded, or of another shape, ends; else it reads its A operand in beats of a row and adds the products
to its tile; MMAZ sets its tile to 0. -/
def Sys2Proof.Claims.LayerLoadsAndProducts : Prop :=
  ∀ (s u : State) (o : MOp), s.mops = [o] → o.arr ≠ 0 →
    let key := (64 * o.stack + o.bay) * 64
    let base := 2 ^ 45 + 2 ^ 28 * o.stack + 2 ^ 22 * o.bay + 65536 * o.slot
    let d := s.getSlot (key + o.slot)
    let e := loadExtent o.k o.n o.fmt o.mx
    (o.sub = 1 →
      (o.st = .waiting → ∃ t, exec (.mldwBay o.id) s = .next t ∧ apart s t ∧ posted t (.mldwBay o.id) ∧ t.mops = [{ o with st := .running }] ∧
        ∀ j < 64, j < o.slot + o.units → o.slot < j + (s.getSlot (key + j)).units → (t.getSlot (key + j)).valid = false) ∧
      (∀ l, o.st = .running → o.prog < e → u.mops = s.mops → memoryClean u →
        s.engineRead o.who (o.ia + o.prog) (min (e - o.prog) (128 - (o.ia + o.prog) % 128)) = (u, .ok l) → l.length = min (e - o.prog) (128 - (o.ia + o.prog) % 128) →
        (∀ b ∈ l, b.2 = none) → ∃ t, exec (.mldwBay o.id) s = .next t ∧ posted t (.mldwBay o.id) ∧ t.mops = [{ o with prog := o.prog + l.length }] ∧
          ∀ i < l.length, memGet t.mem (base + o.prog + i) = (l.getD i (0, none)).1) ∧
      (o.st = .running → e ≤ o.prog → o.beats = 0 → ∃ t, exec (.mldwBay o.id) s = .next t ∧ apart s t ∧ opEnded t o (opWord 0 1 0 0) ∧
        t.getSlot (key + o.slot) = { valid := true, fmt := o.fmt, k := o.k, n := o.n, mx := o.mx, units := o.units, wby := o.place })) ∧
    (o.sub = 8 ∨ o.sub = 9 → o.st = .waiting →
      (d.valid = false → ∃ t, exec (.mmaBay o.id) s = .next t ∧ apart s t ∧ opEnded t o (opWord 5 o.sub 0 0) ∧ t.tiles = s.tiles) ∧
      (d.valid = true → d.k ≠ o.k ∨ d.n ≠ o.n → ∃ t, exec (.mmaBay o.id) s = .next t ∧ apart s t ∧ opEnded t o (opWord 6 o.sub 0 0) ∧ t.tiles = s.tiles) ∧
      (d.valid = true → d.k = o.k → d.n = o.n → ∃ t, exec (.mmaBay o.id) s = .next t ∧ apart s t ∧ posted t (.mmaBay o.id) ∧
        t.mops = [{ o with st := .running }] ∧ t.tiles = s.tiles)) ∧
    (o.sub = 8 ∨ o.sub = 9 → o.st = .running → o.m * (o.k * formatBits o.fmt / 8) ≤ o.prog → o.beats = 0 → s.psn = [] → o.bad = [] → o.saBad = [] →
      (s.getTile (8 * o.place + o.acc)).psn = [] → (s.getTile (8 * o.place + o.acc)).chk = false → 0 < o.n →
      ∃ t w, exec (.mmaBay o.id) s = .next t ∧ apart s t ∧ opEnded t o w ∧ w.toNat % 16 = 0 ∧ (t.getTile (8 * o.place + o.acc)).psn = [] ∧
        ∀ r c, r < o.m → c < o.n → sget 0 (t.getTile (8 * o.place + o.acc)).elems (r * o.n + c) =
          BitVec.ofNat 32 (mmaElement o.aSide (s.bSide o d) (o.tctl.getLsbD 1) r c (if o.tctl.getLsbD 0 then 1 else 32) o.k
            (sget 0 (s.getTile (8 * o.place + o.acc)).elems (r * o.n + c)).toNat).1) ∧
    (∀ l row, row = o.k * formatBits o.fmt / 8 → o.sub = 8 ∨ o.sub = 9 → o.st = .running → o.prog < o.m * row → u.mops = s.mops →
      let ia := o.ia + o.prog / row * o.pitch + o.prog % row
      let n := min (row - o.prog % row) 64
      (∃ c off, winOf s.ownPart ia = some (.sram c off) ∧ s.sramAllows c off n .amo = true) → s.engineRead o.who ia n = (u, .ok l) → (∀ b ∈ l, b.2 = none) →
      ∃ t, exec (.mmaBay o.id) s = .next t ∧ t.mem = u.mem ∧ posted t (.mmaBay o.id) ∧
        t.mops = [{ o with bytes := o.bytes ++ l.map (·.1), prog := o.prog + n }]) ∧
    (o.sub = 2 → o.st = .waiting → ∃ t, exec (.mmazBay o.id) s = .next t ∧ apart s t ∧ opEnded t o (opWord 0 2 0 0) ∧
      ∀ i, sget 0 (t.getTile (8 * o.place + o.acc)).elems i = 0 ∧ (t.getTile (8 * o.place + o.acc)).psn = [])

/-- R371 to R374, R376: MSTA converts its tile and writes it row by row; from a tile in checksum mode its bytes are held; MCHK enters the
mode with its predictions and leaves it; MVER of a tile that is not in the mode ends with NOCHK; a matrix operation that has ended leaves its
status, arrives, and frees its number. -/
def Sys2Proof.Claims.StoresAndChecksums : Prop :=
  ∀ (s u : State) (o : MOp), s.mops = [o] → o.arr ≠ 0 → o.acc < 8 →
    let key := 8 * o.place + o.acc
    let tile := s.getTile key
    (o.sub = 3 → o.st = .waiting → o.beats = 0 → tile.psn = [] →
      let made (b : List Byte) : Prop := b.length = o.m * o.n * (if o.ofmt = 0 then 4 else 2) ∧
        (o.ofmt = 0 → ∀ i < o.m * o.n, ofBytesLE ((b.drop (4 * i)).take 4) = (sget 0 tile.elems i).toNat)
      (tile.chk = false → o.on = false → ∃ t b, exec (.mstaBay o.id) s = .next t ∧ apart s t ∧ posted t (.mstaBay o.id) ∧ t.tiles = s.tiles ∧ made b ∧
        ∃ q, t.mops = [q] ∧ q.st = .running ∧ q.bytes = b ∧ q.bad = [] ∧ q.prog = 0) ∧
      (tile.chk = true → o.on = false → o.m * o.n * 4 ≤ 65536 → ∃ t b, exec (.mstaBay o.id) s = .next t ∧ apart s t ∧ t.tiles = s.tiles ∧ made b ∧
        ∃ q, t.mops = [q] ∧ q.st = .heldS ∧ q.held = true ∧ q.bytes = b)) ∧
    (o.sub = 3 → o.st = .running → o.beats = 0 → o.bad = [] → u.mops = s.mops →
      (o.prog < o.m → o.held = false → s.engineWrite o.who (o.ia + o.prog * o.pitch) ((o.bytes.drop (o.prog * (o.n * outSize o.ofmt))).take (o.n * outSize o.ofmt)) (s.mopTag o) = (u, .ok ()) →
        ∃ t, exec (.mstaBay o.id) s = .next t ∧ t.mem = u.mem ∧ posted t (.mstaBay o.id) ∧ t.mops = [{ o with prog := o.prog + 1 }]) ∧
      (o.held = true → s.commitRows o o.m 0 = (u, .ok ()) → ∃ t, exec (.mstaBay o.id) s = .next t ∧ t.mem = u.mem ∧
        opEnded t o (matWord 0 3 o.word.toNat true 0 0 0 0 0 0)) ∧
      (o.held = true → s.commitRows o o.m 0 = (u, .hold) → ∃ t, exec (.mstaBay o.id) s = .next t ∧ t.mem = s.mem ∧ t.mops = s.mops ∧
        posted t (.mstaBay o.id)) ∧
      (o.m ≤ o.prog → o.held = false → ∃ t, exec (.mstaBay o.id) s = .next t ∧ apart s t ∧ opEnded t o (opWord 0 3 o.word.toNat 0))) ∧
    (o.sub = 4 → o.st = .waiting →
      (o.on = true → ∃ t, exec (.mchkBay o.id) s = .next t ∧ apart s t ∧ opEnded t o (opWord 0 4 0 0) ∧
        t.getTile key = { tile with chk := true, pr := (t.getTile key).pr, pcs := (t.getTile key).pcs } ∧
        (∀ r < o.m, sget 0 (t.getTile key).pr r = BitVec.ofNat 32 (roundTotal ((upto o.n).map (fun c => fp32.decode (sget 0 tile.elems (r * o.n + c)).toNat)))) ∧
        (∀ c < o.n, sget 0 (t.getTile key).pcs c = BitVec.ofNat 32 (roundTotal ((upto o.m).map (fun r => fp32.decode (sget 0 tile.elems (r * o.n + c)).toNat))))) ∧
      (o.on = false → ∃ t, exec (.mchkBay o.id) s = .next t ∧ apart s t ∧ opEnded t o (opWord 0 4 0 0) ∧
        t.getTile key = { tile with chk := false, pr := [], pcs := [] })) ∧
    (o.sub = 5 →
      let judged (t : State) (w : W64) : Prop := apart s t ∧ posted t (.mverBay o.id) ∧ t.mops = [{ o with st := .running, word := w }]
      (o.st = .waiting → tile.chk = false → ∃ t, exec (.mverBay o.id) s = .next t ∧ judged t (opWord 8 5 0 0) ∧ t.tiles = s.tiles) ∧
      (o.st = .waiting → tile.chk = true → tile.psn ≠ [] → ∃ t w, exec (.mverBay o.id) s = .next t ∧ judged t w ∧ w.toNat % 16 = 3 ∧ t.tiles = s.tiles) ∧
      (o.st = .waiting → tile.chk = true → tile.psn = [] →
        let v := verify (fun r c => (sget 0 tile.elems (r * o.n + c)).toNat) (fun r => (sget 0 tile.pr r).toNat) (fun c => (sget 0 tile.pcs c).toNat)
          o.m o.n o.tol
        (v.code = 0 → ∃ t, exec (.mverBay o.id) s = .next t ∧ judged t (matWord 0 5 0 false 0 v.rows v.cols v.m v.n 0) ∧
          t.getTile key = tile.predictAll o.m o.n) ∧
        (v.code = 1 → ∃ t, exec (.mverBay o.id) s = .next t ∧ judged t (matWord 1 5 0 false 0 v.rows v.cols v.m v.n 0) ∧
          t.getTile key = { tile with elems := sset 0 tile.elems (v.m * o.n + v.n) (BitVec.ofNat 32 v.val) }.predictAll o.m o.n) ∧
        (v.code = 2 → ∃ t w, exec (.mverBay o.id) s = .next t ∧ judged t w ∧ w.toNat % 16 = 2 ∧ t.tiles = s.tiles)) ∧
      (o.st = .running → ∃ t, exec (.mverBay o.id) s = .next t ∧ apart s t ∧ opEnded t o o.word ∧ t.tiles = s.tiles)) ∧
    (o.st = .ended →
      (o.sent = false → o.barrier = none → o.place < 8256 → ∃ t, exec (.matrixOpComplete o.id) s = .next t ∧ apart s t ∧ posted t (.matrixOpComplete o.id) ∧
        t.mops = [{ o with told := true, sent := true }] ∧ (o.sub ≠ 1 → t.getTile key = { tile with last := o.word }) ∧ (o.sub = 1 → t.tiles = s.tiles)) ∧
      (∀ ia v, o.sent = false → o.told = false → o.barrier = some ia → s.cmdReleased o.rel (some o.place) o.id = (v, true) →
        v.engineWrite o.who (ia + 16) (bytesLE 8 o.word.toNat) (v.mopTag o) = (u, .ok ()) → u.mops = s.mops → (∀ q ∈ u.updates, q.owner ≠ o.id) →
        ∃ t g, exec (.matrixOpComplete o.id) s = .next t ∧ t.mem = u.mem ∧ t.mops = [{ o with told := true, sent := true }] ∧ t.signals = u.signals ++ [g] ∧
          g.ia = ia ∧ g.d = 0 ∧ g.f = decide (2 ≤ o.word.toNat % 16) ∧ g.owner = o.id) ∧
      (o.sent = true → s.signalled o.id = false → o.place = s.hart.place → ∃ t, exec (.matrixOpComplete o.id) s = .next t ∧ t.mem = s.mem ∧
        t.mops = [] ∧ t.hart.cmds = nrem o.cnum s.hart.cmds ∧ t.hart.latch = true))

/-! ## Events: pre-emption, fences and the firmware -/

/-- R298, R351, R375, R424, R425: a pre-emption request begins rung 1, ends a WFE with 2 and leaves BWAIT and CBWAIT to execute again; rung 2
begins once the hart's streams have drained, or after T1 though symbols are pending; rung 3 after T2. -/
def Sys2Proof.Claims.PreemptionRungs : Prop :=
  ∀ (s : State) (save : Nat), s.hart.lamp = false → s.ras = [] → s.lates = [] →
    let h := s.hart
    let p := s.hart.place
    let stk := s.getStk (stackOf p)
    (h.pre = none →
      let pr : Preempt := { rung := 1, since := s.tick, save := save % 2 ^ 48 / 64 * 64, t1 := 1000 * max 1 stk.t1.toNat, t2 := 1000 * max 1 stk.t2.toNat }
      ∃ t, exec (.preemptRequest p save) s = .next t ∧ t.mem = s.mem ∧ posted t (.preemptDrainDone p) ∧ posted t (.preemptT1Expiry p) ∧
        (h.wait = none → t.hart = { h with pre := some pr }) ∧
        (∀ rd d, h.wait = some (.wfe rd d) → t.hart.rx rd = .known (if rd = 0 then 0 else 2) ∧ sameRegsBut s t rd ∧ t.hart.wait = none ∧
          t.hart.pc = h.pc + 4 ∧ t.hart.pre = some pr) ∧
        (∀ rd va ph sc d, h.wait = some (.bwait rd va ph sc d) → t.hart = { h with pre := some pr, wait := none }) ∧
        (∀ rd va k sel sc d, h.wait = some (.cbwait rd va k sel sc d) → t.hart = { h with pre := some pr, wait := none })) ∧
    (∀ q : Preempt, h.pre = some q → q.rung = 1 → h.wait = none →
      let saves (t : State) : Prop := t.mem = s.mem ∧ t.hart = { h with pre := some { q with rung := 2, since := s.tick } } ∧
        posted t (.contextSaveDone p) ∧ posted t (.preemptT2Expiry p)
      (h.vq = [] → (∀ i < 16, h.slot i = .free) → ∃ t, exec (.preemptDrainDone p) s = .next t ∧ saves t) ∧
      (h.vq ≠ [] → ∃ t, exec (.preemptDrainDone p) s = .next t ∧ apart s t ∧ posted t (.preemptDrainDone p)) ∧
      (h.vq = [] → q.since.toNat + q.t1 ≤ s.tick.toNat → ∃ t, exec (.preemptT1Expiry p) s = .next t ∧ saves t) ∧
      (s.tick.toNat < q.since.toNat + q.t1 → ∃ t, exec (.preemptT1Expiry p) s = .next t ∧ apart s t ∧
        posted t (.preemptT1Expiry p))) ∧
    (∀ q : Preempt, h.pre = some q → q.rung = 2 →
      (s.tick.toNat < q.since.toNat + q.t2 → ∃ t, exec (.preemptT2Expiry p) s = .next t ∧ apart s t ∧
        posted t (.preemptT2Expiry p)) ∧
      (q.since.toNat + q.t2 ≤ s.tick.toNat → s.invs = [] → s.copies = [] → s.mops = [] →
        ∃ t, exec (.preemptT2Expiry p) s = .next t ∧ t.mem = s.mem ∧ t.hart = { h with pre := some { q with rung := 3 } } ∧ posted t (.contextSaveDone p)))

/-- R215, R216, R425, R426: a context whose area has been written leaves its core and is saved; a saved context whose area passes the checks
runs again from its PC, with its registers, on a grant of the same VLEN. -/
def Sys2Proof.Claims.SavesAndResumptions : Prop :=
  (∀ (s u v : State) (g : Hart) (q : Preempt), s.hart.pre = some q → q.rung = 2 →
    let h := s.hart
    let w := engineWho (8192 + 4 * stackOf h.place) (stackOf h.place) .sup h.vfid.toNat h.ctxKey
    (s.saveWaits h 2 = true → ∃ t, exec (.contextSaveDone h.place) s = .next t ∧ apart s t ∧ posted t (.contextSaveDone h.place)) ∧
    (s.saveWaits h 2 = false → s.releaseBoth s.me 4 = (v, false) → ∃ t, exec (.contextSaveDone h.place) s = .next t ∧ t.mem = v.mem ∧ t.hart = v.hart ∧
      posted t (.contextSaveDone h.place)) ∧
    (s.saveWaits h 2 = false → s.releaseBoth s.me 4 = (v, true) → v.writeChunks w q.save (v.unitGen w.unit) (v.areaChunks h 2) = (u, true) →
      u.hart = s.hart → u.harts = [g] →
      g.place ≠ h.place → u.nodes = s.nodes → ∃ t a, exec (.contextSaveDone h.place) s = .next t ∧ t.mem = u.mem ∧ t.hart = g ∧ t.harts = [] ∧
        a ∈ t.saved ∧ a.ia = q.save ∧ a.ctxKey = h.ctxKey ∧ a.node = h.node ∧ a.was = h ∧
        ∀ n d, h.node = some n → s.nodeAt n = some d → ∃ e, t.nodeAt n = some e ∧ e.st = .savedN ∧ e.since = u.tick)) ∧
  (∀ (s u : State) (a : Saved) (g place vlen : Nat), s.saved.find? (fun b => decide (b.ia = a.ia)) = some a → a.was.bv = false →
    stackOf place = stackOf a.was.place → place < 8192 → vlen = 1024 ∨ vlen = 2048 ∨ vlen = 4096 → place % (vlen / 1024) = 0 →
    s.coresTaken a.node place (vlen / 1024) = false → (∀ h ∈ s.hart :: s.harts, h.place ≠ place) → s.fenced (stackOf place) = false →
    let w := engineWho (8192 + 4 * stackOf place) (stackOf place) .sup a.vf a.ctxKey
    (s.readArea w a.ia = (u, .ok g) → imgOk g = true → vlen = fld g 4 2 → (∀ i < 16, imgSlot g i = .free) → u.hart = s.hart → u.harts = s.harts →
      ∃ t, exec (.contextResume a.ia place vlen) s = .next t ∧ t.mem = u.mem ∧ t.hart.place = place ∧ t.hart.pc = fldW g 8 ∧
        t.hart.vgrant = vlen ∧ t.hart.gen = u.gens.dev ∧ t.hart.wait = none ∧ t.hart.pre = none ∧ (∀ i : Fin 32, t.hart.x[i] = imgX g a.was i) ∧
        ∀ b ∈ t.saved, b.ia ≠ a.ia) ∧
    (s.readArea w a.ia = (u, .ok g) → imgOk g = false → ∃ t, exec (.contextResume a.ia place vlen) s = .next t ∧ t.mem = u.mem ∧ t.hart = u.hart ∧
      t.harts = u.harts ∧ (t.getVf a.vf).rfail = true ∧ t.saved = u.saved))

/-- R450, R453 to R456, R459, R460: a fatal error stops the part, writes the dump and shows the recovery surface; a stack's fence takes it out,
and is fatal for stack 0 or past eight; a snapshot that settles meanwhile is incomplete; a die's fence takes the die out; a ninth failure of a
flit fences its stack. -/
def Sys2Proof.Claims.FencesAndFatalErrors : Prop :=
  ∀ (s : State) (k : Nat), k < 16 →
    (∀ why, s.stopped.isSome = true → exec (.fatalError why) s = .next s) ∧
    (∀ why, s.stopped = none → why < 256 → s.fenced k = false → (∀ j < k, s.fenced j = true) → ∃ t, exec (.fatalError why) s = .next t ∧
      t.stopped = some why ∧ t.agenda = [] ∧ t.hart = s.hart ∧ t.harts = s.harts ∧ t.plat.recovery = true ∧
      (let r := tierRegion ((s.getStk k).rasdump.extractLsb' 0 28)
       (r.2 = 0 → t.mem = s.mem) ∧
       (0 < r.2 → numberAt t (2 ^ 44 + r.1 * 2 ^ 30) 4 = 0x5A314455 ∧ numberAt t (2 ^ 44 + r.1 * 2 ^ 30 + 6) 1 = k ∧
         numberAt t (2 ^ 44 + r.1 * 2 ^ 30 + 7) 1 = why ∧ numberAt t (2 ^ 44 + r.1 * 2 ^ 30 + 8) 8 = s.tick.toNat))) ∧
    (s.fenced k = true → exec (.stackFence k) s = .next s) ∧
    (s.fenced k = false → s.stopped = none →
      (k = 0 → ∃ t, exec (.stackFence k) s = .next t ∧ t.stopped = some 1) ∧
      (k ≠ 0 → 8 < popcount 16 (s.plat.fstk ||| (1#16 <<< k)).toNat → ∃ t, exec (.stackFence k) s = .next t ∧ t.stopped = some 2) ∧
      (k ≠ 0 → popcount 16 (s.plat.fstk ||| (1#16 <<< k)).toNat ≤ 8 → (∀ h ∈ s.hart :: s.harts, h.lamp = true) → s.ctxs = [] →
        stackOf s.hart.place ≠ k → s.gangs = [] → s.reqs = [] → ∃ t, exec (.stackFence k) s = .next t ∧ t.mem = s.mem ∧ t.fenced k = true ∧
          (∀ j, j ≠ k → t.fenced j = s.fenced j) ∧ t.stopped = none ∧
          ∀ i, i < 2 → s.gens.settling = some i → (t.gens.slot i).fence = true ∧ (t.gens.slot i).inc = true)) ∧
    (∀ d, d < 16 → (s.dieFenced (16 * k + d) = true → exec (.dieFence (16 * k + d)) s = .next s) ∧
      (s.dieFenced (16 * k + d) = false → (∀ h ∈ s.hart :: s.harts, h.lamp = true) → s.ctxs = [] → ∃ t, exec (.dieFence (16 * k + d)) s = .next t ∧
        t.mem = s.mem ∧ t.dieFenced (16 * k + d) = true ∧ posted t (.invocationStart (16 * k + d)))) ∧
    (∀ p, ∃ t, exec (.meshFlitCrcError k p) s = .next t ∧ t.mem = s.mem ∧ t.hart.x = s.hart.x ∧ t.hart.pc = s.hart.pc ∧
      ((t.getStk k).meshRetry = 0 ∧ 8 ≤ (s.getStk k).meshRetry ∧ posted t (.stackFence k) ∨ (t.getStk k).meshRetry = 1 ∨
        (t.getStk k).meshRetry = (s.getStk k).meshRetry + 1 ∧ (s.getStk k).meshRetry < 8))

/-- R429, R440, R441, R452, R457: a stack's firmware restarts its lamplighter harts and, on stack 0, the fetch pointers; its watchdog restarts it
`wdog` µs after the last heartbeat; a doorbell pends an interrupt, which is taken with the highest code at a scalar boundary. -/
def Sys2Proof.Claims.FirmwareAndInterrupts : Prop :=
  ∀ (s : State) (k : Nat), k < 16 →
    (s.fenced k = false → (s.getStk k).restarts = [] → s.ras = [] → (∀ h ∈ s.harts, h.place ≠ s.hart.place) → ∃ t, exec (.firmwareRestart k) s = .next t ∧ t.mem = s.mem ∧
      (t.getStk k).restarts = [s.tick] ∧ (s.hart.lamp = false ∨ stackOf s.hart.place ≠ k → t.hart = s.hart) ∧
      (s.hart.lamp = true → stackOf s.hart.place = k → t.hart.place = s.hart.place ∧ t.hart.pc = 0 ∧ t.hart.x = ({} : Hart).x ∧ t.hart.wait = none ∧
        t.hart.level = ({} : Hart).level) ∧
      (k = 0 → ∀ f, (t.getVf f).fetched = 0)) ∧
    (∀ i, i < 4 → ((s.getStk k).wdog = 0 → exec (.watchdogExpiry k i) s = .next s) ∧
      ((s.tick - sget 0 (s.getStk k).hbAt i).toNat < 1000 * (s.getStk k).wdog.toNat → exec (.watchdogExpiry k i) s = .next s) ∧
      ((s.getStk k).wdog ≠ 0 → 1000 * (s.getStk k).wdog.toNat ≤ (s.tick - sget 0 (s.getStk k).hbAt i).toNat →
        exec (.watchdogExpiry k i) s = exec (.firmwareRestart k) s)) ∧
    (∀ v : W64, ∃ t, exec (.rashbWrite k v) s = .next t ∧ apart s t ∧ (t.getStk k).hb = v ∧ ∀ i < 4, sget 0 (t.getStk k).hbAt i = s.tick) ∧
    (∀ c, c < 512 → ((∀ h ∈ s.hart :: s.harts, h.place ≠ 512 * k + c) → exec (.hdoorWrite k c) s = .next s) ∧
      (s.hart.place = 512 * k + c → ∃ t, exec (.hdoorWrite k c) s = .next t ∧ t.mem = s.mem ∧ t.hart.latch = true ∧ (∃ v, (1, v) ∈ t.hart.irqs) ∧
        t.hart.x = s.hart.x ∧ t.hart.pc = s.hart.pc)) ∧
    (∀ (c : Nat) (v : W64), c < 256 → s.hart.irqs = [(c, v)] → s.ras = [] → s.lates = [] → s.hart.pre = none → s.hart.wait = none →
      (s.hart.level = .app ∨ s.hart.level = .sup ∧ s.hart.sup.ie = true →
        exec (.interruptTake s.hart.place) s =
          .next ((s.upd (fun h => { h with irqs := [], wait := none })).trap (BitVec.ofNat 64 (c + 2 ^ 63)) v s.hart.pc)) ∧
      (s.hart.level = .mon ∨ s.hart.level = .sup ∧ s.hart.sup.ie = false → exec (.interruptTake s.hart.place) s = .next s))

/-- R39 to R41, R61, R68, R99, R246, R424, R437, R438, R452: a word that is no instruction traps with itself as trap value; a fetch that faults traps
with its cause, and in a first instruction is a double fault; a context that is destroyed is pre-empted first, then its row-locks and ranges
are gone; its engine nodes that run have T1 and T2 to complete first. -/
def Sys2Proof.Claims.FaultEvents : Prop :=
  (∀ (s : State) (w : BitVec 32), s.inAhead = false → s.isLate = false →
    (w.toNat % 4 = 0 → exec (.illegalInstruction w) s = .next (s.trap 0 (w.setWidth 64) s.hart.pc)) ∧
    (w.toNat % 4 ≠ 0 → exec (.illegalInstruction w) s = .next (s.trap 1 (w.setWidth 64) s.hart.pc))) ∧
  (∀ (s : State) (c : Nat) (v : W64), s.inAhead = false → s.isLate = false → c < 256 →
    (s.hart.hfirst = false → c ≠ 0x26 → c ≠ 0x2B → exec (.instructionFetchFault c v) s = .next (s.trap (BitVec.ofNat 64 c) v s.hart.pc)) ∧
    (s.hart.hfirst = false → c = 0x26 ∨ c = 0x2B → s.hart.fbbase = 0 →
      exec (.instructionFetchFault c v) s = .next (s.trap (BitVec.ofNat 64 (c + 2 ^ 61)) v s.hart.pc)) ∧
    (s.hart.hfirst = true → s.hart.level = .mon → s.stopped = none → ∃ t, exec (.instructionFetchFault c v) s = .next t ∧ t.stopped = some 3) ∧
    (s.hart.hfirst = true → s.hart.level ≠ .mon → s.hart.lamp = true →
      exec (.instructionFetchFault c v) s = exec (.firmwareRestart (stackOf s.hart.place)) s)) ∧
  (∀ (s : State) (c : Nat), c < 65536 →
    (s.hart.lamp = false → s.hart.ctxKey = c → ∃ t, exec (.contextDestruction c) s = .next t ∧ apart s t ∧ posted t (.contextDestruction c) ∧
      (s.hart.pre = none → ∃ a, posted t (.preemptRequest s.hart.place a))) ∧
    ((∀ h ∈ s.hart :: s.harts, h.lamp = true ∨ h.ctxKey ≠ c) →
      (s.engineNodes c = [] → ∃ t, exec (.contextDestruction c) s = .next t ∧ t.getCtx c = {} ∧ ∀ l ∈ t.locks, l.ctx ≠ c) ∧
      (∀ n, s.engineNodes c = [n] → s.nodeAt n.id = some n → n.due = none → s.tick.toNat < 2 ^ 63 →
        ∃ t, exec (.contextDestruction c) s = .next t ∧ apart s t ∧ posted t (.contextDestruction c) ∧
          t.nodeAt n.id = some { n with due := some (s.tick + BitVec.ofNat 64 (1000 * max 1 (s.getStk n.home).t1.toNat +
            1000 * max 1 (s.getStk n.home).t2.toNat)) })))

/-! ## Events: the host, VFs, Glowline, reset, attestation and power -/

/-- R462 to R466, R469: a port that trains takes its written role; a host access in the window becomes a request, and one outside it reads all
ones or is discarded; a snooped line is given up, or kept shared, its modified data applied first; a host's snoop finds nothing; the tokens
of a metered share are refilled. The capacity of an interval is the model's free value (log 21). -/
def Sys2Proof.Claims.HostAccesses : Prop :=
  (∀ (s : State) (q : Nat) (x : Bool) (w g : Nat), q < 4 →
    (s.fenced (5 * q) = true ∨ s.plat.recovery = true ∧ q ≠ 0 → exec (.hostLinkTrained q x w g) s = .next s) ∧
    (s.fenced (5 * q) = false → s.plat.recovery = false ∨ q = 0 → ∃ t, exec (.hostLinkTrained q x w g) s = .next t ∧ apart s t ∧
      ((s.getPort q).role = 0 ∨ (s.getPort q).role = 1 → t.getPort q = { s.getPort q with
        inForce := (s.getPort q).role, up := true, cxl := x, width := BitVec.ofNat 5 w, gen := BitVec.ofNat 4 g }) ∧
      ((s.getPort q).role = 2 ∨ (s.getPort q).role = 3 → (t.getPort q).up = false))) ∧
  (∀ (s : State) (off : Nat) (wr : Bool) (v : W64), s.port0.up = true → s.port0.cxl = true → s.port0.inForce = 0 → off % 8 = 0 →
    let ia := s.plat.hdmBase.toNat * 2 ^ 28 + off
    (s.plat.hdmEn = true → off + 8 ≤ s.plat.hdmSize.toNat * 2 ^ 28 → ia + 8 ≤ 2 ^ 48 → ∃ t r, exec (.hostMemRequest off wr v) s = .next t ∧
      apart s t ∧ posted t (.homeAccess r.id) ∧ t.reqs = s.reqs ++ [r] ∧ t.reads = s.reads ∧ r.ia = ia ∧ r.n = 8 ∧ r.data = v ∧ r.src = .host ∧
      r.op = (if wr then .write else .read) ∧ r.stage = .sent ∧ r.vf = s.plat.hdmVf.toNat ∧ r.lvl = .sup) ∧
    (s.plat.hdmEn = false ∨ s.plat.hdmSize.toNat * 2 ^ 28 < off + 8 → ∃ t, exec (.hostMemRequest off wr v) s = .next t ∧ t.mem = s.mem ∧
      t.reqs = s.reqs ∧ t.reads = (if wr then s.reads else s.reads ++ [(BitVec.allOnes 64, true)]))) ∧
  (∀ (s u : State) (k line : Nat) (e : Stack) (dirty inv : Bool) (v : BitVec 512), s.stk = [(k, e)] → e.biWait = [(line, inv)] →
    ((dirty = false ∨ ∀ q ∈ e.hostLines, q ≠ (line, true)) → ∃ t, exec (.bisnpResponse line dirty v) s = .next t ∧ apart s t ∧
      (t.getStk k).biWait = [] ∧ (inv = true → ∀ q ∈ (t.getStk k).hostLines, q.1 ≠ line) ∧
      (inv = false → (t.getStk k).hostLines = e.hostLines.map (fun q => if q.1 = line then (line, false) else q))) ∧
    (dirty = true → (line, true) ∈ e.hostLines → s.hostBack line v = (u, true) → ∃ t, exec (.bisnpResponse line dirty v) s = .next t ∧
      t.mem = u.mem ∧ ∀ q ∈ (t.getStk k).biWait, q.1 ≠ line) ∧
    (dirty = true → (line, true) ∈ e.hostLines → s.hostBack line v = (u, false) → ∃ t, exec (.bisnpResponse line dirty v) s = .next t ∧
      t.mem = u.mem ∧ posted t (.bisnpResponse line dirty v))) ∧
  (∀ (s : State) (a : Nat), ∃ t, exec (.hostSnoop a) s = .next t ∧ apart s t ∧ t.reads = s.reads ++ [(0, false)]) ∧
  (∀ (s : State) (k f : Nat), k < 16 → ∃ t, exec (.tokenBucketRefill k f) s = .next t ∧ apart s t ∧ ∀ j < 2,
    let q := (s.getVf f).qos.toNat
    let share := if j = 0 then q / 2 ^ 33 % 256 else q / 2 ^ 41 % 256
    let a := max 1 (share * Config.bandwidth j / 256)
    let b := sget 0 (s.getStk k).buckets (2 * f + j)
    sget 0 (t.getStk k).buckets (2 * f + j) = if share = 0 then b else min (4 * a) (b + a))

/-- R467: a far completion frees its tag and makes its line present, poisoned where it says so; after 50 ms a read's data is poisoned and a
write's is discarded. -/
def Sys2Proof.Claims.FarRequests : Prop :=
  ∀ (s : State) (r : Req) (l : Nat) (p : Bool), s.reqAt r.id = some r → r.src = .far l →
    let gone (t : State) : Prop := t.mem = s.mem ∧ t.reqAt r.id = none ∧ nmem l t.uioDone = true ∧ (t.getStk r.cluster).uio = nrem r.id (s.getStk r.cluster).uio
    (∃ t, exec (.uioCompletion r.id p) s = .next t ∧ gone t ∧ apart s t ∧ t.psn = if p then nins (64 * l) s.psn else s.psn) ∧
    ((s.tick - r.va).toNat < 50000000 → exec (.uioTimeout r.id) s = .next s) ∧
    (50000000 ≤ (s.tick - r.va).toNat →
      (r.op = .read → ∃ t, exec (.uioTimeout r.id) s = .next t ∧ gone t ∧ t.psn = nins (64 * l) s.psn) ∧
      (r.op = .write → ∃ t, exec (.uioTimeout r.id) s = .next t ∧ gone t ∧ t.psn = s.psn ∧ nmem l t.uioLost = true))

/-- R470, R471: a function-level reset drops a VF's entries and ends its contexts; when its work has ended its registers are as after reset, and
its key is new, as after a write of KEYGEN. -/
def Sys2Proof.Claims.FunctionResets : Prop :=
  ∀ (s : State) (f : Nat), f < 64 →
    ((s.getVf f).flr = false → s.ctxsOf f = [] → ∃ t, exec (.vfFlr f) s = .next t ∧ apart s t ∧ posted t (.vfFlr f) ∧
      t.getVf f = { s.getVf f with flr := true, entries := [], fetched := 0, accepted := 0 }) ∧
    (∀ c, (s.getVf f).flr = false → s.ctxsOf f = [c] → ∃ t, exec (.vfFlr f) s = .next t ∧ posted t (.vfFlr f) ∧ t.getCtx c = {}) ∧
    ((s.getVf f).flr = true → s.vfBusy f = true → ∃ t, exec (.vfFlr f) s = .next t ∧ apart s t ∧ posted t (.vfFlr f) ∧ t.vfs = s.vfs) ∧
    ((s.getVf f).flr = true → s.vfBusy f = false → ∃ t, exec (.vfFlr f) s = .next t ∧ apart s t ∧
      t.getVf f = { qos := (s.getVf f).qos, key := (s.getVf f).key + 1 }) ∧
    (∃ t, exec (.keygenWrite (BitVec.ofNat 64 f)) s = .next t ∧ apart s t ∧ t.getVf f = { s.getVf f with key := (s.getVf f).key + 1 }) ∧
    (∀ v : W64, 64 ≤ v.toNat → exec (.keygenWrite v) s = .next s)

/-- R117, R450, R458, R472 to R474: a Glowline port that trains is ACTIVE; a flit with a good CRC is taken in order, and may bring a request,
with the port's generation (what it asks is the model's choice, log 91); the eighth replay that fails takes
the port down; a timebase flit corrects the counter of a part that is not the master. -/
def Sys2Proof.Claims.GlowlineEvents : Prop :=
  ∀ (s : State) (p : Nat), p < 64 →
    let g := s.getGlow p
    (∀ a b, (s.fenced (p / 4) = false → s.plat.recovery = false → ∃ t, exec (.glowlineLinkTrained p a b) s = .next t ∧ apart s t ∧
        t.getGlow p = { g with state := 2, peer := BitVec.ofNat 8 a, pport := BitVec.ofNat 6 b, fails := 0, expect := 0, met := true }) ∧
      (s.fenced (p / 4) = true ∨ s.plat.recovery = true → exec (.glowlineLinkTrained p a b) s = .next s)) ∧
    (g.state = 2 → s.fenced (p / 4) = false →
      (∀ n, n % 65536 = g.expect → ∃ t, exec (.glowlineFlit p true n) s = .next t ∧ apart s t ∧
        t.getGlow p = { g with fails := 0, expect := (g.expect + 1) % 65536 } ∧
        (t.reqs = s.reqs ∨ ∃ r, t.reqs = s.reqs ++ [r] ∧ r.src = .peer p ∧ r.tag = s.unitGen (unitGlow p) ∧ posted t (.homeAccess r.id))) ∧
      (∀ n, n % 65536 ≠ g.expect → exec (.glowlineFlit p true n) s = .next s) ∧
      (∀ n, ∃ t, exec (.glowlineFlit p false n) s = .next t ∧ t.mem = s.mem ∧ t.hart.x = s.hart.x ∧ (t.getGlow p).expect = g.expect ∧
        (g.fails < 8 → (t.getGlow p).state = 2 ∧ (t.getGlow p).fails = g.fails + 1) ∧ (8 ≤ g.fails → (t.getGlow p).state = 0 ∧ (t.getGlow p).fails = 0)) ∧
      (∀ d : W64, (s.getStk 0).glTbm = false → exec (.timebaseFlit p d) s = .next { s with tick := s.tick + d }) ∧
      (∀ d : W64, (s.getStk 0).glTbm = true → exec (.timebaseFlit p d) s = .next s)) ∧
    (g.state ≠ 2 → ∀ (c : Bool) (n : Nat) (d : W64), exec (.glowlineFlit p c n) s = .next s ∧ exec (.timebaseFlit p d) s = .next s)

/-- R475, R476: after a reset the ROM runs the slot of the higher version whose image passes, and else the other; with none the part is in
recovery, where LOAD puts the staging window at its offset, COMMIT verifies the image and writes its slot, and RESET resets the part. What an
image's check finds is open (log 15); memory keeps its contents (log 40). -/
def Sys2Proof.Claims.ResetAndRecovery : Prop :=
  ∀ (s : State),
    let a := if sget 0 s.plat.slotVersion 0 < sget 0 s.plat.slotVersion 1 then 1 else 0
    let good (i : Nat) : Prop := Config.imageGood (sget 0 s.plat.slotImage i) = true ∧ s.plat.fuse ≤ Config.imageVersion (sget 0 s.plat.slotImage i)
    (s.plat.boot = 0 → ∃ t, exec .partReset s = .next t ∧ apart s t ∧ t.plat.boot = 1 ∧
      (good a → t.plat.runningSlot = some a) ∧ (¬ good a → good (1 - a) → t.plat.runningSlot = some (1 - a)) ∧
      (¬ good a → ¬ good (1 - a) → t.plat.recovery = true)) ∧
    (s.plat.boot ≠ 0 → ∃ t, exec .partReset s = .next t ∧ t.mem = s.mem ∧ t.hart = ({} : Hart) ∧ t.harts = lampHarts ∧ t.plat.boot = 1 ∧ t.plat.fuse = s.plat.fuse ∧
      t.copies = [] ∧ t.nodes = [] ∧ t.agenda = [] ∧ t.tick = 0) ∧
    (s.plat.recovery = false → exec .recoveryLoad s = .next s ∧ exec .recoveryCommit s = .next s ∧ exec .recoveryReset s = .next s) ∧
    (s.plat.recovery = true →
      (s.plat.recState = 0 → (∃ t, exec .recoveryReset s = .next t ∧ t.mem = s.mem ∧ t.hart = ({} : Hart) ∧ t.plat.boot = 1) ∧
        (s.plat.recArg.toNat * 32768 + 32768 ≤ 2 ^ 28 → swf 0 s.plat.staging = true → ∃ t, exec .recoveryLoad s = .next t ∧ apart s t ∧ t.plat.recResult = 0 ∧
          ∀ i, memGet t.plat.image i = if s.plat.recArg.toNat * 32768 ≤ i ∧ i < s.plat.recArg.toNat * 32768 + 32768 then
            memGet s.plat.staging (i - s.plat.recArg.toNat * 32768) else memGet s.plat.image i) ∧
        (2 ^ 28 < s.plat.recArg.toNat * 32768 + 32768 → ∃ t, exec .recoveryLoad s = .next t ∧ apart s t ∧ t.plat = { s.plat with recResult := 3 }) ∧
        ∃ t, exec .recoveryCommit s = .next t ∧ apart s t ∧ posted t .recoveryCommit ∧ t.plat = { s.plat with recState := 1, recDest := s.plat.recArg.getLsbD 0 }) ∧
      (let img := imageCode s.plat.image s.plat.imageSize
       (s.plat.recState = 1 → Config.imageGood img = true → s.plat.fuse ≤ Config.imageVersion img → ∃ t, exec .recoveryCommit s = .next t ∧ apart s t ∧
         posted t .recoveryCommit ∧ t.plat = { s.plat with recState := 2 }) ∧
       (s.plat.recState = 1 → Config.imageGood img = false → ∃ t, exec .recoveryCommit s = .next t ∧ apart s t ∧
         t.plat = { s.plat with recState := 0, recResult := 1 }) ∧
       (s.plat.recState = 1 → Config.imageGood img = true → Config.imageVersion img < s.plat.fuse → ∃ t, exec .recoveryCommit s = .next t ∧ apart s t ∧
         t.plat = { s.plat with recState := 0, recResult := 2 }) ∧
       (s.plat.recState = 2 → ∃ t, exec .recoveryCommit s = .next t ∧ apart s t ∧ posted t .recoveryCommit ∧ t.plat.recState = 3 ∧ t.plat.recResult = 0 ∧
         t.plat.recSlot = s.plat.recDest ∧
         sget 0 t.plat.slotImage (b2n s.plat.recDest) = img ∧ sget 0 t.plat.slotVersion (b2n s.plat.recDest) = Config.imageVersion img)) ∧
      (s.plat.recState = 3 → ∃ t, exec .recoveryCommit s = .next t ∧ apart s t ∧ t.plat = { s.plat with recState := 0 }))

/-- R110, R477, R478: a request of the attestation protocol over the trained port 0 is answered in its place, and with an error out of it; a
voltage fault and its end set and clear the hold; the throttle raises dividers and issue gaps while the power is above the cap. The codes, the
order and the contents of answers are the model's choice (log 19), and so is the power (log 17). -/
def Sys2Proof.Claims.AttestationAndPower : Prop :=
  ∀ (s : State),
    let n := s.plat.spdmState
    let said (o : Out) (code arg next_ : Nat) : Prop := o = .next { s with plat := { s.plat with
      spdm := s.plat.spdm ++ [(code, Config.spdmReply (code + 256 * arg) s.plat.spdm.length)], spdmState := next_ } }
    let wrong : State := { s with plat := { s.plat with spdm := s.plat.spdm ++ [(0x7F, 4)] } }
    (s.port0.up = true →
      said (exec .getVersion s) 4 0 1 ∧
      (if 1 ≤ n then said (exec .getCapabilities s) 0x61 0 2 else exec .getCapabilities s = .next wrong) ∧
      (if 2 ≤ n then said (exec .negotiateAlgorithms s) 0x63 0 3 else exec .negotiateAlgorithms s = .next wrong) ∧
      (3 ≤ n → said (exec .getDigests s) 1 0 n ∧ said (exec .getCertificate s) 2 0 n ∧ said (exec .challenge s) 3 0 n ∧
        said (exec .keyExchange s) 0x64 0 4 ∧
        ∀ i, i = 1 ∨ i = 2 ∨ i = 3 → said (exec (.getMeasurements i) s) 0x60 (i + 256 * (s.measured 2 + s.measured 3 * 2 ^ 64 + s.measured i)) n) ∧
      (n < 3 → exec .getDigests s = .next wrong ∧ exec .getCertificate s = .next wrong ∧ exec .challenge s = .next wrong ∧
        exec .keyExchange s = .next wrong ∧ exec (.getMeasurements 1) s = .next wrong) ∧
      (if 4 ≤ n then said (exec .finish s) 0x65 0 5 else exec .finish s = .next wrong)) ∧
    (s.port0.up = false → exec .getVersion s = .next s ∧ exec .challenge s = .next s ∧ exec .finish s = .next s) ∧
    exec .inputVoltageFault s = .next { s with plat := { s.plat with vfault := true } } ∧
    exec .inputVoltageRestored s = .next { s with plat := { s.plat with vfault := false } } ∧
    (∃ t, exec .powerThrottle s = .next t ∧ apart s t ∧ t.plat.thr = decide (s.plat.capMod.toNat < t.plat.pmod.toNat) ∧
      t.gaps = (if t.plat.thr then s.gaps + 1 else 0) ∧
      (∀ d < 256, (s.getDie d).div.toNat ≤ (t.getDie d).div.toNat) ∧ (t.plat.thr = false → t.dies = s.dies))

/-! ## Encodings, the step, and the state as a whole -/

/-- R244: a word whose `ver` is not 00 decodes as illegal version whatever its other bits hold, and executing it takes the illegal-version
trap (cause 0x01) with the word as trap value. -/
def Obligations.IllegalVersion : Prop :=
  ∀ (w : IWord), w.extractLsb' 0 2 ≠ 0 →
    decode w = .error .illegalVersion ∧ ∀ s : State, s.inAhead = false → s.isLate = false → execWord w s = .next (s.trap 1 (w.setWidth 64) s.hart.pc)

/-- R246: the zero word and the words that no row of the opcode table fits decode to nothing, and executing one takes the
illegal-instruction trap (cause 0x00) with the word as trap value. -/
def Obligations.IllegalWords : Prop :=
  decode 0 = .error .zeroWord ∧
  (∀ (w : IWord) (e : DecodeError) (s : State), w.extractLsb' 0 2 = 0 → decode w = .error e → s.inAhead = false → s.isLate = false →
    execWord w s = .next (s.trap 0 (w.setWidth 64) s.hart.pc)) ∧
  (∀ w : IWord, w.extractLsb' 0 2 = 0 → (w.extractLsb' 4 6 = 0x3F ∨ w.extractLsb' 4 6 = 0x3B) → decode w = .error .illegalSelector)

/-- R269: division never traps; its results for b = 0 and for −2^63 by −1. -/
def Obligations.DivisionCorners : Prop :=
  ∀ (s : State) (sc : Sc) (rd r1 r2 : Reg) (a b : W64), calm s sc → holds s r1 a → holds s r2 b →
    (∀ i, i ∈ [Instr.div sc rd r1 r2, .divn sc rd r1 r2, .rem sc rd r1 r2, .remn sc rd r1 r2] → ∃ v, exec i s = .next (wrote s rd v)) ∧
    (b = 0 → exec (.div sc rd r1 r2) s = .next (wrote s rd (BitVec.allOnes 64)) ∧
      exec (.divn sc rd r1 r2) s = .next (wrote s rd (BitVec.allOnes 64)) ∧
      exec (.rem sc rd r1 r2) s = .next (wrote s rd a) ∧ exec (.remn sc rd r1 r2) s = .next (wrote s rd a)) ∧
    (a.toInt = -2 ^ 63 → b.toInt = -1 →
      exec (.div sc rd r1 r2) s = .next (wrote s rd a) ∧ exec (.rem sc rd r1 r2) s = .next (wrote s rd 0) ∧
      exec (.divn sc rd r1 r2) s = .next (wrote s rd (BitVec.ofNat 64 (a.toNat / b.toNat))) ∧
      exec (.remn sc rd r1 r2) s = .next (wrote s rd (BitVec.ofNat 64 (a.toNat % b.toNat))))

/-- R272: LUI and AUIPC: their words, and the known values they write. -/
def Obligations.UpperImmediates : Prop :=
  ∀ (s : State) (sc : Sc) (rd : Reg) (i : BitVec 17),
    decode (i ++ rd ++ 0x09#6 ++ sc ++ 0#2 : BitVec 32) = .ok (.lui sc rd i) ∧
    decode (i ++ rd ++ 0x0A#6 ++ sc ++ 0#2 : BitVec 32) = .ok (.auipc sc rd i) ∧
    (calm s sc → exec (.lui sc rd i) s = .next (wrote s rd (i.signExtend 64 <<< 12)) ∧
      exec (.auipc sc rd i) s = .next (wrote s rd (s.hart.pc + i.signExtend 64 <<< 12)) ∧
      ∀ v, (wrote s rd v).hart.rx rd = .known (if rd = 0 then 0 else v))

/-- R274: JALR: its word, its target with bits 1:0 cleared, computed from the old `x[rs1]`, and the return address in `x[rd]`. -/
def Obligations.IndirectJumps : Prop :=
  ∀ (s : State) (sc : Sc) (rd r1 : Reg) (i : BitVec 12) (a : W64),
    decode (i ++ r1 ++ rd ++ 0x0C#6 ++ sc ++ 0#2 : BitVec 32) = .ok (.jalr sc rd r1 i) ∧
    (calm s sc → holds s r1 a → ∃ t, exec (.jalr sc rd r1 i) s = .next t ∧
      t.hart.pc = (a + 4 * i.signExtend 64) &&& ~~~3#64 ∧
      t.hart.rx rd = .known (if rd = 0 then 0 else s.hart.pc + 4) ∧ sameRegsBut s t rd ∧ t.hart.instret = s.hart.instret + 1 ∧
      sameMemory s t)

/-- R243 to R262: words assembled by hand from the spec's encoding tables, the worked encodings of its chapter among them. -/
def Obligations.DecodeSamples : Prop :=
  decode 0x00731400 = .ok (.add 0 5 6 7) ∧ decode 0x00000010 = .ok (.addi 0 0 0 0) ∧ decode 0x03F20C6C = .ok (.slli 3 3 4 63) ∧
  decode 0x30F4A070 = .ok (.bfx 0 8 9 12 15) ∧ decode 0x91A2A490 = .ok (.lui 0 9 0x12345) ∧ decode 0x000104B0 = .ok (.jal 0 1 2) ∧
  decode 0xFE02ECD0 = .ok (.bne 0 5 0 0x7FD) ∧ decode 0x30B51500 = .ok (.ldScoped 0 5 10 1 1 0 0 3) ∧
  decode 0xFF639900 = .ok (.ld 0 6 7 0xFF 6) ∧ decode 0x0EC54910 = .ok (.stScoped 0 10 12 1 1 4 2) ∧
  decode 0x9A731550 = .ok (.amocas64 0 5 6 7 2 1 1) ∧ decode 0x8C310580 = .ok (.fmul 0 1 2 3 2 1) ∧
  decode 0x422015C0 = .ok (.csrr 0 5 0x422) ∧ decode 0x000185D0 = .ok (.csrs 0 3 0) ∧ decode 0x000001E0 = .ok (.ecall 0) ∧
  decode 0x100195E0 = .ok (.symq 0 5 3) ∧ decode 0x880315E0 = .ok (.vsetvli 0 5 6 0 4) ∧ decode 0x000315F0 = .ok (.qfetch 0 5 6) ∧
  decode 0x02208E00 = .ok (.vadd 0 3 1 2 1 0) ∧ decode 0x90239220 = .ok (.vsll 0 4 7 2 0 2) ∧
  decode 0x40219260 = .ok (.vfma 0 4 3 2 0 0) ∧ decode 0x302012A0 = .ok (.vfcvt 0 4 2 0 0 3) ∧
  decode 0x022192D0 = .ok (.vredsum 0 4 3 2 1) ∧ decode 0xC02412E0 = .ok (.vmxpack 0 4 8 2 4 0) ∧
  decode 0xD00196F0 = .ok (.mpopc 0 5 3) ∧ decode 0x84051300 = .ok (.vld 0 4 10 4 2) ∧
  decode 0x10851350 = .ok (.vstx 0 4 10 8 0 1 0) ∧ decode 0x18000380 = .ok (.fenceAcq 0 4) ∧
  decode 0x16731790 = .ok (.barr 0 5 6 7 3) ∧ decode 0x247317A0 = .ok (.cbpop 0 5 6 7 2) ∧
  decode 0x867307C0 = .ok (.mma 0 6 7 3 1) ∧ decode 0x048317D0 = .ok (.cpy 0 5 6 8 0 2) ∧ decode 0x008317E0 = .ok (.bkop 0 5 6 8 0) ∧
  decode 0xFFFFFFFF = .error .illegalVersion ∧ decode 0 = .error .zeroWord ∧
  decodeMicro 0x10C5 = some (.uAap 3 5) ∧ decodeMicro 0xA805 = some (.uLoop 2 5) ∧ decodeMicro 0xB003 = some (.uEnd 3)

/-- R243 to R262: encoding and decoding agree: every well-formed instruction that has a word is what its word decodes to, every word that
decodes is the encoding of what it decodes to, and the same of microwords; no bit of an encoding is dropped. -/
def Obligations.EncodeDecode : Prop :=
  (∀ i : Instr, wellFormed i = true → encode i ≠ 0 → decode (encode i) = .ok i) ∧
  (∀ (w : IWord) (i : Instr), decode w = .ok i → encode i = w ∧ wellFormed i = true) ∧
  (∀ (w : Micro) (i : Instr), decodeMicro w = some i → encodeMicro i = w) ∧
  (∀ i : Instr, encodeMicro i ≠ 0 → decodeMicro (encodeMicro i) = some i) ∧
  decodeMicro 0 = some .uNop

/-- R13, R183, R185, R246, R437, R440, R441: a step runs what is next. A hart with nothing at its boundary runs the instruction its fetched word
decodes to, or the trap of a word that decodes to none; at its boundary a run-ahead that is over stops, a vector instruction
that waits in the queue runs in its turn, a deferred FP exception or an interrupt is taken; a fetch that faults traps; an event does what its meaning says, and a micro-op likewise for its invocation. -/
def Sys2Proof.Claims.StepRunsDecoded : Prop :=
  (∀ (s u : State) (p : Nat) (w : IWord), s.stopped = none → s.plat.boot = 2 → s.clock.pick = some (.hart p) →
    (match (s.clock.focus p).ahead with
      | some r => (s.clock.focus p).aheadDone r = none
      | none => (s.clock.focus p).hart.interruptible = false ∧ (match (s.clock.focus p).firstLate with
        | some l => (s.clock.focus p).hart.defer = [] ∧ (s.clock.focus p).lateTurn l = false
        | none => (s.clock.focus p).takeDeferred = none)) →
    ((s.clock.focus p).fetchWord = .word u w →
      (∀ i, decode w = .ok i → step s = exec i (u.begin_ w)) ∧
      (∀ e, decode w = .error e → step s = exec (.illegalInstruction w) (u.begin_ w))) ∧
    (∀ c v, (s.clock.focus p).fetchWord = .fault u c v → step s = exec (.instructionFetchFault c v) u) ∧
    ((s.clock.focus p).fetchWord = .hold u → step s = .next u)) ∧
  (∀ (s : State) (p : Nat), s.stopped = none → s.plat.boot = 2 → s.clock.pick = some (.hart p) →
    (∀ r n, (s.clock.focus p).ahead = some r → (s.clock.focus p).aheadDone r = some n →
      step s = exec (.runAheadStop (s.clock.focus p).hart.place n) (s.clock.focus p)) ∧
    (∀ l, (s.clock.focus p).ahead = none → (s.clock.focus p).firstLate = some l →
      ((s.clock.focus p).hart.interruptible = true ∨ (s.clock.focus p).hart.defer ≠ [] → step s = .next (s.clock.focus p).unlate) ∧
      ((s.clock.focus p).hart.interruptible = false → (s.clock.focus p).hart.defer = [] → (s.clock.focus p).lateTurn l = true →
        step s = (s.clock.focus p).runLate execWord l)) ∧
    ((s.clock.focus p).ahead = none → (s.clock.focus p).firstLate = none →
      (∀ t, (s.clock.focus p).takeDeferred = some t → step s = .next t) ∧
      ((s.clock.focus p).takeDeferred = none → (s.clock.focus p).hart.interruptible = true →
        step s = exec (.interruptTake (s.clock.focus p).hart.place) (s.clock.focus p)))) ∧
  (∀ (s : State) (k : Nat), s.stopped = none → s.plat.boot ≠ 0 → s.clock.pick = some (.act k) →
    (∀ i, s.agenda[k]? = some (.event i) → step s = exec i (s.clock.take k)) ∧
    (∀ id w i, s.agenda[k]? = some (.micro id) → s.microAt id = some w → decodeMicro w = some i →
      step s = exec i { s.clock.take k with cur := id })) ∧
  (∀ s : State, s.stopped = none → s.plat.boot = 0 → step s = exec .partReset s.clock)

/-- R4, R12, R13: where the hart fetches from on-chip memory, the word it gets is the four bytes at its PC, least significant first; memory
and the registers stay. -/
def Sys2Proof.Claims.FetchReadsMemory : Prop :=
  ∀ (s : State) (ia : Nat) (attr : BitVec 2) (win : Win) (k : Nat), memoryClean s → s.hart.ibuf = [] →
    issue s.myCtx s.hart.level s.hart.pc 4 .fetch = .ok (ia, attr) → s.window s.hart.pc ia 4 attr = .ok win →
    onChip s win 4 .load = some k →
    ∃ u, s.fetchWord = .word u (BitVec.ofNat 32 (numberAt s k 4)) ∧ u.mem = s.mem ∧ u.hart.x = s.hart.x ∧ u.hart.pc = s.hart.pc

/-- The memory of every state a step answers is in the canonical form: keys strictly rising, none at the value an unlisted byte reads as. -/
def Obligations.MemoryInvariant : Prop :=
  ∀ s t : State, Memory.wf s.mem = true → step s = .next t → Memory.wf t.mem = true

/-- R55, R107, R136, R207, R427, R431, R457, R462, R469, R475, R478: the values after reset that the spec gives. -/
def Obligations.ResetValues : Prop :=
  (∀ n v, n ∉ [0x402, 0x410, 0x411, 0x412, 0x413, 0x420] → State.reset.csrGet n = some v →
    v = if n = 0x401 then 0x8000000000000000 else 0) ∧
  State.reset.hart.level = .mon ∧ State.reset.mem = [] ∧
  (∀ c b, (State.reset.getBank c b).word = 0) ∧
  (∀ k, let t := State.reset.getStk k
    t.retthr = 8 ∧ t.gsctlEn = false ∧ t.gsctlRsv = 16 ∧ t.gsctlRtmo = 1000000 ∧ t.t1 = 20 ∧ t.t2 = 100 ∧ t.glead = 50 ∧ t.gmarg = 20 ∧
    t.bkoff = 64 ∧ t.cewgt = 0x01020408 ∧ t.dthr = 1 ∧ t.cthr = 1000000 ∧ t.wdog = 1000) ∧
  (∀ d, (State.reset.getDie d).div = 0 ∧ (State.reset.getDie d).slotn = 4 ∧ (State.reset.getDie d).base = 128 ∧
    (State.reset.getDie d).lkmax = 100000) ∧
  (∀ f, (State.reset.getVf f).next = 1 ∧ (State.reset.getVf f).cons = 0 ∧
    (State.reset.getVf f).qos.toNat = 8191 + 1023 * 2 ^ 13 + 511 * 2 ^ 24 + 4095 * 2 ^ 49) ∧
  (State.reset.getPort 0).role = 0 ∧ (State.reset.getPort 1).role = 1 ∧ (State.reset.getPort 2).role = 1 ∧
  (State.reset.getPort 3).role = 1 ∧ State.reset.plat.capMod = 2800 ∧ State.reset.plat.capBank = 320

/-- The memory after reset is in the canonical form. -/
def Obligations.ResetInvariant : Prop := Memory.wf State.reset.mem = true

/-! ## The statements that gather the claims above -/

/-- A step fetches the four bytes at the PC and runs what they decode to, or what is next at the boundary -/
def Obligations.StepRunsDecodedWord : Prop :=
  Sys2Proof.Claims.StepRunsDecoded ∧
  Sys2Proof.Claims.FetchReadsMemory

/-- Integer register, immediate and bit-field instructions write the value of their row -/
def Obligations.IntegerForms : Prop :=
  Sys2Proof.Claims.IntegerRegisterForms ∧
  Sys2Proof.Claims.IntegerImmediateForms ∧
  Sys2Proof.Claims.BitFieldAndUpperForms

/-- Jumps and conditional branches -/
def Obligations.JumpsAndBranches : Prop :=
  Sys2Proof.Claims.Jumps ∧
  Sys2Proof.Claims.Branches

/-- What writing a register does, and what register instructions leave unchanged -/
def Obligations.RegisterFrames : Prop :=
  Sys2Proof.Claims.RegisterWrite ∧
  Sys2Proof.Claims.RegisterOnlyFrame

/-- Scalar floating point: results, flags, conversions, and illegal rounding modes -/
def Obligations.ScalarFloatingPoint : Prop :=
  Sys2Proof.Claims.ScalarFpPairs ∧
  Sys2Proof.Claims.ScalarFpOthers ∧
  Sys2Proof.Claims.IllegalRounding

/-- Scalar loads and stores complete with the value read and the bytes written -/
def Obligations.LoadsAndStores : Prop :=
  Sys2Proof.Claims.Loads ∧
  Sys2Proof.Claims.Stores

/-- AMOs make one atomic step and write the old number -/
def Obligations.AtomicAccesses : Prop :=
  Sys2Proof.Claims.AtomicOperations ∧
  Sys2Proof.Claims.AtomicFloatAdd

/-- CSR access: numbers, reads, writes, privilege and frame -/
def Obligations.ControlRegisters : Prop :=
  Sys2Proof.Claims.CsrNumbers ∧
  Sys2Proof.Claims.CsrInstructions ∧
  Sys2Proof.Claims.CsrWriteRead ∧
  Sys2Proof.Claims.CsrRefused

/-- Taking a trap, the calls and breakpoint, and ERET -/
def Obligations.TrapsAndReturns : Prop :=
  Sys2Proof.Claims.TrapEntry ∧
  Sys2Proof.Claims.Calls ∧
  Sys2Proof.Claims.Returns

/-- Fences, SYMQ, SYMWAIT and WFE -/
def Obligations.FencesAndWaiting : Prop :=
  Sys2Proof.Claims.Fences ∧
  Sys2Proof.Claims.SymbolsAndEvents

/-- SNAP, SNAPQ, LKLINE and ULKLINE -/
def Obligations.SnapshotsAndLineLocks : Prop :=
  Sys2Proof.Claims.Snapshots ∧
  Sys2Proof.Claims.LineLocks

/-- TSUBMIT, TDONE, QFETCH, SWAIT and DISPATCH -/
def Obligations.NodesFromHarts : Prop :=
  Sys2Proof.Claims.Submissions ∧
  Sys2Proof.Claims.NodeEnd ∧
  Sys2Proof.Claims.LamplighterInstructions

/-- Vector integer, widening, narrowing and floating-point rows, element by element -/
def Obligations.VectorArithmeticRows : Prop :=
  Sys2Proof.Claims.VectorIntegerRows ∧
  Sys2Proof.Claims.VectorMixedWidthRows ∧
  Sys2Proof.Claims.VectorFpRows

/-- Permutes and the instructions that write a mask -/
def Obligations.VectorPermutesAndMasks : Prop :=
  Sys2Proof.Claims.VectorPermutes ∧
  Sys2Proof.Claims.VectorMaskResults

/-- What makes a vector instruction illegal, and where poison stops it -/
def Obligations.VectorChecks : Prop :=
  Sys2Proof.Claims.VectorIllegal ∧
  Sys2Proof.Claims.VectorPoisonStop

/-- VSETVL, VSETVLI and VSETDIM -/
def Obligations.VectorConfigurations : Prop :=
  Sys2Proof.Claims.VectorConfiguration ∧
  Sys2Proof.Claims.VectorDimensions

/-- Lane chains, reductions, and moves between elements and scalar registers -/
def Obligations.VectorChainsAndReductions : Prop :=
  Sys2Proof.Claims.VectorChains ∧
  Sys2Proof.Claims.VectorReductions ∧
  Sys2Proof.Claims.VectorScalarMoves

/-- Vector conversions and MX packing -/
def Obligations.VectorFormats : Prop :=
  Sys2Proof.Claims.VectorConversions ∧
  Sys2Proof.Claims.VectorMxPacking

/-- Vector memory instructions: checks, queued accesses and addresses -/
def Obligations.VectorMemory : Prop :=
  Sys2Proof.Claims.VectorMemoryAccesses ∧
  Sys2Proof.Claims.VectorSlideRefill

/-- Barrier cells: arrivals, phases, status words and waits -/
def Obligations.BarrierCells : Prop :=
  Sys2Proof.Claims.BarrierArithmetic ∧
  Sys2Proof.Claims.BarrierArrivals ∧
  Sys2Proof.Claims.BarrierWaits

/-- Circular buffers and SRCFG -/
def Obligations.BuffersAndModes : Prop :=
  Sys2Proof.Claims.CircularBuffers ∧
  Sys2Proof.Claims.BankModeRequests

/-- Matrix instructions at issue: shapes, commands and what they change -/
def Obligations.MatrixInstructions : Prop :=
  Sys2Proof.Claims.MatrixCommands ∧
  Sys2Proof.Claims.MatrixState

/-- CPY, CPY2, CPYG and CPYX at issue -/
def Obligations.CopyInstructions : Prop :=
  Sys2Proof.Claims.CopyCommands ∧
  Sys2Proof.Claims.CopyAborts

/-- BKOP, BKFENCE and BKCOPY at issue -/
def Obligations.BankInstructions : Prop :=
  Sys2Proof.Claims.BankOperations ∧
  Sys2Proof.Claims.BankCopies

/-- Row-locks, WICKLOAD and BKCFG -/
def Obligations.RowLocksAndSetup : Prop :=
  Sys2Proof.Claims.RowLocks ∧
  Sys2Proof.Claims.BankSetup

/-- The sixteen micro-ops: rows, control and the end of an invocation -/
def Obligations.MicroOperations : Prop :=
  Sys2Proof.Claims.MicroRows ∧
  Sys2Proof.Claims.MicroControl ∧
  Sys2Proof.Claims.MicroEnds

/-- The 0xA window, invalidation, migration holds and page retirement -/
def Obligations.TranslationRegisters : Prop :=
  Sys2Proof.Claims.RegisterWindow ∧
  Sys2Proof.Claims.Invalidations ∧
  Sys2Proof.Claims.Holds ∧
  Sys2Proof.Claims.Retirement

/-- Requests at their home, batched walks, and responses -/
def Obligations.RequestsAtTheirHome : Prop :=
  Sys2Proof.Claims.RequestsAtHome ∧
  Sys2Proof.Claims.WalkBatches ∧
  Sys2Proof.Claims.Responses

/-- How a run-ahead stops and how waits end -/
def Obligations.RunAheadAndWaits : Prop :=
  Sys2Proof.Claims.RunAheadStops ∧
  Sys2Proof.Claims.WaitsEnd

/-- Cache line movement and bank mode transitions -/
def Obligations.CacheAndBankEvents : Prop :=
  Sys2Proof.Claims.CacheLines ∧
  Sys2Proof.Claims.BankTransitions

/-- Window accesses, the atomic engines and replicated pages -/
def Obligations.WindowAndAtomicEvents : Prop :=
  Sys2Proof.Claims.WindowRequests ∧
  Sys2Proof.Claims.AtomicEngines ∧
  Sys2Proof.Claims.ReplicaUpdates

/-- A symbol resolves or is poisoned -/
def Obligations.SymbolEvents : Prop :=
  Sys2Proof.Claims.SymbolResolution ∧
  Sys2Proof.Claims.SymbolPoisons

/-- Probes, arrival and start of invocations -/
def Obligations.BankProbesAndInvocations : Prop :=
  Sys2Proof.Claims.BankProbes ∧
  Sys2Proof.Claims.Invocations

/-- Slots, refresh, scrubbing, corrections, lock expiry and the ends of bank commands -/
def Obligations.DieAndBankEvents : Prop :=
  Sys2Proof.Claims.DieEvents ∧
  Sys2Proof.Claims.BankEnds

/-- Snapshot requests, flips and settling -/
def Obligations.Generations : Prop :=
  Sys2Proof.Claims.GenerationControl ∧
  Sys2Proof.Claims.Flips ∧
  Sys2Proof.Claims.Settling

/-- Preserving tracked blocks, the reserve, and the drain -/
def Obligations.PreservationAndDrain : Prop :=
  Sys2Proof.Claims.Preservation ∧
  Sys2Proof.Claims.Drain

/-- Mailboxes, firmware restart, the watchdog, doorbells and interrupts -/
def Obligations.FirmwareServices : Prop :=
  Sys2Proof.Claims.Mailboxes ∧
  Sys2Proof.Claims.FirmwareAndInterrupts

/-- Decrements, firing, dispatch and completion of nodes -/
def Obligations.NodesInTheScheduler : Prop :=
  Sys2Proof.Claims.Decrements ∧
  Sys2Proof.Claims.NodeStarts ∧
  Sys2Proof.Claims.Scheduling ∧
  Sys2Proof.Claims.NodeCompletion

/-- Gang start and gang abort -/
def Obligations.Gangs : Prop :=
  Sys2Proof.Claims.GangStarts ∧
  Sys2Proof.Claims.GangAborts

/-- Copies from acceptance to completion -/
def Obligations.CopyEngines : Prop :=
  Sys2Proof.Claims.CopyStarts ∧
  Sys2Proof.Claims.CopyMoves

/-- Lantern bays: arrivals, beats, layer-loads, products, stores and checksums -/
def Obligations.LanternBays : Prop :=
  Sys2Proof.Claims.ArrivalsAndBeats ∧
  Sys2Proof.Claims.LayerLoadsAndProducts ∧
  Sys2Proof.Claims.StoresAndChecksums

/-- The pre-emption ladder, the save and the resumption -/
def Obligations.Preemption : Prop :=
  Sys2Proof.Claims.PreemptionRungs ∧
  Sys2Proof.Claims.SavesAndResumptions

/-- Stack and die fences, fatal errors, and traps that no instruction raises -/
def Obligations.FaultsAndFences : Prop :=
  Sys2Proof.Claims.FencesAndFatalErrors ∧
  Sys2Proof.Claims.FaultEvents

/-- Host ports, the HDM-DB window and the far tier -/
def Obligations.HostAndFarAccesses : Prop :=
  Sys2Proof.Claims.HostAccesses ∧
  Sys2Proof.Claims.FarRequests

/-- Buckets, VF reset, keys, and Glowline links -/
def Obligations.FunctionsAndGlowline : Prop :=
  Sys2Proof.Claims.FunctionResets ∧
  Sys2Proof.Claims.GlowlineEvents

/-- Part reset, recovery, attestation and power -/
def Obligations.PlatformEvents : Prop :=
  Sys2Proof.Claims.ResetAndRecovery ∧
  Sys2Proof.Claims.AttestationAndPower
end

