-- ==== Sys2Proof/Laws/Sparse.lean ====
section
/-! SUPPORT. Laws of finite maps and of memory as one: what a write leaves at every key, and that the canonical form is kept. -/
namespace Sys2Proof.Machine

section
variable {α : Type} [DecidableEq α] {d v : α} {m : Sparse α} {a j lo : Nat}

omit [DecidableEq α] in
theorem sget_sins : sget d (sins a v m) j = if j = a then v else sget d m j := by
  induction m with
  | nil => simp [sins, sget]
  | cons e m ih =>
    obtain ⟨k, w⟩ := e
    simp only [sins]
    split
    · simp only [sget]
    · split
      · next h => subst h; simp only [sget]; split <;> rfl
      · simp only [sget, ih]
        split
        · next h h2 h3 => simp [h3, Ne.symm h2]
        · rfl

omit [DecidableEq α] in
theorem sget_filter_ne : sget d (m.filter (fun e => decide (e.1 ≠ a))) j = if j = a then d else sget d m j := by
  induction m with
  | nil => simp [sget]
  | cons e m ih =>
    obtain ⟨k, w⟩ := e
    by_cases h : k = a
    · subst h
      simp only [List.filter, ne_eq, not_true_eq_false, decide_false, ih, sget]
      split <;> rfl
    · simp only [List.filter, ne_eq, h, not_false_eq_true, decide_true, ih, sget]
      split
      · next h2 => rw [h2, if_neg h]
      · rfl

/-- A read after a write: the value written at its key, what was there elsewhere. -/
theorem sget_sset : sget d (sset d m a v) j = if j = a then v else sget d m j := by
  unfold sset
  split
  · next h => rw [sget_filter_ne, h]
  · exact sget_sins

@[simp] theorem sget_sset_same : sget d (sset d m a v) a = v := by rw [sget_sset, if_pos rfl]

theorem sget_sset_other (h : j ≠ a) : sget d (sset d m a v) j = sget d m j := by rw [sget_sset, if_neg h]

theorem swfFrom_mono {lo' : Nat} (h : lo' ≤ lo) (w : swfFrom d lo m = true) : swfFrom d lo' m = true := by
  cases m with
  | nil => rfl
  | cons e m =>
    obtain ⟨k, x⟩ := e
    simp only [swfFrom, Bool.and_eq_true, decide_eq_true_eq] at w ⊢
    exact ⟨⟨by omega, w.1.2⟩, w.2⟩

theorem swfFrom_sins (hv : v ≠ d) (w : swfFrom d lo m = true) (h : lo ≤ a) : swfFrom d lo (sins a v m) = true := by
  induction m generalizing lo with
  | nil => simp [sins, swfFrom, hv, h]
  | cons e m ih =>
    obtain ⟨k, x⟩ := e
    simp only [swfFrom, Bool.and_eq_true, decide_eq_true_eq] at w
    obtain ⟨⟨h1, h2⟩, h3⟩ := w
    simp only [sins]
    split
    · next h4 => simp only [swfFrom, Bool.and_eq_true, decide_eq_true_eq]; exact ⟨⟨h, hv⟩, ⟨by omega, h2⟩, h3⟩
    · split
      · next h5 => subst h5; simp only [swfFrom, Bool.and_eq_true, decide_eq_true_eq]; exact ⟨⟨h, hv⟩, h3⟩
      · next h4 h5 =>
        simp only [swfFrom, Bool.and_eq_true, decide_eq_true_eq]
        exact ⟨⟨h1, h2⟩, ih h3 (by omega)⟩

theorem swfFrom_filter (p : Nat × α → Bool) (w : swfFrom d lo m = true) : swfFrom d lo (m.filter p) = true := by
  induction m generalizing lo with
  | nil => rfl
  | cons e m ih =>
    obtain ⟨k, x⟩ := e
    simp only [swfFrom, Bool.and_eq_true, decide_eq_true_eq] at w
    simp only [List.filter]
    split
    · simp only [swfFrom, Bool.and_eq_true, decide_eq_true_eq]; exact ⟨w.1, ih w.2⟩
    · exact swfFrom_mono (by omega) (ih w.2)

/-- A write keeps the canonical form. -/
theorem swf_sset (w : swf d m = true) : swf d (sset d m a v) = true := by
  unfold sset
  split
  · exact swfFrom_filter _ w
  · next h => exact swfFrom_sins h w (Nat.zero_le a)

theorem swf_filter (p : Nat × α → Bool) (w : swf d m = true) : swf d (m.filter p) = true := swfFrom_filter p w

theorem sget_of_lt (w : swfFrom d lo m = true) (h : j < lo) : sget d m j = d := by
  induction m generalizing lo with
  | nil => rfl
  | cons e m ih =>
    obtain ⟨k, x⟩ := e
    simp only [swfFrom, Bool.and_eq_true, decide_eq_true_eq] at w
    simp only [sget, if_neg (show ¬ j = k by omega)]
    exact ih w.2 (by omega)

/-- Canonical maps that read the same at every key are equal. -/
theorem swf_ext {m' : Sparse α} (w : swfFrom d lo m = true) (w' : swfFrom d lo m' = true) (h : ∀ i, sget d m i = sget d m' i) : m = m' := by
  induction m generalizing lo m' with
  | nil =>
    cases m' with
    | nil => rfl
    | cons e m' =>
      obtain ⟨k, x⟩ := e
      simp only [swfFrom, Bool.and_eq_true, decide_eq_true_eq] at w'
      have := h k
      simp only [sget, if_true] at this
      exact absurd this.symm w'.1.2
  | cons e m ih =>
    obtain ⟨k, x⟩ := e
    simp only [swfFrom, Bool.and_eq_true, decide_eq_true_eq] at w
    cases m' with
    | nil =>
      have := h k
      simp only [sget, if_true] at this
      exact absurd this w.1.2
    | cons e' m' =>
      obtain ⟨k', x'⟩ := e'
      simp only [swfFrom, Bool.and_eq_true, decide_eq_true_eq] at w'
      have hk : k = k' := by
        rcases Nat.lt_trichotomy k k' with hlt | heq | hgt
        · have := h k
          simp only [sget, if_true, if_neg (show ¬ k = k' by omega)] at this
          rw [sget_of_lt w'.2 (by omega)] at this
          exact absurd this w.1.2
        · exact heq
        · have := h k'
          simp only [sget, if_true, if_neg (show ¬ k' = k by omega)] at this
          rw [sget_of_lt w.2 (by omega)] at this
          exact absurd this.symm w'.1.2
      subst hk
      have hx : x = x' := by simpa [sget] using h k
      subst hx
      rw [ih w.2 w'.2 (fun i => ?_)]
      by_cases hi : i = k
      · subst hi; rw [sget_of_lt w.2 (by omega), sget_of_lt w'.2 (by omega)]
      · simpa [sget, hi] using h i
end

/-! ## Memory -/

variable {m : Sparse Byte} {a j n v : Nat} {b : Byte}

theorem memGet_memSet : memGet (memSet m a b) j = if j = a then b else memGet m j := sget_sset

@[simp] theorem memGet_memSet_same : memGet (memSet m a b) a = b := sget_sset_same

theorem memSet_wf (h : Memory.wf m = true) : Memory.wf (memSet m a b) = true := swf_sset h

theorem memWrite_wf (h : Memory.wf m = true) : Memory.wf (memWrite m a n v) = true := by
  induction n generalizing m a v with
  | zero => exact h
  | succ n ih => exact ih (memSet_wf h)

/-- What a little-endian write leaves at every byte. -/
theorem memGet_memWrite : memGet (memWrite m a n v) j =
    if a ≤ j ∧ j < a + n then BitVec.ofNat 8 (v / 256 ^ (j - a)) else memGet m j := by
  induction n generalizing m a v with
  | zero => simp [memWrite]
  | succ n ih =>
    simp only [memWrite]
    rw [ih, memGet_memSet]
    by_cases h : a + 1 ≤ j ∧ j < a + 1 + n
    · rw [if_pos h, if_pos (by omega), show j - a = (j - (a + 1)) + 1 by omega, pow_succ', Nat.div_div_eq_div_mul]
    · rw [if_neg h]
      by_cases h2 : j = a
      · subst h2; simp
      · rw [if_neg h2, if_neg (by omega)]

/-- The bytes of a list written one by one keep the canonical form. -/
theorem foldl_memSet_wf {β : Type} (key : β → Nat) (val : β → Byte) (l : List β) (h : Memory.wf m = true) :
    Memory.wf (l.foldl (fun m e => memSet m (key e) (val e)) m) = true := by
  induction l generalizing m with
  | nil => exact h
  | cons e l ih => exact ih (memSet_wf h)

end Sys2Proof.Machine
end

