-- ==== Sys2Proof/Laws/State.lean ====
section
/-! SUPPORT. What each named update of the state leaves in every field: one lemma per field and update. -/
namespace Sys2Proof.Machine

/-! ## `upd` -/

@[simp] theorem State.upd_hart (s : State) (f : Hart → Hart) : (s.upd f).hart = f s.hart := rfl
@[simp] theorem State.upd_harts (s : State) (f : Hart → Hart) : (s.upd f).harts = s.harts := rfl
@[simp] theorem State.upd_ras (s : State) (f : Hart → Hart) : (s.upd f).ras = s.ras := rfl
@[simp] theorem State.upd_lates (s : State) (f : Hart → Hart) : (s.upd f).lates = s.lates := rfl
@[simp] theorem State.upd_agenda (s : State) (f : Hart → Hart) : (s.upd f).agenda = s.agenda := rfl
@[simp] theorem State.upd_moves (s : State) (f : Hart → Hart) : (s.upd f).moves = s.moves := rfl
@[simp] theorem State.upd_free (s : State) (f : Hart → Hart) : (s.upd f).free = s.free := rfl
@[simp] theorem State.upd_cur (s : State) (f : Hart → Hart) : (s.upd f).cur = s.cur := rfl
@[simp] theorem State.upd_nextId (s : State) (f : Hart → Hart) : (s.upd f).nextId = s.nextId := rfl
@[simp] theorem State.upd_tick (s : State) (f : Hart → Hart) : (s.upd f).tick = s.tick := rfl
@[simp] theorem State.upd_mem (s : State) (f : Hart → Hart) : (s.upd f).mem = s.mem := rfl
@[simp] theorem State.upd_psn (s : State) (f : Hart → Hart) : (s.upd f).psn = s.psn := rfl
@[simp] theorem State.upd_ecc (s : State) (f : Hart → Hart) : (s.upd f).ecc = s.ecc := rfl
@[simp] theorem State.upd_stale (s : State) (f : Hart → Hart) : (s.upd f).stale = s.stale := rfl
@[simp] theorem State.upd_owners (s : State) (f : Hart → Hart) : (s.upd f).owners = s.owners := rfl
@[simp] theorem State.upd_encKey (s : State) (f : Hart → Hart) : (s.upd f).encKey = s.encKey := rfl
@[simp] theorem State.upd_sramDef (s : State) (f : Hart → Hart) : (s.upd f).sramDef = s.sramDef := rfl
@[simp] theorem State.upd_clus (s : State) (f : Hart → Hart) : (s.upd f).clus = s.clus := rfl
@[simp] theorem State.upd_stk (s : State) (f : Hart → Hart) : (s.upd f).stk = s.stk := rfl
@[simp] theorem State.upd_dies (s : State) (f : Hart → Hart) : (s.upd f).dies = s.dies := rfl
@[simp] theorem State.upd_regions (s : State) (f : Hart → Hart) : (s.upd f).regions = s.regions := rfl
@[simp] theorem State.upd_ctxs (s : State) (f : Hart → Hart) : (s.upd f).ctxs = s.ctxs := rfl
@[simp] theorem State.upd_saved (s : State) (f : Hart → Hart) : (s.upd f).saved = s.saved := rfl
@[simp] theorem State.upd_locks (s : State) (f : Hart → Hart) : (s.upd f).locks = s.locks := rfl
@[simp] theorem State.upd_invs (s : State) (f : Hart → Hart) : (s.upd f).invs = s.invs := rfl
@[simp] theorem State.upd_bcmds (s : State) (f : Hart → Hart) : (s.upd f).bcmds = s.bcmds := rfl
@[simp] theorem State.upd_slots (s : State) (f : Hart → Hart) : (s.upd f).slots = s.slots := rfl
@[simp] theorem State.upd_tiles (s : State) (f : Hart → Hart) : (s.upd f).tiles = s.tiles := rfl
@[simp] theorem State.upd_mops (s : State) (f : Hart → Hart) : (s.upd f).mops = s.mops := rfl
@[simp] theorem State.upd_copies (s : State) (f : Hart → Hart) : (s.upd f).copies = s.copies := rfl
@[simp] theorem State.upd_reqs (s : State) (f : Hart → Hart) : (s.upd f).reqs = s.reqs := rfl
@[simp] theorem State.upd_updates (s : State) (f : Hart → Hart) : (s.upd f).updates = s.updates := rfl
@[simp] theorem State.upd_signals (s : State) (f : Hart → Hart) : (s.upd f).signals = s.signals := rfl
@[simp] theorem State.upd_gens (s : State) (f : Hart → Hart) : (s.upd f).gens = s.gens := rfl
@[simp] theorem State.upd_nodes (s : State) (f : Hart → Hart) : (s.upd f).nodes = s.nodes := rfl
@[simp] theorem State.upd_decOut (s : State) (f : Hart → Hart) : (s.upd f).decOut = s.decOut := rfl
@[simp] theorem State.upd_gangs (s : State) (f : Hart → Hart) : (s.upd f).gangs = s.gangs := rfl
@[simp] theorem State.upd_vfs (s : State) (f : Hart → Hart) : (s.upd f).vfs = s.vfs := rfl
@[simp] theorem State.upd_plat (s : State) (f : Hart → Hart) : (s.upd f).plat = s.plat := rfl
@[simp] theorem State.upd_port0 (s : State) (f : Hart → Hart) : (s.upd f).port0 = s.port0 := rfl
@[simp] theorem State.upd_port1 (s : State) (f : Hart → Hart) : (s.upd f).port1 = s.port1 := rfl
@[simp] theorem State.upd_port2 (s : State) (f : Hart → Hart) : (s.upd f).port2 = s.port2 := rfl
@[simp] theorem State.upd_port3 (s : State) (f : Hart → Hart) : (s.upd f).port3 = s.port3 := rfl
@[simp] theorem State.upd_reads (s : State) (f : Hart → Hart) : (s.upd f).reads = s.reads := rfl
@[simp] theorem State.upd_gaps (s : State) (f : Hart → Hart) : (s.upd f).gaps = s.gaps := rfl
@[simp] theorem State.upd_waits (s : State) (f : Hart → Hart) : (s.upd f).waits = s.waits := rfl
@[simp] theorem State.upd_parts (s : State) (f : Hart → Hart) : (s.upd f).parts = s.parts := rfl
@[simp] theorem State.upd_uioDone (s : State) (f : Hart → Hart) : (s.upd f).uioDone = s.uioDone := rfl
@[simp] theorem State.upd_uioLost (s : State) (f : Hart → Hart) : (s.upd f).uioLost = s.uioLost := rfl
@[simp] theorem State.upd_stopped (s : State) (f : Hart → Hart) : (s.upd f).stopped = s.stopped := rfl

/-! ## `retire` -/

@[simp] theorem State.retire_hart (s : State) : (s.retire).hart = { s.hart with pc := s.hart.pc + 4, instret := s.hart.instret + 1 } := rfl
@[simp] theorem State.retire_harts (s : State) : (s.retire).harts = s.harts := rfl
@[simp] theorem State.retire_ras (s : State) : (s.retire).ras = s.ras := rfl
@[simp] theorem State.retire_lates (s : State) : (s.retire).lates = s.lates := rfl
@[simp] theorem State.retire_agenda (s : State) : (s.retire).agenda = s.agenda := rfl
@[simp] theorem State.retire_moves (s : State) : (s.retire).moves = s.moves := rfl
@[simp] theorem State.retire_free (s : State) : (s.retire).free = s.free := rfl
@[simp] theorem State.retire_cur (s : State) : (s.retire).cur = s.cur := rfl
@[simp] theorem State.retire_nextId (s : State) : (s.retire).nextId = s.nextId := rfl
@[simp] theorem State.retire_tick (s : State) : (s.retire).tick = s.tick := rfl
@[simp] theorem State.retire_mem (s : State) : (s.retire).mem = s.mem := rfl
@[simp] theorem State.retire_psn (s : State) : (s.retire).psn = s.psn := rfl
@[simp] theorem State.retire_ecc (s : State) : (s.retire).ecc = s.ecc := rfl
@[simp] theorem State.retire_stale (s : State) : (s.retire).stale = s.stale := rfl
@[simp] theorem State.retire_owners (s : State) : (s.retire).owners = s.owners := rfl
@[simp] theorem State.retire_encKey (s : State) : (s.retire).encKey = s.encKey := rfl
@[simp] theorem State.retire_sramDef (s : State) : (s.retire).sramDef = s.sramDef := rfl
@[simp] theorem State.retire_clus (s : State) : (s.retire).clus = s.clus := rfl
@[simp] theorem State.retire_stk (s : State) : (s.retire).stk = s.stk := rfl
@[simp] theorem State.retire_dies (s : State) : (s.retire).dies = s.dies := rfl
@[simp] theorem State.retire_regions (s : State) : (s.retire).regions = s.regions := rfl
@[simp] theorem State.retire_ctxs (s : State) : (s.retire).ctxs = s.ctxs := rfl
@[simp] theorem State.retire_saved (s : State) : (s.retire).saved = s.saved := rfl
@[simp] theorem State.retire_locks (s : State) : (s.retire).locks = s.locks := rfl
@[simp] theorem State.retire_invs (s : State) : (s.retire).invs = s.invs := rfl
@[simp] theorem State.retire_bcmds (s : State) : (s.retire).bcmds = s.bcmds := rfl
@[simp] theorem State.retire_slots (s : State) : (s.retire).slots = s.slots := rfl
@[simp] theorem State.retire_tiles (s : State) : (s.retire).tiles = s.tiles := rfl
@[simp] theorem State.retire_mops (s : State) : (s.retire).mops = s.mops := rfl
@[simp] theorem State.retire_copies (s : State) : (s.retire).copies = s.copies := rfl
@[simp] theorem State.retire_reqs (s : State) : (s.retire).reqs = s.reqs := rfl
@[simp] theorem State.retire_updates (s : State) : (s.retire).updates = s.updates := rfl
@[simp] theorem State.retire_signals (s : State) : (s.retire).signals = s.signals := rfl
@[simp] theorem State.retire_gens (s : State) : (s.retire).gens = s.gens := rfl
@[simp] theorem State.retire_nodes (s : State) : (s.retire).nodes = s.nodes := rfl
@[simp] theorem State.retire_decOut (s : State) : (s.retire).decOut = s.decOut := rfl
@[simp] theorem State.retire_gangs (s : State) : (s.retire).gangs = s.gangs := rfl
@[simp] theorem State.retire_vfs (s : State) : (s.retire).vfs = s.vfs := rfl
@[simp] theorem State.retire_plat (s : State) : (s.retire).plat = s.plat := rfl
@[simp] theorem State.retire_port0 (s : State) : (s.retire).port0 = s.port0 := rfl
@[simp] theorem State.retire_port1 (s : State) : (s.retire).port1 = s.port1 := rfl
@[simp] theorem State.retire_port2 (s : State) : (s.retire).port2 = s.port2 := rfl
@[simp] theorem State.retire_port3 (s : State) : (s.retire).port3 = s.port3 := rfl
@[simp] theorem State.retire_reads (s : State) : (s.retire).reads = s.reads := rfl
@[simp] theorem State.retire_gaps (s : State) : (s.retire).gaps = s.gaps := rfl
@[simp] theorem State.retire_waits (s : State) : (s.retire).waits = s.waits := rfl
@[simp] theorem State.retire_parts (s : State) : (s.retire).parts = s.parts := rfl
@[simp] theorem State.retire_uioDone (s : State) : (s.retire).uioDone = s.uioDone := rfl
@[simp] theorem State.retire_uioLost (s : State) : (s.retire).uioLost = s.uioLost := rfl
@[simp] theorem State.retire_stopped (s : State) : (s.retire).stopped = s.stopped := rfl

/-! ## `jump` -/

@[simp] theorem State.jump_hart (s : State) (t : W64) : (s.jump t).hart = { s.hart with pc := t, instret := s.hart.instret + 1 } := rfl
@[simp] theorem State.jump_harts (s : State) (t : W64) : (s.jump t).harts = s.harts := rfl
@[simp] theorem State.jump_ras (s : State) (t : W64) : (s.jump t).ras = s.ras := rfl
@[simp] theorem State.jump_lates (s : State) (t : W64) : (s.jump t).lates = s.lates := rfl
@[simp] theorem State.jump_agenda (s : State) (t : W64) : (s.jump t).agenda = s.agenda := rfl
@[simp] theorem State.jump_moves (s : State) (t : W64) : (s.jump t).moves = s.moves := rfl
@[simp] theorem State.jump_free (s : State) (t : W64) : (s.jump t).free = s.free := rfl
@[simp] theorem State.jump_cur (s : State) (t : W64) : (s.jump t).cur = s.cur := rfl
@[simp] theorem State.jump_nextId (s : State) (t : W64) : (s.jump t).nextId = s.nextId := rfl
@[simp] theorem State.jump_tick (s : State) (t : W64) : (s.jump t).tick = s.tick := rfl
@[simp] theorem State.jump_mem (s : State) (t : W64) : (s.jump t).mem = s.mem := rfl
@[simp] theorem State.jump_psn (s : State) (t : W64) : (s.jump t).psn = s.psn := rfl
@[simp] theorem State.jump_ecc (s : State) (t : W64) : (s.jump t).ecc = s.ecc := rfl
@[simp] theorem State.jump_stale (s : State) (t : W64) : (s.jump t).stale = s.stale := rfl
@[simp] theorem State.jump_owners (s : State) (t : W64) : (s.jump t).owners = s.owners := rfl
@[simp] theorem State.jump_encKey (s : State) (t : W64) : (s.jump t).encKey = s.encKey := rfl
@[simp] theorem State.jump_sramDef (s : State) (t : W64) : (s.jump t).sramDef = s.sramDef := rfl
@[simp] theorem State.jump_clus (s : State) (t : W64) : (s.jump t).clus = s.clus := rfl
@[simp] theorem State.jump_stk (s : State) (t : W64) : (s.jump t).stk = s.stk := rfl
@[simp] theorem State.jump_dies (s : State) (t : W64) : (s.jump t).dies = s.dies := rfl
@[simp] theorem State.jump_regions (s : State) (t : W64) : (s.jump t).regions = s.regions := rfl
@[simp] theorem State.jump_ctxs (s : State) (t : W64) : (s.jump t).ctxs = s.ctxs := rfl
@[simp] theorem State.jump_saved (s : State) (t : W64) : (s.jump t).saved = s.saved := rfl
@[simp] theorem State.jump_locks (s : State) (t : W64) : (s.jump t).locks = s.locks := rfl
@[simp] theorem State.jump_invs (s : State) (t : W64) : (s.jump t).invs = s.invs := rfl
@[simp] theorem State.jump_bcmds (s : State) (t : W64) : (s.jump t).bcmds = s.bcmds := rfl
@[simp] theorem State.jump_slots (s : State) (t : W64) : (s.jump t).slots = s.slots := rfl
@[simp] theorem State.jump_tiles (s : State) (t : W64) : (s.jump t).tiles = s.tiles := rfl
@[simp] theorem State.jump_mops (s : State) (t : W64) : (s.jump t).mops = s.mops := rfl
@[simp] theorem State.jump_copies (s : State) (t : W64) : (s.jump t).copies = s.copies := rfl
@[simp] theorem State.jump_reqs (s : State) (t : W64) : (s.jump t).reqs = s.reqs := rfl
@[simp] theorem State.jump_updates (s : State) (t : W64) : (s.jump t).updates = s.updates := rfl
@[simp] theorem State.jump_signals (s : State) (t : W64) : (s.jump t).signals = s.signals := rfl
@[simp] theorem State.jump_gens (s : State) (t : W64) : (s.jump t).gens = s.gens := rfl
@[simp] theorem State.jump_nodes (s : State) (t : W64) : (s.jump t).nodes = s.nodes := rfl
@[simp] theorem State.jump_decOut (s : State) (t : W64) : (s.jump t).decOut = s.decOut := rfl
@[simp] theorem State.jump_gangs (s : State) (t : W64) : (s.jump t).gangs = s.gangs := rfl
@[simp] theorem State.jump_vfs (s : State) (t : W64) : (s.jump t).vfs = s.vfs := rfl
@[simp] theorem State.jump_plat (s : State) (t : W64) : (s.jump t).plat = s.plat := rfl
@[simp] theorem State.jump_port0 (s : State) (t : W64) : (s.jump t).port0 = s.port0 := rfl
@[simp] theorem State.jump_port1 (s : State) (t : W64) : (s.jump t).port1 = s.port1 := rfl
@[simp] theorem State.jump_port2 (s : State) (t : W64) : (s.jump t).port2 = s.port2 := rfl
@[simp] theorem State.jump_port3 (s : State) (t : W64) : (s.jump t).port3 = s.port3 := rfl
@[simp] theorem State.jump_reads (s : State) (t : W64) : (s.jump t).reads = s.reads := rfl
@[simp] theorem State.jump_gaps (s : State) (t : W64) : (s.jump t).gaps = s.gaps := rfl
@[simp] theorem State.jump_waits (s : State) (t : W64) : (s.jump t).waits = s.waits := rfl
@[simp] theorem State.jump_parts (s : State) (t : W64) : (s.jump t).parts = s.parts := rfl
@[simp] theorem State.jump_uioDone (s : State) (t : W64) : (s.jump t).uioDone = s.uioDone := rfl
@[simp] theorem State.jump_uioLost (s : State) (t : W64) : (s.jump t).uioLost = s.uioLost := rfl
@[simp] theorem State.jump_stopped (s : State) (t : W64) : (s.jump t).stopped = s.stopped := rfl

/-! ## `wx` -/

@[simp] theorem State.wx_hart (s : State) (rd : Reg) (v : W64) : (s.wx rd v).hart = s.hart.wx rd (.known v) := rfl
@[simp] theorem State.wx_harts (s : State) (rd : Reg) (v : W64) : (s.wx rd v).harts = s.harts := rfl
@[simp] theorem State.wx_ras (s : State) (rd : Reg) (v : W64) : (s.wx rd v).ras = s.ras := rfl
@[simp] theorem State.wx_lates (s : State) (rd : Reg) (v : W64) : (s.wx rd v).lates = s.lates := rfl
@[simp] theorem State.wx_agenda (s : State) (rd : Reg) (v : W64) : (s.wx rd v).agenda = s.agenda := rfl
@[simp] theorem State.wx_moves (s : State) (rd : Reg) (v : W64) : (s.wx rd v).moves = s.moves := rfl
@[simp] theorem State.wx_free (s : State) (rd : Reg) (v : W64) : (s.wx rd v).free = s.free := rfl
@[simp] theorem State.wx_cur (s : State) (rd : Reg) (v : W64) : (s.wx rd v).cur = s.cur := rfl
@[simp] theorem State.wx_nextId (s : State) (rd : Reg) (v : W64) : (s.wx rd v).nextId = s.nextId := rfl
@[simp] theorem State.wx_tick (s : State) (rd : Reg) (v : W64) : (s.wx rd v).tick = s.tick := rfl
@[simp] theorem State.wx_mem (s : State) (rd : Reg) (v : W64) : (s.wx rd v).mem = s.mem := rfl
@[simp] theorem State.wx_psn (s : State) (rd : Reg) (v : W64) : (s.wx rd v).psn = s.psn := rfl
@[simp] theorem State.wx_ecc (s : State) (rd : Reg) (v : W64) : (s.wx rd v).ecc = s.ecc := rfl
@[simp] theorem State.wx_stale (s : State) (rd : Reg) (v : W64) : (s.wx rd v).stale = s.stale := rfl
@[simp] theorem State.wx_owners (s : State) (rd : Reg) (v : W64) : (s.wx rd v).owners = s.owners := rfl
@[simp] theorem State.wx_encKey (s : State) (rd : Reg) (v : W64) : (s.wx rd v).encKey = s.encKey := rfl
@[simp] theorem State.wx_sramDef (s : State) (rd : Reg) (v : W64) : (s.wx rd v).sramDef = s.sramDef := rfl
@[simp] theorem State.wx_clus (s : State) (rd : Reg) (v : W64) : (s.wx rd v).clus = s.clus := rfl
@[simp] theorem State.wx_stk (s : State) (rd : Reg) (v : W64) : (s.wx rd v).stk = s.stk := rfl
@[simp] theorem State.wx_dies (s : State) (rd : Reg) (v : W64) : (s.wx rd v).dies = s.dies := rfl
@[simp] theorem State.wx_regions (s : State) (rd : Reg) (v : W64) : (s.wx rd v).regions = s.regions := rfl
@[simp] theorem State.wx_ctxs (s : State) (rd : Reg) (v : W64) : (s.wx rd v).ctxs = s.ctxs := rfl
@[simp] theorem State.wx_saved (s : State) (rd : Reg) (v : W64) : (s.wx rd v).saved = s.saved := rfl
@[simp] theorem State.wx_locks (s : State) (rd : Reg) (v : W64) : (s.wx rd v).locks = s.locks := rfl
@[simp] theorem State.wx_invs (s : State) (rd : Reg) (v : W64) : (s.wx rd v).invs = s.invs := rfl
@[simp] theorem State.wx_bcmds (s : State) (rd : Reg) (v : W64) : (s.wx rd v).bcmds = s.bcmds := rfl
@[simp] theorem State.wx_slots (s : State) (rd : Reg) (v : W64) : (s.wx rd v).slots = s.slots := rfl
@[simp] theorem State.wx_tiles (s : State) (rd : Reg) (v : W64) : (s.wx rd v).tiles = s.tiles := rfl
@[simp] theorem State.wx_mops (s : State) (rd : Reg) (v : W64) : (s.wx rd v).mops = s.mops := rfl
@[simp] theorem State.wx_copies (s : State) (rd : Reg) (v : W64) : (s.wx rd v).copies = s.copies := rfl
@[simp] theorem State.wx_reqs (s : State) (rd : Reg) (v : W64) : (s.wx rd v).reqs = s.reqs := rfl
@[simp] theorem State.wx_updates (s : State) (rd : Reg) (v : W64) : (s.wx rd v).updates = s.updates := rfl
@[simp] theorem State.wx_signals (s : State) (rd : Reg) (v : W64) : (s.wx rd v).signals = s.signals := rfl
@[simp] theorem State.wx_gens (s : State) (rd : Reg) (v : W64) : (s.wx rd v).gens = s.gens := rfl
@[simp] theorem State.wx_nodes (s : State) (rd : Reg) (v : W64) : (s.wx rd v).nodes = s.nodes := rfl
@[simp] theorem State.wx_decOut (s : State) (rd : Reg) (v : W64) : (s.wx rd v).decOut = s.decOut := rfl
@[simp] theorem State.wx_gangs (s : State) (rd : Reg) (v : W64) : (s.wx rd v).gangs = s.gangs := rfl
@[simp] theorem State.wx_vfs (s : State) (rd : Reg) (v : W64) : (s.wx rd v).vfs = s.vfs := rfl
@[simp] theorem State.wx_plat (s : State) (rd : Reg) (v : W64) : (s.wx rd v).plat = s.plat := rfl
@[simp] theorem State.wx_port0 (s : State) (rd : Reg) (v : W64) : (s.wx rd v).port0 = s.port0 := rfl
@[simp] theorem State.wx_port1 (s : State) (rd : Reg) (v : W64) : (s.wx rd v).port1 = s.port1 := rfl
@[simp] theorem State.wx_port2 (s : State) (rd : Reg) (v : W64) : (s.wx rd v).port2 = s.port2 := rfl
@[simp] theorem State.wx_port3 (s : State) (rd : Reg) (v : W64) : (s.wx rd v).port3 = s.port3 := rfl
@[simp] theorem State.wx_reads (s : State) (rd : Reg) (v : W64) : (s.wx rd v).reads = s.reads := rfl
@[simp] theorem State.wx_gaps (s : State) (rd : Reg) (v : W64) : (s.wx rd v).gaps = s.gaps := rfl
@[simp] theorem State.wx_waits (s : State) (rd : Reg) (v : W64) : (s.wx rd v).waits = s.waits := rfl
@[simp] theorem State.wx_parts (s : State) (rd : Reg) (v : W64) : (s.wx rd v).parts = s.parts := rfl
@[simp] theorem State.wx_uioDone (s : State) (rd : Reg) (v : W64) : (s.wx rd v).uioDone = s.uioDone := rfl
@[simp] theorem State.wx_uioLost (s : State) (rd : Reg) (v : W64) : (s.wx rd v).uioLost = s.uioLost := rfl
@[simp] theorem State.wx_stopped (s : State) (rd : Reg) (v : W64) : (s.wx rd v).stopped = s.stopped := rfl

/-! ## `setStk` -/

@[simp] theorem State.setStk_hart (s : State) (i : Nat) (v : Stack) : (s.setStk i v).hart = s.hart := rfl
@[simp] theorem State.setStk_harts (s : State) (i : Nat) (v : Stack) : (s.setStk i v).harts = s.harts := rfl
@[simp] theorem State.setStk_ras (s : State) (i : Nat) (v : Stack) : (s.setStk i v).ras = s.ras := rfl
@[simp] theorem State.setStk_lates (s : State) (i : Nat) (v : Stack) : (s.setStk i v).lates = s.lates := rfl
@[simp] theorem State.setStk_agenda (s : State) (i : Nat) (v : Stack) : (s.setStk i v).agenda = s.agenda := rfl
@[simp] theorem State.setStk_moves (s : State) (i : Nat) (v : Stack) : (s.setStk i v).moves = s.moves := rfl
@[simp] theorem State.setStk_free (s : State) (i : Nat) (v : Stack) : (s.setStk i v).free = s.free := rfl
@[simp] theorem State.setStk_cur (s : State) (i : Nat) (v : Stack) : (s.setStk i v).cur = s.cur := rfl
@[simp] theorem State.setStk_nextId (s : State) (i : Nat) (v : Stack) : (s.setStk i v).nextId = s.nextId := rfl
@[simp] theorem State.setStk_tick (s : State) (i : Nat) (v : Stack) : (s.setStk i v).tick = s.tick := rfl
@[simp] theorem State.setStk_mem (s : State) (i : Nat) (v : Stack) : (s.setStk i v).mem = s.mem := rfl
@[simp] theorem State.setStk_psn (s : State) (i : Nat) (v : Stack) : (s.setStk i v).psn = s.psn := rfl
@[simp] theorem State.setStk_ecc (s : State) (i : Nat) (v : Stack) : (s.setStk i v).ecc = s.ecc := rfl
@[simp] theorem State.setStk_stale (s : State) (i : Nat) (v : Stack) : (s.setStk i v).stale = s.stale := rfl
@[simp] theorem State.setStk_owners (s : State) (i : Nat) (v : Stack) : (s.setStk i v).owners = s.owners := rfl
@[simp] theorem State.setStk_encKey (s : State) (i : Nat) (v : Stack) : (s.setStk i v).encKey = s.encKey := rfl
@[simp] theorem State.setStk_sramDef (s : State) (i : Nat) (v : Stack) : (s.setStk i v).sramDef = s.sramDef := rfl
@[simp] theorem State.setStk_clus (s : State) (i : Nat) (v : Stack) : (s.setStk i v).clus = s.clus := rfl
@[simp] theorem State.setStk_stk (s : State) (i : Nat) (v : Stack) : (s.setStk i v).stk = sset {} s.stk i v := rfl
@[simp] theorem State.setStk_dies (s : State) (i : Nat) (v : Stack) : (s.setStk i v).dies = s.dies := rfl
@[simp] theorem State.setStk_regions (s : State) (i : Nat) (v : Stack) : (s.setStk i v).regions = s.regions := rfl
@[simp] theorem State.setStk_ctxs (s : State) (i : Nat) (v : Stack) : (s.setStk i v).ctxs = s.ctxs := rfl
@[simp] theorem State.setStk_saved (s : State) (i : Nat) (v : Stack) : (s.setStk i v).saved = s.saved := rfl
@[simp] theorem State.setStk_locks (s : State) (i : Nat) (v : Stack) : (s.setStk i v).locks = s.locks := rfl
@[simp] theorem State.setStk_invs (s : State) (i : Nat) (v : Stack) : (s.setStk i v).invs = s.invs := rfl
@[simp] theorem State.setStk_bcmds (s : State) (i : Nat) (v : Stack) : (s.setStk i v).bcmds = s.bcmds := rfl
@[simp] theorem State.setStk_slots (s : State) (i : Nat) (v : Stack) : (s.setStk i v).slots = s.slots := rfl
@[simp] theorem State.setStk_tiles (s : State) (i : Nat) (v : Stack) : (s.setStk i v).tiles = s.tiles := rfl
@[simp] theorem State.setStk_mops (s : State) (i : Nat) (v : Stack) : (s.setStk i v).mops = s.mops := rfl
@[simp] theorem State.setStk_copies (s : State) (i : Nat) (v : Stack) : (s.setStk i v).copies = s.copies := rfl
@[simp] theorem State.setStk_reqs (s : State) (i : Nat) (v : Stack) : (s.setStk i v).reqs = s.reqs := rfl
@[simp] theorem State.setStk_updates (s : State) (i : Nat) (v : Stack) : (s.setStk i v).updates = s.updates := rfl
@[simp] theorem State.setStk_signals (s : State) (i : Nat) (v : Stack) : (s.setStk i v).signals = s.signals := rfl
@[simp] theorem State.setStk_gens (s : State) (i : Nat) (v : Stack) : (s.setStk i v).gens = s.gens := rfl
@[simp] theorem State.setStk_nodes (s : State) (i : Nat) (v : Stack) : (s.setStk i v).nodes = s.nodes := rfl
@[simp] theorem State.setStk_decOut (s : State) (i : Nat) (v : Stack) : (s.setStk i v).decOut = s.decOut := rfl
@[simp] theorem State.setStk_gangs (s : State) (i : Nat) (v : Stack) : (s.setStk i v).gangs = s.gangs := rfl
@[simp] theorem State.setStk_vfs (s : State) (i : Nat) (v : Stack) : (s.setStk i v).vfs = s.vfs := rfl
@[simp] theorem State.setStk_plat (s : State) (i : Nat) (v : Stack) : (s.setStk i v).plat = s.plat := rfl
@[simp] theorem State.setStk_port0 (s : State) (i : Nat) (v : Stack) : (s.setStk i v).port0 = s.port0 := rfl
@[simp] theorem State.setStk_port1 (s : State) (i : Nat) (v : Stack) : (s.setStk i v).port1 = s.port1 := rfl
@[simp] theorem State.setStk_port2 (s : State) (i : Nat) (v : Stack) : (s.setStk i v).port2 = s.port2 := rfl
@[simp] theorem State.setStk_port3 (s : State) (i : Nat) (v : Stack) : (s.setStk i v).port3 = s.port3 := rfl
@[simp] theorem State.setStk_reads (s : State) (i : Nat) (v : Stack) : (s.setStk i v).reads = s.reads := rfl
@[simp] theorem State.setStk_gaps (s : State) (i : Nat) (v : Stack) : (s.setStk i v).gaps = s.gaps := rfl
@[simp] theorem State.setStk_waits (s : State) (i : Nat) (v : Stack) : (s.setStk i v).waits = s.waits := rfl
@[simp] theorem State.setStk_parts (s : State) (i : Nat) (v : Stack) : (s.setStk i v).parts = s.parts := rfl
@[simp] theorem State.setStk_uioDone (s : State) (i : Nat) (v : Stack) : (s.setStk i v).uioDone = s.uioDone := rfl
@[simp] theorem State.setStk_uioLost (s : State) (i : Nat) (v : Stack) : (s.setStk i v).uioLost = s.uioLost := rfl
@[simp] theorem State.setStk_stopped (s : State) (i : Nat) (v : Stack) : (s.setStk i v).stopped = s.stopped := rfl

/-! ## `setClu` -/

@[simp] theorem State.setClu_hart (s : State) (i : Nat) (v : Cluster) : (s.setClu i v).hart = s.hart := rfl
@[simp] theorem State.setClu_harts (s : State) (i : Nat) (v : Cluster) : (s.setClu i v).harts = s.harts := rfl
@[simp] theorem State.setClu_ras (s : State) (i : Nat) (v : Cluster) : (s.setClu i v).ras = s.ras := rfl
@[simp] theorem State.setClu_lates (s : State) (i : Nat) (v : Cluster) : (s.setClu i v).lates = s.lates := rfl
@[simp] theorem State.setClu_agenda (s : State) (i : Nat) (v : Cluster) : (s.setClu i v).agenda = s.agenda := rfl
@[simp] theorem State.setClu_moves (s : State) (i : Nat) (v : Cluster) : (s.setClu i v).moves = s.moves := rfl
@[simp] theorem State.setClu_free (s : State) (i : Nat) (v : Cluster) : (s.setClu i v).free = s.free := rfl
@[simp] theorem State.setClu_cur (s : State) (i : Nat) (v : Cluster) : (s.setClu i v).cur = s.cur := rfl
@[simp] theorem State.setClu_nextId (s : State) (i : Nat) (v : Cluster) : (s.setClu i v).nextId = s.nextId := rfl
@[simp] theorem State.setClu_tick (s : State) (i : Nat) (v : Cluster) : (s.setClu i v).tick = s.tick := rfl
@[simp] theorem State.setClu_mem (s : State) (i : Nat) (v : Cluster) : (s.setClu i v).mem = s.mem := rfl
@[simp] theorem State.setClu_psn (s : State) (i : Nat) (v : Cluster) : (s.setClu i v).psn = s.psn := rfl
@[simp] theorem State.setClu_ecc (s : State) (i : Nat) (v : Cluster) : (s.setClu i v).ecc = s.ecc := rfl
@[simp] theorem State.setClu_stale (s : State) (i : Nat) (v : Cluster) : (s.setClu i v).stale = s.stale := rfl
@[simp] theorem State.setClu_owners (s : State) (i : Nat) (v : Cluster) : (s.setClu i v).owners = s.owners := rfl
@[simp] theorem State.setClu_encKey (s : State) (i : Nat) (v : Cluster) : (s.setClu i v).encKey = s.encKey := rfl
@[simp] theorem State.setClu_sramDef (s : State) (i : Nat) (v : Cluster) : (s.setClu i v).sramDef = s.sramDef := rfl
@[simp] theorem State.setClu_clus (s : State) (i : Nat) (v : Cluster) : (s.setClu i v).clus = sset {} s.clus i v := rfl
@[simp] theorem State.setClu_stk (s : State) (i : Nat) (v : Cluster) : (s.setClu i v).stk = s.stk := rfl
@[simp] theorem State.setClu_dies (s : State) (i : Nat) (v : Cluster) : (s.setClu i v).dies = s.dies := rfl
@[simp] theorem State.setClu_regions (s : State) (i : Nat) (v : Cluster) : (s.setClu i v).regions = s.regions := rfl
@[simp] theorem State.setClu_ctxs (s : State) (i : Nat) (v : Cluster) : (s.setClu i v).ctxs = s.ctxs := rfl
@[simp] theorem State.setClu_saved (s : State) (i : Nat) (v : Cluster) : (s.setClu i v).saved = s.saved := rfl
@[simp] theorem State.setClu_locks (s : State) (i : Nat) (v : Cluster) : (s.setClu i v).locks = s.locks := rfl
@[simp] theorem State.setClu_invs (s : State) (i : Nat) (v : Cluster) : (s.setClu i v).invs = s.invs := rfl
@[simp] theorem State.setClu_bcmds (s : State) (i : Nat) (v : Cluster) : (s.setClu i v).bcmds = s.bcmds := rfl
@[simp] theorem State.setClu_slots (s : State) (i : Nat) (v : Cluster) : (s.setClu i v).slots = s.slots := rfl
@[simp] theorem State.setClu_tiles (s : State) (i : Nat) (v : Cluster) : (s.setClu i v).tiles = s.tiles := rfl
@[simp] theorem State.setClu_mops (s : State) (i : Nat) (v : Cluster) : (s.setClu i v).mops = s.mops := rfl
@[simp] theorem State.setClu_copies (s : State) (i : Nat) (v : Cluster) : (s.setClu i v).copies = s.copies := rfl
@[simp] theorem State.setClu_reqs (s : State) (i : Nat) (v : Cluster) : (s.setClu i v).reqs = s.reqs := rfl
@[simp] theorem State.setClu_updates (s : State) (i : Nat) (v : Cluster) : (s.setClu i v).updates = s.updates := rfl
@[simp] theorem State.setClu_signals (s : State) (i : Nat) (v : Cluster) : (s.setClu i v).signals = s.signals := rfl
@[simp] theorem State.setClu_gens (s : State) (i : Nat) (v : Cluster) : (s.setClu i v).gens = s.gens := rfl
@[simp] theorem State.setClu_nodes (s : State) (i : Nat) (v : Cluster) : (s.setClu i v).nodes = s.nodes := rfl
@[simp] theorem State.setClu_decOut (s : State) (i : Nat) (v : Cluster) : (s.setClu i v).decOut = s.decOut := rfl
@[simp] theorem State.setClu_gangs (s : State) (i : Nat) (v : Cluster) : (s.setClu i v).gangs = s.gangs := rfl
@[simp] theorem State.setClu_vfs (s : State) (i : Nat) (v : Cluster) : (s.setClu i v).vfs = s.vfs := rfl
@[simp] theorem State.setClu_plat (s : State) (i : Nat) (v : Cluster) : (s.setClu i v).plat = s.plat := rfl
@[simp] theorem State.setClu_port0 (s : State) (i : Nat) (v : Cluster) : (s.setClu i v).port0 = s.port0 := rfl
@[simp] theorem State.setClu_port1 (s : State) (i : Nat) (v : Cluster) : (s.setClu i v).port1 = s.port1 := rfl
@[simp] theorem State.setClu_port2 (s : State) (i : Nat) (v : Cluster) : (s.setClu i v).port2 = s.port2 := rfl
@[simp] theorem State.setClu_port3 (s : State) (i : Nat) (v : Cluster) : (s.setClu i v).port3 = s.port3 := rfl
@[simp] theorem State.setClu_reads (s : State) (i : Nat) (v : Cluster) : (s.setClu i v).reads = s.reads := rfl
@[simp] theorem State.setClu_gaps (s : State) (i : Nat) (v : Cluster) : (s.setClu i v).gaps = s.gaps := rfl
@[simp] theorem State.setClu_waits (s : State) (i : Nat) (v : Cluster) : (s.setClu i v).waits = s.waits := rfl
@[simp] theorem State.setClu_parts (s : State) (i : Nat) (v : Cluster) : (s.setClu i v).parts = s.parts := rfl
@[simp] theorem State.setClu_uioDone (s : State) (i : Nat) (v : Cluster) : (s.setClu i v).uioDone = s.uioDone := rfl
@[simp] theorem State.setClu_uioLost (s : State) (i : Nat) (v : Cluster) : (s.setClu i v).uioLost = s.uioLost := rfl
@[simp] theorem State.setClu_stopped (s : State) (i : Nat) (v : Cluster) : (s.setClu i v).stopped = s.stopped := rfl

/-! ## `setDie` -/

@[simp] theorem State.setDie_hart (s : State) (i : Nat) (v : Die) : (s.setDie i v).hart = s.hart := rfl
@[simp] theorem State.setDie_harts (s : State) (i : Nat) (v : Die) : (s.setDie i v).harts = s.harts := rfl
@[simp] theorem State.setDie_ras (s : State) (i : Nat) (v : Die) : (s.setDie i v).ras = s.ras := rfl
@[simp] theorem State.setDie_lates (s : State) (i : Nat) (v : Die) : (s.setDie i v).lates = s.lates := rfl
@[simp] theorem State.setDie_agenda (s : State) (i : Nat) (v : Die) : (s.setDie i v).agenda = s.agenda := rfl
@[simp] theorem State.setDie_moves (s : State) (i : Nat) (v : Die) : (s.setDie i v).moves = s.moves := rfl
@[simp] theorem State.setDie_free (s : State) (i : Nat) (v : Die) : (s.setDie i v).free = s.free := rfl
@[simp] theorem State.setDie_cur (s : State) (i : Nat) (v : Die) : (s.setDie i v).cur = s.cur := rfl
@[simp] theorem State.setDie_nextId (s : State) (i : Nat) (v : Die) : (s.setDie i v).nextId = s.nextId := rfl
@[simp] theorem State.setDie_tick (s : State) (i : Nat) (v : Die) : (s.setDie i v).tick = s.tick := rfl
@[simp] theorem State.setDie_mem (s : State) (i : Nat) (v : Die) : (s.setDie i v).mem = s.mem := rfl
@[simp] theorem State.setDie_psn (s : State) (i : Nat) (v : Die) : (s.setDie i v).psn = s.psn := rfl
@[simp] theorem State.setDie_ecc (s : State) (i : Nat) (v : Die) : (s.setDie i v).ecc = s.ecc := rfl
@[simp] theorem State.setDie_stale (s : State) (i : Nat) (v : Die) : (s.setDie i v).stale = s.stale := rfl
@[simp] theorem State.setDie_owners (s : State) (i : Nat) (v : Die) : (s.setDie i v).owners = s.owners := rfl
@[simp] theorem State.setDie_encKey (s : State) (i : Nat) (v : Die) : (s.setDie i v).encKey = s.encKey := rfl
@[simp] theorem State.setDie_sramDef (s : State) (i : Nat) (v : Die) : (s.setDie i v).sramDef = s.sramDef := rfl
@[simp] theorem State.setDie_clus (s : State) (i : Nat) (v : Die) : (s.setDie i v).clus = s.clus := rfl
@[simp] theorem State.setDie_stk (s : State) (i : Nat) (v : Die) : (s.setDie i v).stk = s.stk := rfl
@[simp] theorem State.setDie_dies (s : State) (i : Nat) (v : Die) : (s.setDie i v).dies = sset {} s.dies i v := rfl
@[simp] theorem State.setDie_regions (s : State) (i : Nat) (v : Die) : (s.setDie i v).regions = s.regions := rfl
@[simp] theorem State.setDie_ctxs (s : State) (i : Nat) (v : Die) : (s.setDie i v).ctxs = s.ctxs := rfl
@[simp] theorem State.setDie_saved (s : State) (i : Nat) (v : Die) : (s.setDie i v).saved = s.saved := rfl
@[simp] theorem State.setDie_locks (s : State) (i : Nat) (v : Die) : (s.setDie i v).locks = s.locks := rfl
@[simp] theorem State.setDie_invs (s : State) (i : Nat) (v : Die) : (s.setDie i v).invs = s.invs := rfl
@[simp] theorem State.setDie_bcmds (s : State) (i : Nat) (v : Die) : (s.setDie i v).bcmds = s.bcmds := rfl
@[simp] theorem State.setDie_slots (s : State) (i : Nat) (v : Die) : (s.setDie i v).slots = s.slots := rfl
@[simp] theorem State.setDie_tiles (s : State) (i : Nat) (v : Die) : (s.setDie i v).tiles = s.tiles := rfl
@[simp] theorem State.setDie_mops (s : State) (i : Nat) (v : Die) : (s.setDie i v).mops = s.mops := rfl
@[simp] theorem State.setDie_copies (s : State) (i : Nat) (v : Die) : (s.setDie i v).copies = s.copies := rfl
@[simp] theorem State.setDie_reqs (s : State) (i : Nat) (v : Die) : (s.setDie i v).reqs = s.reqs := rfl
@[simp] theorem State.setDie_updates (s : State) (i : Nat) (v : Die) : (s.setDie i v).updates = s.updates := rfl
@[simp] theorem State.setDie_signals (s : State) (i : Nat) (v : Die) : (s.setDie i v).signals = s.signals := rfl
@[simp] theorem State.setDie_gens (s : State) (i : Nat) (v : Die) : (s.setDie i v).gens = s.gens := rfl
@[simp] theorem State.setDie_nodes (s : State) (i : Nat) (v : Die) : (s.setDie i v).nodes = s.nodes := rfl
@[simp] theorem State.setDie_decOut (s : State) (i : Nat) (v : Die) : (s.setDie i v).decOut = s.decOut := rfl
@[simp] theorem State.setDie_gangs (s : State) (i : Nat) (v : Die) : (s.setDie i v).gangs = s.gangs := rfl
@[simp] theorem State.setDie_vfs (s : State) (i : Nat) (v : Die) : (s.setDie i v).vfs = s.vfs := rfl
@[simp] theorem State.setDie_plat (s : State) (i : Nat) (v : Die) : (s.setDie i v).plat = s.plat := rfl
@[simp] theorem State.setDie_port0 (s : State) (i : Nat) (v : Die) : (s.setDie i v).port0 = s.port0 := rfl
@[simp] theorem State.setDie_port1 (s : State) (i : Nat) (v : Die) : (s.setDie i v).port1 = s.port1 := rfl
@[simp] theorem State.setDie_port2 (s : State) (i : Nat) (v : Die) : (s.setDie i v).port2 = s.port2 := rfl
@[simp] theorem State.setDie_port3 (s : State) (i : Nat) (v : Die) : (s.setDie i v).port3 = s.port3 := rfl
@[simp] theorem State.setDie_reads (s : State) (i : Nat) (v : Die) : (s.setDie i v).reads = s.reads := rfl
@[simp] theorem State.setDie_gaps (s : State) (i : Nat) (v : Die) : (s.setDie i v).gaps = s.gaps := rfl
@[simp] theorem State.setDie_waits (s : State) (i : Nat) (v : Die) : (s.setDie i v).waits = s.waits := rfl
@[simp] theorem State.setDie_parts (s : State) (i : Nat) (v : Die) : (s.setDie i v).parts = s.parts := rfl
@[simp] theorem State.setDie_uioDone (s : State) (i : Nat) (v : Die) : (s.setDie i v).uioDone = s.uioDone := rfl
@[simp] theorem State.setDie_uioLost (s : State) (i : Nat) (v : Die) : (s.setDie i v).uioLost = s.uioLost := rfl
@[simp] theorem State.setDie_stopped (s : State) (i : Nat) (v : Die) : (s.setDie i v).stopped = s.stopped := rfl

/-! ## `setCtx` -/

@[simp] theorem State.setCtx_hart (s : State) (i : Nat) (v : Ctx) : (s.setCtx i v).hart = s.hart := rfl
@[simp] theorem State.setCtx_harts (s : State) (i : Nat) (v : Ctx) : (s.setCtx i v).harts = s.harts := rfl
@[simp] theorem State.setCtx_ras (s : State) (i : Nat) (v : Ctx) : (s.setCtx i v).ras = s.ras := rfl
@[simp] theorem State.setCtx_lates (s : State) (i : Nat) (v : Ctx) : (s.setCtx i v).lates = s.lates := rfl
@[simp] theorem State.setCtx_agenda (s : State) (i : Nat) (v : Ctx) : (s.setCtx i v).agenda = s.agenda := rfl
@[simp] theorem State.setCtx_moves (s : State) (i : Nat) (v : Ctx) : (s.setCtx i v).moves = s.moves := rfl
@[simp] theorem State.setCtx_free (s : State) (i : Nat) (v : Ctx) : (s.setCtx i v).free = s.free := rfl
@[simp] theorem State.setCtx_cur (s : State) (i : Nat) (v : Ctx) : (s.setCtx i v).cur = s.cur := rfl
@[simp] theorem State.setCtx_nextId (s : State) (i : Nat) (v : Ctx) : (s.setCtx i v).nextId = s.nextId := rfl
@[simp] theorem State.setCtx_tick (s : State) (i : Nat) (v : Ctx) : (s.setCtx i v).tick = s.tick := rfl
@[simp] theorem State.setCtx_mem (s : State) (i : Nat) (v : Ctx) : (s.setCtx i v).mem = s.mem := rfl
@[simp] theorem State.setCtx_psn (s : State) (i : Nat) (v : Ctx) : (s.setCtx i v).psn = s.psn := rfl
@[simp] theorem State.setCtx_ecc (s : State) (i : Nat) (v : Ctx) : (s.setCtx i v).ecc = s.ecc := rfl
@[simp] theorem State.setCtx_stale (s : State) (i : Nat) (v : Ctx) : (s.setCtx i v).stale = s.stale := rfl
@[simp] theorem State.setCtx_owners (s : State) (i : Nat) (v : Ctx) : (s.setCtx i v).owners = s.owners := rfl
@[simp] theorem State.setCtx_encKey (s : State) (i : Nat) (v : Ctx) : (s.setCtx i v).encKey = s.encKey := rfl
@[simp] theorem State.setCtx_sramDef (s : State) (i : Nat) (v : Ctx) : (s.setCtx i v).sramDef = s.sramDef := rfl
@[simp] theorem State.setCtx_clus (s : State) (i : Nat) (v : Ctx) : (s.setCtx i v).clus = s.clus := rfl
@[simp] theorem State.setCtx_stk (s : State) (i : Nat) (v : Ctx) : (s.setCtx i v).stk = s.stk := rfl
@[simp] theorem State.setCtx_dies (s : State) (i : Nat) (v : Ctx) : (s.setCtx i v).dies = s.dies := rfl
@[simp] theorem State.setCtx_regions (s : State) (i : Nat) (v : Ctx) : (s.setCtx i v).regions = s.regions := rfl
@[simp] theorem State.setCtx_ctxs (s : State) (i : Nat) (v : Ctx) : (s.setCtx i v).ctxs = sset {} s.ctxs i v := rfl
@[simp] theorem State.setCtx_saved (s : State) (i : Nat) (v : Ctx) : (s.setCtx i v).saved = s.saved := rfl
@[simp] theorem State.setCtx_locks (s : State) (i : Nat) (v : Ctx) : (s.setCtx i v).locks = s.locks := rfl
@[simp] theorem State.setCtx_invs (s : State) (i : Nat) (v : Ctx) : (s.setCtx i v).invs = s.invs := rfl
@[simp] theorem State.setCtx_bcmds (s : State) (i : Nat) (v : Ctx) : (s.setCtx i v).bcmds = s.bcmds := rfl
@[simp] theorem State.setCtx_slots (s : State) (i : Nat) (v : Ctx) : (s.setCtx i v).slots = s.slots := rfl
@[simp] theorem State.setCtx_tiles (s : State) (i : Nat) (v : Ctx) : (s.setCtx i v).tiles = s.tiles := rfl
@[simp] theorem State.setCtx_mops (s : State) (i : Nat) (v : Ctx) : (s.setCtx i v).mops = s.mops := rfl
@[simp] theorem State.setCtx_copies (s : State) (i : Nat) (v : Ctx) : (s.setCtx i v).copies = s.copies := rfl
@[simp] theorem State.setCtx_reqs (s : State) (i : Nat) (v : Ctx) : (s.setCtx i v).reqs = s.reqs := rfl
@[simp] theorem State.setCtx_updates (s : State) (i : Nat) (v : Ctx) : (s.setCtx i v).updates = s.updates := rfl
@[simp] theorem State.setCtx_signals (s : State) (i : Nat) (v : Ctx) : (s.setCtx i v).signals = s.signals := rfl
@[simp] theorem State.setCtx_gens (s : State) (i : Nat) (v : Ctx) : (s.setCtx i v).gens = s.gens := rfl
@[simp] theorem State.setCtx_nodes (s : State) (i : Nat) (v : Ctx) : (s.setCtx i v).nodes = s.nodes := rfl
@[simp] theorem State.setCtx_decOut (s : State) (i : Nat) (v : Ctx) : (s.setCtx i v).decOut = s.decOut := rfl
@[simp] theorem State.setCtx_gangs (s : State) (i : Nat) (v : Ctx) : (s.setCtx i v).gangs = s.gangs := rfl
@[simp] theorem State.setCtx_vfs (s : State) (i : Nat) (v : Ctx) : (s.setCtx i v).vfs = s.vfs := rfl
@[simp] theorem State.setCtx_plat (s : State) (i : Nat) (v : Ctx) : (s.setCtx i v).plat = s.plat := rfl
@[simp] theorem State.setCtx_port0 (s : State) (i : Nat) (v : Ctx) : (s.setCtx i v).port0 = s.port0 := rfl
@[simp] theorem State.setCtx_port1 (s : State) (i : Nat) (v : Ctx) : (s.setCtx i v).port1 = s.port1 := rfl
@[simp] theorem State.setCtx_port2 (s : State) (i : Nat) (v : Ctx) : (s.setCtx i v).port2 = s.port2 := rfl
@[simp] theorem State.setCtx_port3 (s : State) (i : Nat) (v : Ctx) : (s.setCtx i v).port3 = s.port3 := rfl
@[simp] theorem State.setCtx_reads (s : State) (i : Nat) (v : Ctx) : (s.setCtx i v).reads = s.reads := rfl
@[simp] theorem State.setCtx_gaps (s : State) (i : Nat) (v : Ctx) : (s.setCtx i v).gaps = s.gaps := rfl
@[simp] theorem State.setCtx_waits (s : State) (i : Nat) (v : Ctx) : (s.setCtx i v).waits = s.waits := rfl
@[simp] theorem State.setCtx_parts (s : State) (i : Nat) (v : Ctx) : (s.setCtx i v).parts = s.parts := rfl
@[simp] theorem State.setCtx_uioDone (s : State) (i : Nat) (v : Ctx) : (s.setCtx i v).uioDone = s.uioDone := rfl
@[simp] theorem State.setCtx_uioLost (s : State) (i : Nat) (v : Ctx) : (s.setCtx i v).uioLost = s.uioLost := rfl
@[simp] theorem State.setCtx_stopped (s : State) (i : Nat) (v : Ctx) : (s.setCtx i v).stopped = s.stopped := rfl

/-! ## `setVf` -/

@[simp] theorem State.setVf_hart (s : State) (i : Nat) (v : Vf) : (s.setVf i v).hart = s.hart := rfl
@[simp] theorem State.setVf_harts (s : State) (i : Nat) (v : Vf) : (s.setVf i v).harts = s.harts := rfl
@[simp] theorem State.setVf_ras (s : State) (i : Nat) (v : Vf) : (s.setVf i v).ras = s.ras := rfl
@[simp] theorem State.setVf_lates (s : State) (i : Nat) (v : Vf) : (s.setVf i v).lates = s.lates := rfl
@[simp] theorem State.setVf_agenda (s : State) (i : Nat) (v : Vf) : (s.setVf i v).agenda = s.agenda := rfl
@[simp] theorem State.setVf_moves (s : State) (i : Nat) (v : Vf) : (s.setVf i v).moves = s.moves := rfl
@[simp] theorem State.setVf_free (s : State) (i : Nat) (v : Vf) : (s.setVf i v).free = s.free := rfl
@[simp] theorem State.setVf_cur (s : State) (i : Nat) (v : Vf) : (s.setVf i v).cur = s.cur := rfl
@[simp] theorem State.setVf_nextId (s : State) (i : Nat) (v : Vf) : (s.setVf i v).nextId = s.nextId := rfl
@[simp] theorem State.setVf_tick (s : State) (i : Nat) (v : Vf) : (s.setVf i v).tick = s.tick := rfl
@[simp] theorem State.setVf_mem (s : State) (i : Nat) (v : Vf) : (s.setVf i v).mem = s.mem := rfl
@[simp] theorem State.setVf_psn (s : State) (i : Nat) (v : Vf) : (s.setVf i v).psn = s.psn := rfl
@[simp] theorem State.setVf_ecc (s : State) (i : Nat) (v : Vf) : (s.setVf i v).ecc = s.ecc := rfl
@[simp] theorem State.setVf_stale (s : State) (i : Nat) (v : Vf) : (s.setVf i v).stale = s.stale := rfl
@[simp] theorem State.setVf_owners (s : State) (i : Nat) (v : Vf) : (s.setVf i v).owners = s.owners := rfl
@[simp] theorem State.setVf_encKey (s : State) (i : Nat) (v : Vf) : (s.setVf i v).encKey = s.encKey := rfl
@[simp] theorem State.setVf_sramDef (s : State) (i : Nat) (v : Vf) : (s.setVf i v).sramDef = s.sramDef := rfl
@[simp] theorem State.setVf_clus (s : State) (i : Nat) (v : Vf) : (s.setVf i v).clus = s.clus := rfl
@[simp] theorem State.setVf_stk (s : State) (i : Nat) (v : Vf) : (s.setVf i v).stk = s.stk := rfl
@[simp] theorem State.setVf_dies (s : State) (i : Nat) (v : Vf) : (s.setVf i v).dies = s.dies := rfl
@[simp] theorem State.setVf_regions (s : State) (i : Nat) (v : Vf) : (s.setVf i v).regions = s.regions := rfl
@[simp] theorem State.setVf_ctxs (s : State) (i : Nat) (v : Vf) : (s.setVf i v).ctxs = s.ctxs := rfl
@[simp] theorem State.setVf_saved (s : State) (i : Nat) (v : Vf) : (s.setVf i v).saved = s.saved := rfl
@[simp] theorem State.setVf_locks (s : State) (i : Nat) (v : Vf) : (s.setVf i v).locks = s.locks := rfl
@[simp] theorem State.setVf_invs (s : State) (i : Nat) (v : Vf) : (s.setVf i v).invs = s.invs := rfl
@[simp] theorem State.setVf_bcmds (s : State) (i : Nat) (v : Vf) : (s.setVf i v).bcmds = s.bcmds := rfl
@[simp] theorem State.setVf_slots (s : State) (i : Nat) (v : Vf) : (s.setVf i v).slots = s.slots := rfl
@[simp] theorem State.setVf_tiles (s : State) (i : Nat) (v : Vf) : (s.setVf i v).tiles = s.tiles := rfl
@[simp] theorem State.setVf_mops (s : State) (i : Nat) (v : Vf) : (s.setVf i v).mops = s.mops := rfl
@[simp] theorem State.setVf_copies (s : State) (i : Nat) (v : Vf) : (s.setVf i v).copies = s.copies := rfl
@[simp] theorem State.setVf_reqs (s : State) (i : Nat) (v : Vf) : (s.setVf i v).reqs = s.reqs := rfl
@[simp] theorem State.setVf_updates (s : State) (i : Nat) (v : Vf) : (s.setVf i v).updates = s.updates := rfl
@[simp] theorem State.setVf_signals (s : State) (i : Nat) (v : Vf) : (s.setVf i v).signals = s.signals := rfl
@[simp] theorem State.setVf_gens (s : State) (i : Nat) (v : Vf) : (s.setVf i v).gens = s.gens := rfl
@[simp] theorem State.setVf_nodes (s : State) (i : Nat) (v : Vf) : (s.setVf i v).nodes = s.nodes := rfl
@[simp] theorem State.setVf_decOut (s : State) (i : Nat) (v : Vf) : (s.setVf i v).decOut = s.decOut := rfl
@[simp] theorem State.setVf_gangs (s : State) (i : Nat) (v : Vf) : (s.setVf i v).gangs = s.gangs := rfl
@[simp] theorem State.setVf_vfs (s : State) (i : Nat) (v : Vf) : (s.setVf i v).vfs = sset {} s.vfs i v := rfl
@[simp] theorem State.setVf_plat (s : State) (i : Nat) (v : Vf) : (s.setVf i v).plat = s.plat := rfl
@[simp] theorem State.setVf_port0 (s : State) (i : Nat) (v : Vf) : (s.setVf i v).port0 = s.port0 := rfl
@[simp] theorem State.setVf_port1 (s : State) (i : Nat) (v : Vf) : (s.setVf i v).port1 = s.port1 := rfl
@[simp] theorem State.setVf_port2 (s : State) (i : Nat) (v : Vf) : (s.setVf i v).port2 = s.port2 := rfl
@[simp] theorem State.setVf_port3 (s : State) (i : Nat) (v : Vf) : (s.setVf i v).port3 = s.port3 := rfl
@[simp] theorem State.setVf_reads (s : State) (i : Nat) (v : Vf) : (s.setVf i v).reads = s.reads := rfl
@[simp] theorem State.setVf_gaps (s : State) (i : Nat) (v : Vf) : (s.setVf i v).gaps = s.gaps := rfl
@[simp] theorem State.setVf_waits (s : State) (i : Nat) (v : Vf) : (s.setVf i v).waits = s.waits := rfl
@[simp] theorem State.setVf_parts (s : State) (i : Nat) (v : Vf) : (s.setVf i v).parts = s.parts := rfl
@[simp] theorem State.setVf_uioDone (s : State) (i : Nat) (v : Vf) : (s.setVf i v).uioDone = s.uioDone := rfl
@[simp] theorem State.setVf_uioLost (s : State) (i : Nat) (v : Vf) : (s.setVf i v).uioLost = s.uioLost := rfl
@[simp] theorem State.setVf_stopped (s : State) (i : Nat) (v : Vf) : (s.setVf i v).stopped = s.stopped := rfl

/-! ## `setTile` -/

@[simp] theorem State.setTile_hart (s : State) (i : Nat) (v : Tile) : (s.setTile i v).hart = s.hart := rfl
@[simp] theorem State.setTile_harts (s : State) (i : Nat) (v : Tile) : (s.setTile i v).harts = s.harts := rfl
@[simp] theorem State.setTile_ras (s : State) (i : Nat) (v : Tile) : (s.setTile i v).ras = s.ras := rfl
@[simp] theorem State.setTile_lates (s : State) (i : Nat) (v : Tile) : (s.setTile i v).lates = s.lates := rfl
@[simp] theorem State.setTile_agenda (s : State) (i : Nat) (v : Tile) : (s.setTile i v).agenda = s.agenda := rfl
@[simp] theorem State.setTile_moves (s : State) (i : Nat) (v : Tile) : (s.setTile i v).moves = s.moves := rfl
@[simp] theorem State.setTile_free (s : State) (i : Nat) (v : Tile) : (s.setTile i v).free = s.free := rfl
@[simp] theorem State.setTile_cur (s : State) (i : Nat) (v : Tile) : (s.setTile i v).cur = s.cur := rfl
@[simp] theorem State.setTile_nextId (s : State) (i : Nat) (v : Tile) : (s.setTile i v).nextId = s.nextId := rfl
@[simp] theorem State.setTile_tick (s : State) (i : Nat) (v : Tile) : (s.setTile i v).tick = s.tick := rfl
@[simp] theorem State.setTile_mem (s : State) (i : Nat) (v : Tile) : (s.setTile i v).mem = s.mem := rfl
@[simp] theorem State.setTile_psn (s : State) (i : Nat) (v : Tile) : (s.setTile i v).psn = s.psn := rfl
@[simp] theorem State.setTile_ecc (s : State) (i : Nat) (v : Tile) : (s.setTile i v).ecc = s.ecc := rfl
@[simp] theorem State.setTile_stale (s : State) (i : Nat) (v : Tile) : (s.setTile i v).stale = s.stale := rfl
@[simp] theorem State.setTile_owners (s : State) (i : Nat) (v : Tile) : (s.setTile i v).owners = s.owners := rfl
@[simp] theorem State.setTile_encKey (s : State) (i : Nat) (v : Tile) : (s.setTile i v).encKey = s.encKey := rfl
@[simp] theorem State.setTile_sramDef (s : State) (i : Nat) (v : Tile) : (s.setTile i v).sramDef = s.sramDef := rfl
@[simp] theorem State.setTile_clus (s : State) (i : Nat) (v : Tile) : (s.setTile i v).clus = s.clus := rfl
@[simp] theorem State.setTile_stk (s : State) (i : Nat) (v : Tile) : (s.setTile i v).stk = s.stk := rfl
@[simp] theorem State.setTile_dies (s : State) (i : Nat) (v : Tile) : (s.setTile i v).dies = s.dies := rfl
@[simp] theorem State.setTile_regions (s : State) (i : Nat) (v : Tile) : (s.setTile i v).regions = s.regions := rfl
@[simp] theorem State.setTile_ctxs (s : State) (i : Nat) (v : Tile) : (s.setTile i v).ctxs = s.ctxs := rfl
@[simp] theorem State.setTile_saved (s : State) (i : Nat) (v : Tile) : (s.setTile i v).saved = s.saved := rfl
@[simp] theorem State.setTile_locks (s : State) (i : Nat) (v : Tile) : (s.setTile i v).locks = s.locks := rfl
@[simp] theorem State.setTile_invs (s : State) (i : Nat) (v : Tile) : (s.setTile i v).invs = s.invs := rfl
@[simp] theorem State.setTile_bcmds (s : State) (i : Nat) (v : Tile) : (s.setTile i v).bcmds = s.bcmds := rfl
@[simp] theorem State.setTile_slots (s : State) (i : Nat) (v : Tile) : (s.setTile i v).slots = s.slots := rfl
@[simp] theorem State.setTile_tiles (s : State) (i : Nat) (v : Tile) : (s.setTile i v).tiles = sset {} s.tiles i v := rfl
@[simp] theorem State.setTile_mops (s : State) (i : Nat) (v : Tile) : (s.setTile i v).mops = s.mops := rfl
@[simp] theorem State.setTile_copies (s : State) (i : Nat) (v : Tile) : (s.setTile i v).copies = s.copies := rfl
@[simp] theorem State.setTile_reqs (s : State) (i : Nat) (v : Tile) : (s.setTile i v).reqs = s.reqs := rfl
@[simp] theorem State.setTile_updates (s : State) (i : Nat) (v : Tile) : (s.setTile i v).updates = s.updates := rfl
@[simp] theorem State.setTile_signals (s : State) (i : Nat) (v : Tile) : (s.setTile i v).signals = s.signals := rfl
@[simp] theorem State.setTile_gens (s : State) (i : Nat) (v : Tile) : (s.setTile i v).gens = s.gens := rfl
@[simp] theorem State.setTile_nodes (s : State) (i : Nat) (v : Tile) : (s.setTile i v).nodes = s.nodes := rfl
@[simp] theorem State.setTile_decOut (s : State) (i : Nat) (v : Tile) : (s.setTile i v).decOut = s.decOut := rfl
@[simp] theorem State.setTile_gangs (s : State) (i : Nat) (v : Tile) : (s.setTile i v).gangs = s.gangs := rfl
@[simp] theorem State.setTile_vfs (s : State) (i : Nat) (v : Tile) : (s.setTile i v).vfs = s.vfs := rfl
@[simp] theorem State.setTile_plat (s : State) (i : Nat) (v : Tile) : (s.setTile i v).plat = s.plat := rfl
@[simp] theorem State.setTile_port0 (s : State) (i : Nat) (v : Tile) : (s.setTile i v).port0 = s.port0 := rfl
@[simp] theorem State.setTile_port1 (s : State) (i : Nat) (v : Tile) : (s.setTile i v).port1 = s.port1 := rfl
@[simp] theorem State.setTile_port2 (s : State) (i : Nat) (v : Tile) : (s.setTile i v).port2 = s.port2 := rfl
@[simp] theorem State.setTile_port3 (s : State) (i : Nat) (v : Tile) : (s.setTile i v).port3 = s.port3 := rfl
@[simp] theorem State.setTile_reads (s : State) (i : Nat) (v : Tile) : (s.setTile i v).reads = s.reads := rfl
@[simp] theorem State.setTile_gaps (s : State) (i : Nat) (v : Tile) : (s.setTile i v).gaps = s.gaps := rfl
@[simp] theorem State.setTile_waits (s : State) (i : Nat) (v : Tile) : (s.setTile i v).waits = s.waits := rfl
@[simp] theorem State.setTile_parts (s : State) (i : Nat) (v : Tile) : (s.setTile i v).parts = s.parts := rfl
@[simp] theorem State.setTile_uioDone (s : State) (i : Nat) (v : Tile) : (s.setTile i v).uioDone = s.uioDone := rfl
@[simp] theorem State.setTile_uioLost (s : State) (i : Nat) (v : Tile) : (s.setTile i v).uioLost = s.uioLost := rfl
@[simp] theorem State.setTile_stopped (s : State) (i : Nat) (v : Tile) : (s.setTile i v).stopped = s.stopped := rfl

/-! ## `setSlot` -/

@[simp] theorem State.setSlot_hart (s : State) (i : Nat) (v : SlotDesc) : (s.setSlot i v).hart = s.hart := rfl
@[simp] theorem State.setSlot_harts (s : State) (i : Nat) (v : SlotDesc) : (s.setSlot i v).harts = s.harts := rfl
@[simp] theorem State.setSlot_ras (s : State) (i : Nat) (v : SlotDesc) : (s.setSlot i v).ras = s.ras := rfl
@[simp] theorem State.setSlot_lates (s : State) (i : Nat) (v : SlotDesc) : (s.setSlot i v).lates = s.lates := rfl
@[simp] theorem State.setSlot_agenda (s : State) (i : Nat) (v : SlotDesc) : (s.setSlot i v).agenda = s.agenda := rfl
@[simp] theorem State.setSlot_moves (s : State) (i : Nat) (v : SlotDesc) : (s.setSlot i v).moves = s.moves := rfl
@[simp] theorem State.setSlot_free (s : State) (i : Nat) (v : SlotDesc) : (s.setSlot i v).free = s.free := rfl
@[simp] theorem State.setSlot_cur (s : State) (i : Nat) (v : SlotDesc) : (s.setSlot i v).cur = s.cur := rfl
@[simp] theorem State.setSlot_nextId (s : State) (i : Nat) (v : SlotDesc) : (s.setSlot i v).nextId = s.nextId := rfl
@[simp] theorem State.setSlot_tick (s : State) (i : Nat) (v : SlotDesc) : (s.setSlot i v).tick = s.tick := rfl
@[simp] theorem State.setSlot_mem (s : State) (i : Nat) (v : SlotDesc) : (s.setSlot i v).mem = s.mem := rfl
@[simp] theorem State.setSlot_psn (s : State) (i : Nat) (v : SlotDesc) : (s.setSlot i v).psn = s.psn := rfl
@[simp] theorem State.setSlot_ecc (s : State) (i : Nat) (v : SlotDesc) : (s.setSlot i v).ecc = s.ecc := rfl
@[simp] theorem State.setSlot_stale (s : State) (i : Nat) (v : SlotDesc) : (s.setSlot i v).stale = s.stale := rfl
@[simp] theorem State.setSlot_owners (s : State) (i : Nat) (v : SlotDesc) : (s.setSlot i v).owners = s.owners := rfl
@[simp] theorem State.setSlot_encKey (s : State) (i : Nat) (v : SlotDesc) : (s.setSlot i v).encKey = s.encKey := rfl
@[simp] theorem State.setSlot_sramDef (s : State) (i : Nat) (v : SlotDesc) : (s.setSlot i v).sramDef = s.sramDef := rfl
@[simp] theorem State.setSlot_clus (s : State) (i : Nat) (v : SlotDesc) : (s.setSlot i v).clus = s.clus := rfl
@[simp] theorem State.setSlot_stk (s : State) (i : Nat) (v : SlotDesc) : (s.setSlot i v).stk = s.stk := rfl
@[simp] theorem State.setSlot_dies (s : State) (i : Nat) (v : SlotDesc) : (s.setSlot i v).dies = s.dies := rfl
@[simp] theorem State.setSlot_regions (s : State) (i : Nat) (v : SlotDesc) : (s.setSlot i v).regions = s.regions := rfl
@[simp] theorem State.setSlot_ctxs (s : State) (i : Nat) (v : SlotDesc) : (s.setSlot i v).ctxs = s.ctxs := rfl
@[simp] theorem State.setSlot_saved (s : State) (i : Nat) (v : SlotDesc) : (s.setSlot i v).saved = s.saved := rfl
@[simp] theorem State.setSlot_locks (s : State) (i : Nat) (v : SlotDesc) : (s.setSlot i v).locks = s.locks := rfl
@[simp] theorem State.setSlot_invs (s : State) (i : Nat) (v : SlotDesc) : (s.setSlot i v).invs = s.invs := rfl
@[simp] theorem State.setSlot_bcmds (s : State) (i : Nat) (v : SlotDesc) : (s.setSlot i v).bcmds = s.bcmds := rfl
@[simp] theorem State.setSlot_slots (s : State) (i : Nat) (v : SlotDesc) : (s.setSlot i v).slots = sset {} s.slots i v := rfl
@[simp] theorem State.setSlot_tiles (s : State) (i : Nat) (v : SlotDesc) : (s.setSlot i v).tiles = s.tiles := rfl
@[simp] theorem State.setSlot_mops (s : State) (i : Nat) (v : SlotDesc) : (s.setSlot i v).mops = s.mops := rfl
@[simp] theorem State.setSlot_copies (s : State) (i : Nat) (v : SlotDesc) : (s.setSlot i v).copies = s.copies := rfl
@[simp] theorem State.setSlot_reqs (s : State) (i : Nat) (v : SlotDesc) : (s.setSlot i v).reqs = s.reqs := rfl
@[simp] theorem State.setSlot_updates (s : State) (i : Nat) (v : SlotDesc) : (s.setSlot i v).updates = s.updates := rfl
@[simp] theorem State.setSlot_signals (s : State) (i : Nat) (v : SlotDesc) : (s.setSlot i v).signals = s.signals := rfl
@[simp] theorem State.setSlot_gens (s : State) (i : Nat) (v : SlotDesc) : (s.setSlot i v).gens = s.gens := rfl
@[simp] theorem State.setSlot_nodes (s : State) (i : Nat) (v : SlotDesc) : (s.setSlot i v).nodes = s.nodes := rfl
@[simp] theorem State.setSlot_decOut (s : State) (i : Nat) (v : SlotDesc) : (s.setSlot i v).decOut = s.decOut := rfl
@[simp] theorem State.setSlot_gangs (s : State) (i : Nat) (v : SlotDesc) : (s.setSlot i v).gangs = s.gangs := rfl
@[simp] theorem State.setSlot_vfs (s : State) (i : Nat) (v : SlotDesc) : (s.setSlot i v).vfs = s.vfs := rfl
@[simp] theorem State.setSlot_plat (s : State) (i : Nat) (v : SlotDesc) : (s.setSlot i v).plat = s.plat := rfl
@[simp] theorem State.setSlot_port0 (s : State) (i : Nat) (v : SlotDesc) : (s.setSlot i v).port0 = s.port0 := rfl
@[simp] theorem State.setSlot_port1 (s : State) (i : Nat) (v : SlotDesc) : (s.setSlot i v).port1 = s.port1 := rfl
@[simp] theorem State.setSlot_port2 (s : State) (i : Nat) (v : SlotDesc) : (s.setSlot i v).port2 = s.port2 := rfl
@[simp] theorem State.setSlot_port3 (s : State) (i : Nat) (v : SlotDesc) : (s.setSlot i v).port3 = s.port3 := rfl
@[simp] theorem State.setSlot_reads (s : State) (i : Nat) (v : SlotDesc) : (s.setSlot i v).reads = s.reads := rfl
@[simp] theorem State.setSlot_gaps (s : State) (i : Nat) (v : SlotDesc) : (s.setSlot i v).gaps = s.gaps := rfl
@[simp] theorem State.setSlot_waits (s : State) (i : Nat) (v : SlotDesc) : (s.setSlot i v).waits = s.waits := rfl
@[simp] theorem State.setSlot_parts (s : State) (i : Nat) (v : SlotDesc) : (s.setSlot i v).parts = s.parts := rfl
@[simp] theorem State.setSlot_uioDone (s : State) (i : Nat) (v : SlotDesc) : (s.setSlot i v).uioDone = s.uioDone := rfl
@[simp] theorem State.setSlot_uioLost (s : State) (i : Nat) (v : SlotDesc) : (s.setSlot i v).uioLost = s.uioLost := rfl
@[simp] theorem State.setSlot_stopped (s : State) (i : Nat) (v : SlotDesc) : (s.setSlot i v).stopped = s.stopped := rfl

/-! ## `post` -/

@[simp] theorem State.post_hart (s : State) (i : Instr) : (s.post i).hart = s.hart := rfl
@[simp] theorem State.post_harts (s : State) (i : Instr) : (s.post i).harts = s.harts := rfl
@[simp] theorem State.post_ras (s : State) (i : Instr) : (s.post i).ras = s.ras := rfl
@[simp] theorem State.post_lates (s : State) (i : Instr) : (s.post i).lates = s.lates := rfl
@[simp] theorem State.post_agenda (s : State) (i : Instr) : (s.post i).agenda = s.agenda ++ [.event i] := rfl
@[simp] theorem State.post_moves (s : State) (i : Instr) : (s.post i).moves = s.moves := rfl
@[simp] theorem State.post_free (s : State) (i : Instr) : (s.post i).free = s.free := rfl
@[simp] theorem State.post_cur (s : State) (i : Instr) : (s.post i).cur = s.cur := rfl
@[simp] theorem State.post_nextId (s : State) (i : Instr) : (s.post i).nextId = s.nextId := rfl
@[simp] theorem State.post_tick (s : State) (i : Instr) : (s.post i).tick = s.tick := rfl
@[simp] theorem State.post_mem (s : State) (i : Instr) : (s.post i).mem = s.mem := rfl
@[simp] theorem State.post_psn (s : State) (i : Instr) : (s.post i).psn = s.psn := rfl
@[simp] theorem State.post_ecc (s : State) (i : Instr) : (s.post i).ecc = s.ecc := rfl
@[simp] theorem State.post_stale (s : State) (i : Instr) : (s.post i).stale = s.stale := rfl
@[simp] theorem State.post_owners (s : State) (i : Instr) : (s.post i).owners = s.owners := rfl
@[simp] theorem State.post_encKey (s : State) (i : Instr) : (s.post i).encKey = s.encKey := rfl
@[simp] theorem State.post_sramDef (s : State) (i : Instr) : (s.post i).sramDef = s.sramDef := rfl
@[simp] theorem State.post_clus (s : State) (i : Instr) : (s.post i).clus = s.clus := rfl
@[simp] theorem State.post_stk (s : State) (i : Instr) : (s.post i).stk = s.stk := rfl
@[simp] theorem State.post_dies (s : State) (i : Instr) : (s.post i).dies = s.dies := rfl
@[simp] theorem State.post_regions (s : State) (i : Instr) : (s.post i).regions = s.regions := rfl
@[simp] theorem State.post_ctxs (s : State) (i : Instr) : (s.post i).ctxs = s.ctxs := rfl
@[simp] theorem State.post_saved (s : State) (i : Instr) : (s.post i).saved = s.saved := rfl
@[simp] theorem State.post_locks (s : State) (i : Instr) : (s.post i).locks = s.locks := rfl
@[simp] theorem State.post_invs (s : State) (i : Instr) : (s.post i).invs = s.invs := rfl
@[simp] theorem State.post_bcmds (s : State) (i : Instr) : (s.post i).bcmds = s.bcmds := rfl
@[simp] theorem State.post_slots (s : State) (i : Instr) : (s.post i).slots = s.slots := rfl
@[simp] theorem State.post_tiles (s : State) (i : Instr) : (s.post i).tiles = s.tiles := rfl
@[simp] theorem State.post_mops (s : State) (i : Instr) : (s.post i).mops = s.mops := rfl
@[simp] theorem State.post_copies (s : State) (i : Instr) : (s.post i).copies = s.copies := rfl
@[simp] theorem State.post_reqs (s : State) (i : Instr) : (s.post i).reqs = s.reqs := rfl
@[simp] theorem State.post_updates (s : State) (i : Instr) : (s.post i).updates = s.updates := rfl
@[simp] theorem State.post_signals (s : State) (i : Instr) : (s.post i).signals = s.signals := rfl
@[simp] theorem State.post_gens (s : State) (i : Instr) : (s.post i).gens = s.gens := rfl
@[simp] theorem State.post_nodes (s : State) (i : Instr) : (s.post i).nodes = s.nodes := rfl
@[simp] theorem State.post_decOut (s : State) (i : Instr) : (s.post i).decOut = s.decOut := rfl
@[simp] theorem State.post_gangs (s : State) (i : Instr) : (s.post i).gangs = s.gangs := rfl
@[simp] theorem State.post_vfs (s : State) (i : Instr) : (s.post i).vfs = s.vfs := rfl
@[simp] theorem State.post_plat (s : State) (i : Instr) : (s.post i).plat = s.plat := rfl
@[simp] theorem State.post_port0 (s : State) (i : Instr) : (s.post i).port0 = s.port0 := rfl
@[simp] theorem State.post_port1 (s : State) (i : Instr) : (s.post i).port1 = s.port1 := rfl
@[simp] theorem State.post_port2 (s : State) (i : Instr) : (s.post i).port2 = s.port2 := rfl
@[simp] theorem State.post_port3 (s : State) (i : Instr) : (s.post i).port3 = s.port3 := rfl
@[simp] theorem State.post_reads (s : State) (i : Instr) : (s.post i).reads = s.reads := rfl
@[simp] theorem State.post_gaps (s : State) (i : Instr) : (s.post i).gaps = s.gaps := rfl
@[simp] theorem State.post_waits (s : State) (i : Instr) : (s.post i).waits = s.waits := rfl
@[simp] theorem State.post_parts (s : State) (i : Instr) : (s.post i).parts = s.parts := rfl
@[simp] theorem State.post_uioDone (s : State) (i : Instr) : (s.post i).uioDone = s.uioDone := rfl
@[simp] theorem State.post_uioLost (s : State) (i : Instr) : (s.post i).uioLost = s.uioLost := rfl
@[simp] theorem State.post_stopped (s : State) (i : Instr) : (s.post i).stopped = s.stopped := rfl

/-! ## `postAct` -/

@[simp] theorem State.postAct_hart (s : State) (a : Act) : (s.postAct a).hart = s.hart := rfl
@[simp] theorem State.postAct_harts (s : State) (a : Act) : (s.postAct a).harts = s.harts := rfl
@[simp] theorem State.postAct_ras (s : State) (a : Act) : (s.postAct a).ras = s.ras := rfl
@[simp] theorem State.postAct_lates (s : State) (a : Act) : (s.postAct a).lates = s.lates := rfl
@[simp] theorem State.postAct_agenda (s : State) (a : Act) : (s.postAct a).agenda = s.agenda ++ [a] := rfl
@[simp] theorem State.postAct_moves (s : State) (a : Act) : (s.postAct a).moves = s.moves := rfl
@[simp] theorem State.postAct_free (s : State) (a : Act) : (s.postAct a).free = s.free := rfl
@[simp] theorem State.postAct_cur (s : State) (a : Act) : (s.postAct a).cur = s.cur := rfl
@[simp] theorem State.postAct_nextId (s : State) (a : Act) : (s.postAct a).nextId = s.nextId := rfl
@[simp] theorem State.postAct_tick (s : State) (a : Act) : (s.postAct a).tick = s.tick := rfl
@[simp] theorem State.postAct_mem (s : State) (a : Act) : (s.postAct a).mem = s.mem := rfl
@[simp] theorem State.postAct_psn (s : State) (a : Act) : (s.postAct a).psn = s.psn := rfl
@[simp] theorem State.postAct_ecc (s : State) (a : Act) : (s.postAct a).ecc = s.ecc := rfl
@[simp] theorem State.postAct_stale (s : State) (a : Act) : (s.postAct a).stale = s.stale := rfl
@[simp] theorem State.postAct_owners (s : State) (a : Act) : (s.postAct a).owners = s.owners := rfl
@[simp] theorem State.postAct_encKey (s : State) (a : Act) : (s.postAct a).encKey = s.encKey := rfl
@[simp] theorem State.postAct_sramDef (s : State) (a : Act) : (s.postAct a).sramDef = s.sramDef := rfl
@[simp] theorem State.postAct_clus (s : State) (a : Act) : (s.postAct a).clus = s.clus := rfl
@[simp] theorem State.postAct_stk (s : State) (a : Act) : (s.postAct a).stk = s.stk := rfl
@[simp] theorem State.postAct_dies (s : State) (a : Act) : (s.postAct a).dies = s.dies := rfl
@[simp] theorem State.postAct_regions (s : State) (a : Act) : (s.postAct a).regions = s.regions := rfl
@[simp] theorem State.postAct_ctxs (s : State) (a : Act) : (s.postAct a).ctxs = s.ctxs := rfl
@[simp] theorem State.postAct_saved (s : State) (a : Act) : (s.postAct a).saved = s.saved := rfl
@[simp] theorem State.postAct_locks (s : State) (a : Act) : (s.postAct a).locks = s.locks := rfl
@[simp] theorem State.postAct_invs (s : State) (a : Act) : (s.postAct a).invs = s.invs := rfl
@[simp] theorem State.postAct_bcmds (s : State) (a : Act) : (s.postAct a).bcmds = s.bcmds := rfl
@[simp] theorem State.postAct_slots (s : State) (a : Act) : (s.postAct a).slots = s.slots := rfl
@[simp] theorem State.postAct_tiles (s : State) (a : Act) : (s.postAct a).tiles = s.tiles := rfl
@[simp] theorem State.postAct_mops (s : State) (a : Act) : (s.postAct a).mops = s.mops := rfl
@[simp] theorem State.postAct_copies (s : State) (a : Act) : (s.postAct a).copies = s.copies := rfl
@[simp] theorem State.postAct_reqs (s : State) (a : Act) : (s.postAct a).reqs = s.reqs := rfl
@[simp] theorem State.postAct_updates (s : State) (a : Act) : (s.postAct a).updates = s.updates := rfl
@[simp] theorem State.postAct_signals (s : State) (a : Act) : (s.postAct a).signals = s.signals := rfl
@[simp] theorem State.postAct_gens (s : State) (a : Act) : (s.postAct a).gens = s.gens := rfl
@[simp] theorem State.postAct_nodes (s : State) (a : Act) : (s.postAct a).nodes = s.nodes := rfl
@[simp] theorem State.postAct_decOut (s : State) (a : Act) : (s.postAct a).decOut = s.decOut := rfl
@[simp] theorem State.postAct_gangs (s : State) (a : Act) : (s.postAct a).gangs = s.gangs := rfl
@[simp] theorem State.postAct_vfs (s : State) (a : Act) : (s.postAct a).vfs = s.vfs := rfl
@[simp] theorem State.postAct_plat (s : State) (a : Act) : (s.postAct a).plat = s.plat := rfl
@[simp] theorem State.postAct_port0 (s : State) (a : Act) : (s.postAct a).port0 = s.port0 := rfl
@[simp] theorem State.postAct_port1 (s : State) (a : Act) : (s.postAct a).port1 = s.port1 := rfl
@[simp] theorem State.postAct_port2 (s : State) (a : Act) : (s.postAct a).port2 = s.port2 := rfl
@[simp] theorem State.postAct_port3 (s : State) (a : Act) : (s.postAct a).port3 = s.port3 := rfl
@[simp] theorem State.postAct_reads (s : State) (a : Act) : (s.postAct a).reads = s.reads := rfl
@[simp] theorem State.postAct_gaps (s : State) (a : Act) : (s.postAct a).gaps = s.gaps := rfl
@[simp] theorem State.postAct_waits (s : State) (a : Act) : (s.postAct a).waits = s.waits := rfl
@[simp] theorem State.postAct_parts (s : State) (a : Act) : (s.postAct a).parts = s.parts := rfl
@[simp] theorem State.postAct_uioDone (s : State) (a : Act) : (s.postAct a).uioDone = s.uioDone := rfl
@[simp] theorem State.postAct_uioLost (s : State) (a : Act) : (s.postAct a).uioLost = s.uioLost := rfl
@[simp] theorem State.postAct_stopped (s : State) (a : Act) : (s.postAct a).stopped = s.stopped := rfl

/-! ## `onAhead` -/

@[simp] theorem State.onAhead_hart (s : State) (f : RunAhead → RunAhead) : (s.onAhead f).hart = s.hart := rfl
@[simp] theorem State.onAhead_harts (s : State) (f : RunAhead → RunAhead) : (s.onAhead f).harts = s.harts := rfl
@[simp] theorem State.onAhead_ras (s : State) (f : RunAhead → RunAhead) : (s.onAhead f).ras = modList (fun r => decide (r.place = s.hart.place)) f s.ras := rfl
@[simp] theorem State.onAhead_lates (s : State) (f : RunAhead → RunAhead) : (s.onAhead f).lates = s.lates := rfl
@[simp] theorem State.onAhead_agenda (s : State) (f : RunAhead → RunAhead) : (s.onAhead f).agenda = s.agenda := rfl
@[simp] theorem State.onAhead_moves (s : State) (f : RunAhead → RunAhead) : (s.onAhead f).moves = s.moves := rfl
@[simp] theorem State.onAhead_free (s : State) (f : RunAhead → RunAhead) : (s.onAhead f).free = s.free := rfl
@[simp] theorem State.onAhead_cur (s : State) (f : RunAhead → RunAhead) : (s.onAhead f).cur = s.cur := rfl
@[simp] theorem State.onAhead_nextId (s : State) (f : RunAhead → RunAhead) : (s.onAhead f).nextId = s.nextId := rfl
@[simp] theorem State.onAhead_tick (s : State) (f : RunAhead → RunAhead) : (s.onAhead f).tick = s.tick := rfl
@[simp] theorem State.onAhead_mem (s : State) (f : RunAhead → RunAhead) : (s.onAhead f).mem = s.mem := rfl
@[simp] theorem State.onAhead_psn (s : State) (f : RunAhead → RunAhead) : (s.onAhead f).psn = s.psn := rfl
@[simp] theorem State.onAhead_ecc (s : State) (f : RunAhead → RunAhead) : (s.onAhead f).ecc = s.ecc := rfl
@[simp] theorem State.onAhead_stale (s : State) (f : RunAhead → RunAhead) : (s.onAhead f).stale = s.stale := rfl
@[simp] theorem State.onAhead_owners (s : State) (f : RunAhead → RunAhead) : (s.onAhead f).owners = s.owners := rfl
@[simp] theorem State.onAhead_encKey (s : State) (f : RunAhead → RunAhead) : (s.onAhead f).encKey = s.encKey := rfl
@[simp] theorem State.onAhead_sramDef (s : State) (f : RunAhead → RunAhead) : (s.onAhead f).sramDef = s.sramDef := rfl
@[simp] theorem State.onAhead_clus (s : State) (f : RunAhead → RunAhead) : (s.onAhead f).clus = s.clus := rfl
@[simp] theorem State.onAhead_stk (s : State) (f : RunAhead → RunAhead) : (s.onAhead f).stk = s.stk := rfl
@[simp] theorem State.onAhead_dies (s : State) (f : RunAhead → RunAhead) : (s.onAhead f).dies = s.dies := rfl
@[simp] theorem State.onAhead_regions (s : State) (f : RunAhead → RunAhead) : (s.onAhead f).regions = s.regions := rfl
@[simp] theorem State.onAhead_ctxs (s : State) (f : RunAhead → RunAhead) : (s.onAhead f).ctxs = s.ctxs := rfl
@[simp] theorem State.onAhead_saved (s : State) (f : RunAhead → RunAhead) : (s.onAhead f).saved = s.saved := rfl
@[simp] theorem State.onAhead_locks (s : State) (f : RunAhead → RunAhead) : (s.onAhead f).locks = s.locks := rfl
@[simp] theorem State.onAhead_invs (s : State) (f : RunAhead → RunAhead) : (s.onAhead f).invs = s.invs := rfl
@[simp] theorem State.onAhead_bcmds (s : State) (f : RunAhead → RunAhead) : (s.onAhead f).bcmds = s.bcmds := rfl
@[simp] theorem State.onAhead_slots (s : State) (f : RunAhead → RunAhead) : (s.onAhead f).slots = s.slots := rfl
@[simp] theorem State.onAhead_tiles (s : State) (f : RunAhead → RunAhead) : (s.onAhead f).tiles = s.tiles := rfl
@[simp] theorem State.onAhead_mops (s : State) (f : RunAhead → RunAhead) : (s.onAhead f).mops = s.mops := rfl
@[simp] theorem State.onAhead_copies (s : State) (f : RunAhead → RunAhead) : (s.onAhead f).copies = s.copies := rfl
@[simp] theorem State.onAhead_reqs (s : State) (f : RunAhead → RunAhead) : (s.onAhead f).reqs = s.reqs := rfl
@[simp] theorem State.onAhead_updates (s : State) (f : RunAhead → RunAhead) : (s.onAhead f).updates = s.updates := rfl
@[simp] theorem State.onAhead_signals (s : State) (f : RunAhead → RunAhead) : (s.onAhead f).signals = s.signals := rfl
@[simp] theorem State.onAhead_gens (s : State) (f : RunAhead → RunAhead) : (s.onAhead f).gens = s.gens := rfl
@[simp] theorem State.onAhead_nodes (s : State) (f : RunAhead → RunAhead) : (s.onAhead f).nodes = s.nodes := rfl
@[simp] theorem State.onAhead_decOut (s : State) (f : RunAhead → RunAhead) : (s.onAhead f).decOut = s.decOut := rfl
@[simp] theorem State.onAhead_gangs (s : State) (f : RunAhead → RunAhead) : (s.onAhead f).gangs = s.gangs := rfl
@[simp] theorem State.onAhead_vfs (s : State) (f : RunAhead → RunAhead) : (s.onAhead f).vfs = s.vfs := rfl
@[simp] theorem State.onAhead_plat (s : State) (f : RunAhead → RunAhead) : (s.onAhead f).plat = s.plat := rfl
@[simp] theorem State.onAhead_port0 (s : State) (f : RunAhead → RunAhead) : (s.onAhead f).port0 = s.port0 := rfl
@[simp] theorem State.onAhead_port1 (s : State) (f : RunAhead → RunAhead) : (s.onAhead f).port1 = s.port1 := rfl
@[simp] theorem State.onAhead_port2 (s : State) (f : RunAhead → RunAhead) : (s.onAhead f).port2 = s.port2 := rfl
@[simp] theorem State.onAhead_port3 (s : State) (f : RunAhead → RunAhead) : (s.onAhead f).port3 = s.port3 := rfl
@[simp] theorem State.onAhead_reads (s : State) (f : RunAhead → RunAhead) : (s.onAhead f).reads = s.reads := rfl
@[simp] theorem State.onAhead_gaps (s : State) (f : RunAhead → RunAhead) : (s.onAhead f).gaps = s.gaps := rfl
@[simp] theorem State.onAhead_waits (s : State) (f : RunAhead → RunAhead) : (s.onAhead f).waits = s.waits := rfl
@[simp] theorem State.onAhead_parts (s : State) (f : RunAhead → RunAhead) : (s.onAhead f).parts = s.parts := rfl
@[simp] theorem State.onAhead_uioDone (s : State) (f : RunAhead → RunAhead) : (s.onAhead f).uioDone = s.uioDone := rfl
@[simp] theorem State.onAhead_uioLost (s : State) (f : RunAhead → RunAhead) : (s.onAhead f).uioLost = s.uioLost := rfl
@[simp] theorem State.onAhead_stopped (s : State) (f : RunAhead → RunAhead) : (s.onAhead f).stopped = s.stopped := rfl

/-! ## `poison` -/

@[simp] theorem State.poison_hart (s : State) (w : Nat) : (s.poison w).hart = s.hart := rfl
@[simp] theorem State.poison_harts (s : State) (w : Nat) : (s.poison w).harts = s.harts := rfl
@[simp] theorem State.poison_ras (s : State) (w : Nat) : (s.poison w).ras = s.ras := rfl
@[simp] theorem State.poison_lates (s : State) (w : Nat) : (s.poison w).lates = s.lates := rfl
@[simp] theorem State.poison_agenda (s : State) (w : Nat) : (s.poison w).agenda = s.agenda := rfl
@[simp] theorem State.poison_moves (s : State) (w : Nat) : (s.poison w).moves = s.moves := rfl
@[simp] theorem State.poison_free (s : State) (w : Nat) : (s.poison w).free = s.free := rfl
@[simp] theorem State.poison_cur (s : State) (w : Nat) : (s.poison w).cur = s.cur := rfl
@[simp] theorem State.poison_nextId (s : State) (w : Nat) : (s.poison w).nextId = s.nextId := rfl
@[simp] theorem State.poison_tick (s : State) (w : Nat) : (s.poison w).tick = s.tick := rfl
@[simp] theorem State.poison_mem (s : State) (w : Nat) : (s.poison w).mem = s.mem := rfl
@[simp] theorem State.poison_psn (s : State) (w : Nat) : (s.poison w).psn = nins w s.psn := rfl
@[simp] theorem State.poison_ecc (s : State) (w : Nat) : (s.poison w).ecc = s.ecc := rfl
@[simp] theorem State.poison_stale (s : State) (w : Nat) : (s.poison w).stale = s.stale := rfl
@[simp] theorem State.poison_owners (s : State) (w : Nat) : (s.poison w).owners = s.owners := rfl
@[simp] theorem State.poison_encKey (s : State) (w : Nat) : (s.poison w).encKey = s.encKey := rfl
@[simp] theorem State.poison_sramDef (s : State) (w : Nat) : (s.poison w).sramDef = s.sramDef := rfl
@[simp] theorem State.poison_clus (s : State) (w : Nat) : (s.poison w).clus = s.clus := rfl
@[simp] theorem State.poison_stk (s : State) (w : Nat) : (s.poison w).stk = s.stk := rfl
@[simp] theorem State.poison_dies (s : State) (w : Nat) : (s.poison w).dies = s.dies := rfl
@[simp] theorem State.poison_regions (s : State) (w : Nat) : (s.poison w).regions = s.regions := rfl
@[simp] theorem State.poison_ctxs (s : State) (w : Nat) : (s.poison w).ctxs = s.ctxs := rfl
@[simp] theorem State.poison_saved (s : State) (w : Nat) : (s.poison w).saved = s.saved := rfl
@[simp] theorem State.poison_locks (s : State) (w : Nat) : (s.poison w).locks = s.locks := rfl
@[simp] theorem State.poison_invs (s : State) (w : Nat) : (s.poison w).invs = s.invs := rfl
@[simp] theorem State.poison_bcmds (s : State) (w : Nat) : (s.poison w).bcmds = s.bcmds := rfl
@[simp] theorem State.poison_slots (s : State) (w : Nat) : (s.poison w).slots = s.slots := rfl
@[simp] theorem State.poison_tiles (s : State) (w : Nat) : (s.poison w).tiles = s.tiles := rfl
@[simp] theorem State.poison_mops (s : State) (w : Nat) : (s.poison w).mops = s.mops := rfl
@[simp] theorem State.poison_copies (s : State) (w : Nat) : (s.poison w).copies = s.copies := rfl
@[simp] theorem State.poison_reqs (s : State) (w : Nat) : (s.poison w).reqs = s.reqs := rfl
@[simp] theorem State.poison_updates (s : State) (w : Nat) : (s.poison w).updates = s.updates := rfl
@[simp] theorem State.poison_signals (s : State) (w : Nat) : (s.poison w).signals = s.signals := rfl
@[simp] theorem State.poison_gens (s : State) (w : Nat) : (s.poison w).gens = s.gens := rfl
@[simp] theorem State.poison_nodes (s : State) (w : Nat) : (s.poison w).nodes = s.nodes := rfl
@[simp] theorem State.poison_decOut (s : State) (w : Nat) : (s.poison w).decOut = s.decOut := rfl
@[simp] theorem State.poison_gangs (s : State) (w : Nat) : (s.poison w).gangs = s.gangs := rfl
@[simp] theorem State.poison_vfs (s : State) (w : Nat) : (s.poison w).vfs = s.vfs := rfl
@[simp] theorem State.poison_plat (s : State) (w : Nat) : (s.poison w).plat = s.plat := rfl
@[simp] theorem State.poison_port0 (s : State) (w : Nat) : (s.poison w).port0 = s.port0 := rfl
@[simp] theorem State.poison_port1 (s : State) (w : Nat) : (s.poison w).port1 = s.port1 := rfl
@[simp] theorem State.poison_port2 (s : State) (w : Nat) : (s.poison w).port2 = s.port2 := rfl
@[simp] theorem State.poison_port3 (s : State) (w : Nat) : (s.poison w).port3 = s.port3 := rfl
@[simp] theorem State.poison_reads (s : State) (w : Nat) : (s.poison w).reads = s.reads := rfl
@[simp] theorem State.poison_gaps (s : State) (w : Nat) : (s.poison w).gaps = s.gaps := rfl
@[simp] theorem State.poison_waits (s : State) (w : Nat) : (s.poison w).waits = s.waits := rfl
@[simp] theorem State.poison_parts (s : State) (w : Nat) : (s.poison w).parts = s.parts := rfl
@[simp] theorem State.poison_uioDone (s : State) (w : Nat) : (s.poison w).uioDone = s.uioDone := rfl
@[simp] theorem State.poison_uioLost (s : State) (w : Nat) : (s.poison w).uioLost = s.uioLost := rfl
@[simp] theorem State.poison_stopped (s : State) (w : Nat) : (s.poison w).stopped = s.stopped := rfl

/-! ## `setByte` -/

@[simp] theorem State.setByte_hart (s : State) (k : Nat) (v : Byte) : (s.setByte k v).hart = s.hart := rfl
@[simp] theorem State.setByte_harts (s : State) (k : Nat) (v : Byte) : (s.setByte k v).harts = s.harts := rfl
@[simp] theorem State.setByte_ras (s : State) (k : Nat) (v : Byte) : (s.setByte k v).ras = s.ras := rfl
@[simp] theorem State.setByte_lates (s : State) (k : Nat) (v : Byte) : (s.setByte k v).lates = s.lates := rfl
@[simp] theorem State.setByte_agenda (s : State) (k : Nat) (v : Byte) : (s.setByte k v).agenda = s.agenda := rfl
@[simp] theorem State.setByte_moves (s : State) (k : Nat) (v : Byte) : (s.setByte k v).moves = s.moves := rfl
@[simp] theorem State.setByte_free (s : State) (k : Nat) (v : Byte) : (s.setByte k v).free = s.free := rfl
@[simp] theorem State.setByte_cur (s : State) (k : Nat) (v : Byte) : (s.setByte k v).cur = s.cur := rfl
@[simp] theorem State.setByte_nextId (s : State) (k : Nat) (v : Byte) : (s.setByte k v).nextId = s.nextId := rfl
@[simp] theorem State.setByte_tick (s : State) (k : Nat) (v : Byte) : (s.setByte k v).tick = s.tick := rfl
@[simp] theorem State.setByte_mem (s : State) (k : Nat) (v : Byte) : (s.setByte k v).mem = memSet s.mem k v := rfl
@[simp] theorem State.setByte_psn (s : State) (k : Nat) (v : Byte) : (s.setByte k v).psn = s.psn := rfl
@[simp] theorem State.setByte_ecc (s : State) (k : Nat) (v : Byte) : (s.setByte k v).ecc = s.ecc := rfl
@[simp] theorem State.setByte_stale (s : State) (k : Nat) (v : Byte) : (s.setByte k v).stale = s.stale := rfl
@[simp] theorem State.setByte_owners (s : State) (k : Nat) (v : Byte) : (s.setByte k v).owners = s.owners := rfl
@[simp] theorem State.setByte_encKey (s : State) (k : Nat) (v : Byte) : (s.setByte k v).encKey = s.encKey := rfl
@[simp] theorem State.setByte_sramDef (s : State) (k : Nat) (v : Byte) : (s.setByte k v).sramDef = if keySram ≤ k then nins k s.sramDef else s.sramDef := rfl
@[simp] theorem State.setByte_clus (s : State) (k : Nat) (v : Byte) : (s.setByte k v).clus = s.clus := rfl
@[simp] theorem State.setByte_stk (s : State) (k : Nat) (v : Byte) : (s.setByte k v).stk = s.stk := rfl
@[simp] theorem State.setByte_dies (s : State) (k : Nat) (v : Byte) : (s.setByte k v).dies = s.dies := rfl
@[simp] theorem State.setByte_regions (s : State) (k : Nat) (v : Byte) : (s.setByte k v).regions = s.regions := rfl
@[simp] theorem State.setByte_ctxs (s : State) (k : Nat) (v : Byte) : (s.setByte k v).ctxs = s.ctxs := rfl
@[simp] theorem State.setByte_saved (s : State) (k : Nat) (v : Byte) : (s.setByte k v).saved = s.saved := rfl
@[simp] theorem State.setByte_locks (s : State) (k : Nat) (v : Byte) : (s.setByte k v).locks = s.locks := rfl
@[simp] theorem State.setByte_invs (s : State) (k : Nat) (v : Byte) : (s.setByte k v).invs = s.invs := rfl
@[simp] theorem State.setByte_bcmds (s : State) (k : Nat) (v : Byte) : (s.setByte k v).bcmds = s.bcmds := rfl
@[simp] theorem State.setByte_slots (s : State) (k : Nat) (v : Byte) : (s.setByte k v).slots = s.slots := rfl
@[simp] theorem State.setByte_tiles (s : State) (k : Nat) (v : Byte) : (s.setByte k v).tiles = s.tiles := rfl
@[simp] theorem State.setByte_mops (s : State) (k : Nat) (v : Byte) : (s.setByte k v).mops = s.mops := rfl
@[simp] theorem State.setByte_copies (s : State) (k : Nat) (v : Byte) : (s.setByte k v).copies = s.copies := rfl
@[simp] theorem State.setByte_reqs (s : State) (k : Nat) (v : Byte) : (s.setByte k v).reqs = s.reqs := rfl
@[simp] theorem State.setByte_updates (s : State) (k : Nat) (v : Byte) : (s.setByte k v).updates = s.updates := rfl
@[simp] theorem State.setByte_signals (s : State) (k : Nat) (v : Byte) : (s.setByte k v).signals = s.signals := rfl
@[simp] theorem State.setByte_gens (s : State) (k : Nat) (v : Byte) : (s.setByte k v).gens = s.gens := rfl
@[simp] theorem State.setByte_nodes (s : State) (k : Nat) (v : Byte) : (s.setByte k v).nodes = s.nodes := rfl
@[simp] theorem State.setByte_decOut (s : State) (k : Nat) (v : Byte) : (s.setByte k v).decOut = s.decOut := rfl
@[simp] theorem State.setByte_gangs (s : State) (k : Nat) (v : Byte) : (s.setByte k v).gangs = s.gangs := rfl
@[simp] theorem State.setByte_vfs (s : State) (k : Nat) (v : Byte) : (s.setByte k v).vfs = s.vfs := rfl
@[simp] theorem State.setByte_plat (s : State) (k : Nat) (v : Byte) : (s.setByte k v).plat = s.plat := rfl
@[simp] theorem State.setByte_port0 (s : State) (k : Nat) (v : Byte) : (s.setByte k v).port0 = s.port0 := rfl
@[simp] theorem State.setByte_port1 (s : State) (k : Nat) (v : Byte) : (s.setByte k v).port1 = s.port1 := rfl
@[simp] theorem State.setByte_port2 (s : State) (k : Nat) (v : Byte) : (s.setByte k v).port2 = s.port2 := rfl
@[simp] theorem State.setByte_port3 (s : State) (k : Nat) (v : Byte) : (s.setByte k v).port3 = s.port3 := rfl
@[simp] theorem State.setByte_reads (s : State) (k : Nat) (v : Byte) : (s.setByte k v).reads = s.reads := rfl
@[simp] theorem State.setByte_gaps (s : State) (k : Nat) (v : Byte) : (s.setByte k v).gaps = s.gaps := rfl
@[simp] theorem State.setByte_waits (s : State) (k : Nat) (v : Byte) : (s.setByte k v).waits = s.waits := rfl
@[simp] theorem State.setByte_parts (s : State) (k : Nat) (v : Byte) : (s.setByte k v).parts = s.parts := rfl
@[simp] theorem State.setByte_uioDone (s : State) (k : Nat) (v : Byte) : (s.setByte k v).uioDone = s.uioDone := rfl
@[simp] theorem State.setByte_uioLost (s : State) (k : Nat) (v : Byte) : (s.setByte k v).uioLost = s.uioLost := rfl
@[simp] theorem State.setByte_stopped (s : State) (k : Nat) (v : Byte) : (s.setByte k v).stopped = s.stopped := rfl

/-! ## The tables, read after a write -/

theorem State.getStk_setStk (s : State) (i j : Nat) (v : Stack) : (s.setStk i v).getStk j = if j = i then v else s.getStk j := sget_sset
@[simp] theorem State.getStk_setStk_same (s : State) (i : Nat) (v : Stack) : (s.setStk i v).getStk i = v := sget_sset_same
@[simp] theorem State.getStk_upd (s : State) (f : Hart → Hart) (j : Nat) : (s.upd f).getStk j = s.getStk j := rfl
@[simp] theorem State.getStk_retire (s : State) (j : Nat) : s.retire.getStk j = s.getStk j := rfl
@[simp] theorem State.getStk_wx (s : State) (rd : Reg) (v : W64) (j : Nat) : (s.wx rd v).getStk j = s.getStk j := rfl
theorem State.getClu_setClu (s : State) (i j : Nat) (v : Cluster) : (s.setClu i v).getClu j = if j = i then v else s.getClu j := sget_sset
@[simp] theorem State.getClu_setClu_same (s : State) (i : Nat) (v : Cluster) : (s.setClu i v).getClu i = v := sget_sset_same
@[simp] theorem State.getClu_upd (s : State) (f : Hart → Hart) (j : Nat) : (s.upd f).getClu j = s.getClu j := rfl
@[simp] theorem State.getClu_retire (s : State) (j : Nat) : s.retire.getClu j = s.getClu j := rfl
@[simp] theorem State.getClu_wx (s : State) (rd : Reg) (v : W64) (j : Nat) : (s.wx rd v).getClu j = s.getClu j := rfl
theorem State.getDie_setDie (s : State) (i j : Nat) (v : Die) : (s.setDie i v).getDie j = if j = i then v else s.getDie j := sget_sset
@[simp] theorem State.getDie_setDie_same (s : State) (i : Nat) (v : Die) : (s.setDie i v).getDie i = v := sget_sset_same
@[simp] theorem State.getDie_upd (s : State) (f : Hart → Hart) (j : Nat) : (s.upd f).getDie j = s.getDie j := rfl
@[simp] theorem State.getDie_retire (s : State) (j : Nat) : s.retire.getDie j = s.getDie j := rfl
@[simp] theorem State.getDie_wx (s : State) (rd : Reg) (v : W64) (j : Nat) : (s.wx rd v).getDie j = s.getDie j := rfl
theorem State.getCtx_setCtx (s : State) (i j : Nat) (v : Ctx) : (s.setCtx i v).getCtx j = if j = i then v else s.getCtx j := sget_sset
@[simp] theorem State.getCtx_setCtx_same (s : State) (i : Nat) (v : Ctx) : (s.setCtx i v).getCtx i = v := sget_sset_same
@[simp] theorem State.getCtx_upd (s : State) (f : Hart → Hart) (j : Nat) : (s.upd f).getCtx j = s.getCtx j := rfl
@[simp] theorem State.getCtx_retire (s : State) (j : Nat) : s.retire.getCtx j = s.getCtx j := rfl
@[simp] theorem State.getCtx_wx (s : State) (rd : Reg) (v : W64) (j : Nat) : (s.wx rd v).getCtx j = s.getCtx j := rfl
theorem State.getVf_setVf (s : State) (i j : Nat) (v : Vf) : (s.setVf i v).getVf j = if j = i then v else s.getVf j := sget_sset
@[simp] theorem State.getVf_setVf_same (s : State) (i : Nat) (v : Vf) : (s.setVf i v).getVf i = v := sget_sset_same
@[simp] theorem State.getVf_upd (s : State) (f : Hart → Hart) (j : Nat) : (s.upd f).getVf j = s.getVf j := rfl
@[simp] theorem State.getVf_retire (s : State) (j : Nat) : s.retire.getVf j = s.getVf j := rfl
@[simp] theorem State.getVf_wx (s : State) (rd : Reg) (v : W64) (j : Nat) : (s.wx rd v).getVf j = s.getVf j := rfl
theorem State.getTile_setTile (s : State) (i j : Nat) (v : Tile) : (s.setTile i v).getTile j = if j = i then v else s.getTile j := sget_sset
@[simp] theorem State.getTile_setTile_same (s : State) (i : Nat) (v : Tile) : (s.setTile i v).getTile i = v := sget_sset_same
@[simp] theorem State.getTile_upd (s : State) (f : Hart → Hart) (j : Nat) : (s.upd f).getTile j = s.getTile j := rfl
@[simp] theorem State.getTile_retire (s : State) (j : Nat) : s.retire.getTile j = s.getTile j := rfl
@[simp] theorem State.getTile_wx (s : State) (rd : Reg) (v : W64) (j : Nat) : (s.wx rd v).getTile j = s.getTile j := rfl
theorem State.getSlot_setSlot (s : State) (i j : Nat) (v : SlotDesc) : (s.setSlot i v).getSlot j = if j = i then v else s.getSlot j := sget_sset
@[simp] theorem State.getSlot_setSlot_same (s : State) (i : Nat) (v : SlotDesc) : (s.setSlot i v).getSlot i = v := sget_sset_same
@[simp] theorem State.getSlot_upd (s : State) (f : Hart → Hart) (j : Nat) : (s.upd f).getSlot j = s.getSlot j := rfl
@[simp] theorem State.getSlot_retire (s : State) (j : Nat) : s.retire.getSlot j = s.getSlot j := rfl
@[simp] theorem State.getSlot_wx (s : State) (rd : Reg) (v : W64) (j : Nat) : (s.wx rd v).getSlot j = s.getSlot j := rfl

/-! ## `Hart.wx` -/

@[simp] theorem Hart.wx_zero (h : Hart) (v : XVal) (d : BitVec 16) : h.wx 0 v d = h := rfl

theorem Hart.rx_wx (h : Hart) (r q : Reg) (v : XVal) (d : BitVec 16) : (h.wx r v d).rx q = if q = 0 then .known 0 else if q = r then v else h.rx q := by
  unfold Hart.wx Hart.rx
  by_cases hq : q = 0
  · rw [if_pos hq, if_pos hq]
  · by_cases hr : r = 0
    · rw [if_pos hr, if_neg hq, if_neg hq, if_neg (fun e => hq (e.trans hr))]
    · by_cases e : q = r
      · subst e; rw [if_neg hq, if_neg hq, if_pos rfl]; simp only [if_neg hq]; exact Vector.getElem_set_self _
      · have : r.toNat ≠ q.toNat := fun h => e (BitVec.eq_of_toNat_eq h.symm)
        simp only [if_neg hq, if_neg hr, if_neg e]
        exact Vector.getElem_set_ne _ _ this

@[simp] theorem Hart.rx_wx_same (h : Hart) (r : Reg) (v : XVal) (d : BitVec 16) (hr : r ≠ 0) : (h.wx r v d).rx r = v := by
  rw [Hart.rx_wx, if_neg hr, if_pos rfl]

theorem Hart.rx_wx_other (h : Hart) (r q : Reg) (v : XVal) (d : BitVec 16) (e : q ≠ r) : (h.wx r v d).rx q = h.rx q := by
  rw [Hart.rx_wx, if_neg e]
  split
  · next h0 => rw [h0]; rfl
  · rfl

@[simp] theorem Hart.rx_zero (h : Hart) : h.rx 0 = .known 0 := rfl

@[simp] theorem Hart.wx_hid (h : Hart) (r : Reg) (v : XVal) (d : BitVec 16) : (h.wx r v d).hid = h.hid := by unfold Hart.wx; split <;> rfl
@[simp] theorem Hart.wx_place (h : Hart) (r : Reg) (v : XVal) (d : BitVec 16) : (h.wx r v d).place = h.place := by unfold Hart.wx; split <;> rfl
@[simp] theorem Hart.wx_lamp (h : Hart) (r : Reg) (v : XVal) (d : BitVec 16) : (h.wx r v d).lamp = h.lamp := by unfold Hart.wx; split <;> rfl
@[simp] theorem Hart.wx_level (h : Hart) (r : Reg) (v : XVal) (d : BitVec 16) : (h.wx r v d).level = h.level := by unfold Hart.wx; split <;> rfl
@[simp] theorem Hart.wx_pc (h : Hart) (r : Reg) (v : XVal) (d : BitVec 16) : (h.wx r v d).pc = h.pc := by unfold Hart.wx; split <;> rfl
@[simp] theorem Hart.wx_iw (h : Hart) (r : Reg) (v : XVal) (d : BitVec 16) : (h.wx r v d).iw = h.iw := by unfold Hart.wx; split <;> rfl
@[simp] theorem Hart.wx_v (h : Hart) (r : Reg) (v : XVal) (d : BitVec 16) : (h.wx r v d).v = h.v := by unfold Hart.wx; split <;> rfl
@[simp] theorem Hart.wx_m (h : Hart) (r : Reg) (v : XVal) (d : BitVec 16) : (h.wx r v d).m = h.m := by unfold Hart.wx; split <;> rfl
@[simp] theorem Hart.wx_mUnk (h : Hart) (r : Reg) (v : XVal) (d : BitVec 16) : (h.wx r v d).mUnk = h.mUnk := by unfold Hart.wx; split <;> rfl
@[simp] theorem Hart.wx_cUnk (h : Hart) (r : Reg) (v : XVal) (d : BitVec 16) : (h.wx r v d).cUnk = h.cUnk := by unfold Hart.wx; split <;> rfl
@[simp] theorem Hart.wx_upset (h : Hart) (r : Reg) (v : XVal) (d : BitVec 16) : (h.wx r v d).upset = h.upset := by unfold Hart.wx; split <;> rfl
@[simp] theorem Hart.wx_sym (h : Hart) (r : Reg) (v : XVal) (d : BitVec 16) : (h.wx r v d).sym = h.sym := by unfold Hart.wx; split <;> rfl
@[simp] theorem Hart.wx_held (h : Hart) (r : Reg) (v : XVal) (d : BitVec 16) : (h.wx r v d).held = h.held := by unfold Hart.wx; split <;> rfl
@[simp] theorem Hart.wx_cmds (h : Hart) (r : Reg) (v : XVal) (d : BitVec 16) : (h.wx r v d).cmds = h.cmds := by unfold Hart.wx; split <;> rfl
@[simp] theorem Hart.wx_fflags (h : Hart) (r : Reg) (v : XVal) (d : BitVec 16) : (h.wx r v d).fflags = h.fflags := by unfold Hart.wx; split <;> rfl
@[simp] theorem Hart.wx_frm (h : Hart) (r : Reg) (v : XVal) (d : BitVec 16) : (h.wx r v d).frm = h.frm := by unfold Hart.wx; split <;> rfl
@[simp] theorem Hart.wx_fen (h : Hart) (r : Reg) (v : XVal) (d : BitVec 16) : (h.wx r v d).fen = h.fen := by unfold Hart.wx; split <;> rfl
@[simp] theorem Hart.wx_vstart (h : Hart) (r : Reg) (v : XVal) (d : BitVec 16) : (h.wx r v d).vstart = h.vstart := by unfold Hart.wx; split <;> rfl
@[simp] theorem Hart.wx_vresid (h : Hart) (r : Reg) (v : XVal) (d : BitVec 16) : (h.wx r v d).vresid = h.vresid := by unfold Hart.wx; split <;> rfl
@[simp] theorem Hart.wx_vseed (h : Hart) (r : Reg) (v : XVal) (d : BitVec 16) : (h.wx r v d).vseed = h.vseed := by unfold Hart.wx; split <;> rfl
@[simp] theorem Hart.wx_dlen (h : Hart) (r : Reg) (v : XVal) (d : BitVec 16) : (h.wx r v d).dlen = h.dlen := by unfold Hart.wx; split <;> rfl
@[simp] theorem Hart.wx_dstr (h : Hart) (r : Reg) (v : XVal) (d : BitVec 16) : (h.wx r v d).dstr = h.dstr := by unfold Hart.wx; split <;> rfl
@[simp] theorem Hart.wx_didx (h : Hart) (r : Reg) (v : XVal) (d : BitVec 16) : (h.wx r v d).didx = h.didx := by unfold Hart.wx; split <;> rfl
@[simp] theorem Hart.wx_tctl (h : Hart) (r : Reg) (v : XVal) (d : BitVec 16) : (h.wx r v d).tctl = h.tctl := by unfold Hart.wx; split <;> rfl
@[simp] theorem Hart.wx_vl (h : Hart) (r : Reg) (v : XVal) (d : BitVec 16) : (h.wx r v d).vl = h.vl := by unfold Hart.wx; split <;> rfl
@[simp] theorem Hart.wx_vsew (h : Hart) (r : Reg) (v : XVal) (d : BitVec 16) : (h.wx r v d).vsew = h.vsew := by unfold Hart.wx; split <;> rfl
@[simp] theorem Hart.wx_vlmul (h : Hart) (r : Reg) (v : XVal) (d : BitVec 16) : (h.wx r v d).vlmul = h.vlmul := by unfold Hart.wx; split <;> rfl
@[simp] theorem Hart.wx_vi (h : Hart) (r : Reg) (v : XVal) (d : BitVec 16) : (h.wx r v d).vi = h.vi := by unfold Hart.wx; split <;> rfl
@[simp] theorem Hart.wx_vill (h : Hart) (r : Reg) (v : XVal) (d : BitVec 16) : (h.wx r v d).vill = h.vill := by unfold Hart.wx; split <;> rfl
@[simp] theorem Hart.wx_vgrant (h : Hart) (r : Reg) (v : XVal) (d : BitVec 16) : (h.wx r v d).vgrant = h.vgrant := by unfold Hart.wx; split <;> rfl
@[simp] theorem Hart.wx_tm (h : Hart) (r : Reg) (v : XVal) (d : BitVec 16) : (h.wx r v d).tm = h.tm := by unfold Hart.wx; split <;> rfl
@[simp] theorem Hart.wx_tn (h : Hart) (r : Reg) (v : XVal) (d : BitVec 16) : (h.wx r v d).tn = h.tn := by unfold Hart.wx; split <;> rfl
@[simp] theorem Hart.wx_tk (h : Hart) (r : Reg) (v : XVal) (d : BitVec 16) : (h.wx r v d).tk = h.tk := by unfold Hart.wx; split <;> rfl
@[simp] theorem Hart.wx_gen (h : Hart) (r : Reg) (v : XVal) (d : BitVec 16) : (h.wx r v d).gen = h.gen := by unfold Hart.wx; split <;> rfl
@[simp] theorem Hart.wx_ctxid (h : Hart) (r : Reg) (v : XVal) (d : BitVec 16) : (h.wx r v d).ctxid = h.ctxid := by unfold Hart.wx; split <;> rfl
@[simp] theorem Hart.wx_ctxKey (h : Hart) (r : Reg) (v : XVal) (d : BitVec 16) : (h.wx r v d).ctxKey = h.ctxKey := by unfold Hart.wx; split <;> rfl
@[simp] theorem Hart.wx_vfid (h : Hart) (r : Reg) (v : XVal) (d : BitVec 16) : (h.wx r v d).vfid = h.vfid := by unfold Hart.wx; split <;> rfl
@[simp] theorem Hart.wx_nacc (h : Hart) (r : Reg) (v : XVal) (d : BitVec 16) : (h.wx r v d).nacc = h.nacc := by unfold Hart.wx; split <;> rfl
@[simp] theorem Hart.wx_bay (h : Hart) (r : Reg) (v : XVal) (d : BitVec 16) : (h.wx r v d).bay = h.bay := by unfold Hart.wx; split <;> rfl
@[simp] theorem Hart.wx_bv (h : Hart) (r : Reg) (v : XVal) (d : BitVec 16) : (h.wx r v d).bv = h.bv := by unfold Hart.wx; split <;> rfl
@[simp] theorem Hart.wx_cycle (h : Hart) (r : Reg) (v : XVal) (d : BitVec 16) : (h.wx r v d).cycle = h.cycle := by unfold Hart.wx; split <;> rfl
@[simp] theorem Hart.wx_instret (h : Hart) (r : Reg) (v : XVal) (d : BitVec 16) : (h.wx r v d).instret = h.instret := by unfold Hart.wx; split <;> rfl
@[simp] theorem Hart.wx_sup (h : Hart) (r : Reg) (v : XVal) (d : BitVec 16) : (h.wx r v d).sup = h.sup := by unfold Hart.wx; split <;> rfl
@[simp] theorem Hart.wx_monb (h : Hart) (r : Reg) (v : XVal) (d : BitVec 16) : (h.wx r v d).monb = h.monb := by unfold Hart.wx; split <;> rfl
@[simp] theorem Hart.wx_fbbase (h : Hart) (r : Reg) (v : XVal) (d : BitVec 16) : (h.wx r v d).fbbase = h.fbbase := by unfold Hart.wx; split <;> rfl
@[simp] theorem Hart.wx_depth (h : Hart) (r : Reg) (v : XVal) (d : BitVec 16) : (h.wx r v d).depth = h.depth := by unfold Hart.wx; split <;> rfl
@[simp] theorem Hart.wx_hfirst (h : Hart) (r : Reg) (v : XVal) (d : BitVec 16) : (h.wx r v d).hfirst = h.hfirst := by unfold Hart.wx; split <;> rfl
@[simp] theorem Hart.wx_latch (h : Hart) (r : Reg) (v : XVal) (d : BitVec 16) : (h.wx r v d).latch = h.latch := by unfold Hart.wx; split <;> rfl
@[simp] theorem Hart.wx_irqs (h : Hart) (r : Reg) (v : XVal) (d : BitVec 16) : (h.wx r v d).irqs = h.irqs := by unfold Hart.wx; split <;> rfl
@[simp] theorem Hart.wx_defer (h : Hart) (r : Reg) (v : XVal) (d : BitVec 16) : (h.wx r v d).defer = h.defer := by unfold Hart.wx; split <;> rfl
@[simp] theorem Hart.wx_wait (h : Hart) (r : Reg) (v : XVal) (d : BitVec 16) : (h.wx r v d).wait = h.wait := by unfold Hart.wx; split <;> rfl
@[simp] theorem Hart.wx_vq (h : Hart) (r : Reg) (v : XVal) (d : BitVec 16) : (h.wx r v d).vq = h.vq := by unfold Hart.wx; split <;> rfl
@[simp] theorem Hart.wx_ibuf (h : Hart) (r : Reg) (v : XVal) (d : BitVec 16) : (h.wx r v d).ibuf = h.ibuf := by unfold Hart.wx; split <;> rfl
@[simp] theorem Hart.wx_vdep (h : Hart) (r : Reg) (v : XVal) (d : BitVec 16) : (h.wx r v d).vdep = h.vdep := by unfold Hart.wx; split <;> rfl
@[simp] theorem Hart.wx_hdep (h : Hart) (r : Reg) (v : XVal) (d : BitVec 16) : (h.wx r v d).hdep = h.hdep := by unfold Hart.wx; split <;> rfl
@[simp] theorem Hart.wx_node (h : Hart) (r : Reg) (v : XVal) (d : BitVec 16) : (h.wx r v d).node = h.node := by unfold Hart.wx; split <;> rfl
@[simp] theorem Hart.wx_cls (h : Hart) (r : Reg) (v : XVal) (d : BitVec 16) : (h.wx r v d).cls = h.cls := by unfold Hart.wx; split <;> rfl
@[simp] theorem Hart.wx_img (h : Hart) (r : Reg) (v : XVal) (d : BitVec 16) : (h.wx r v d).img = h.img := by unfold Hart.wx; split <;> rfl
@[simp] theorem Hart.wx_pre (h : Hart) (r : Reg) (v : XVal) (d : BitVec 16) : (h.wx r v d).pre = h.pre := by unfold Hart.wx; split <;> rfl
@[simp] theorem Hart.wx_prio (h : Hart) (r : Reg) (v : XVal) (d : BitVec 16) : (h.wx r v d).prio = h.prio := by unfold Hart.wx; split <;> rfl
@[simp] theorem Hart.wx_lastTick64 (h : Hart) (r : Reg) (v : XVal) (d : BitVec 16) : (h.wx r v d).lastTick64 = h.lastTick64 := by unfold Hart.wx; split <;> rfl

/-! ## Trap entry -/

@[simp] theorem Hart.setBank_hid (h : Hart) (l : Level) (b : TrapBank) : (h.setBank l b).hid = h.hid := by unfold Hart.setBank; split <;> rfl
@[simp] theorem Hart.trap_hid (h : Hart) (c v e : W64) : (h.trap c v e).hid = h.hid := Hart.setBank_hid _ _ _
@[simp] theorem Hart.setBank_place (h : Hart) (l : Level) (b : TrapBank) : (h.setBank l b).place = h.place := by unfold Hart.setBank; split <;> rfl
@[simp] theorem Hart.trap_place (h : Hart) (c v e : W64) : (h.trap c v e).place = h.place := Hart.setBank_place _ _ _
@[simp] theorem Hart.setBank_lamp (h : Hart) (l : Level) (b : TrapBank) : (h.setBank l b).lamp = h.lamp := by unfold Hart.setBank; split <;> rfl
@[simp] theorem Hart.trap_lamp (h : Hart) (c v e : W64) : (h.trap c v e).lamp = h.lamp := Hart.setBank_lamp _ _ _
@[simp] theorem Hart.setBank_iw (h : Hart) (l : Level) (b : TrapBank) : (h.setBank l b).iw = h.iw := by unfold Hart.setBank; split <;> rfl
@[simp] theorem Hart.trap_iw (h : Hart) (c v e : W64) : (h.trap c v e).iw = h.iw := Hart.setBank_iw _ _ _
@[simp] theorem Hart.setBank_x (h : Hart) (l : Level) (b : TrapBank) : (h.setBank l b).x = h.x := by unfold Hart.setBank; split <;> rfl
@[simp] theorem Hart.trap_x (h : Hart) (c v e : W64) : (h.trap c v e).x = h.x := Hart.setBank_x _ _ _
@[simp] theorem Hart.setBank_xBad (h : Hart) (l : Level) (b : TrapBank) : (h.setBank l b).xBad = h.xBad := by unfold Hart.setBank; split <;> rfl
@[simp] theorem Hart.trap_xBad (h : Hart) (c v e : W64) : (h.trap c v e).xBad = h.xBad := Hart.setBank_xBad _ _ _
@[simp] theorem Hart.setBank_v (h : Hart) (l : Level) (b : TrapBank) : (h.setBank l b).v = h.v := by unfold Hart.setBank; split <;> rfl
@[simp] theorem Hart.trap_v (h : Hart) (c v e : W64) : (h.trap c v e).v = h.v := Hart.setBank_v _ _ _
@[simp] theorem Hart.setBank_m (h : Hart) (l : Level) (b : TrapBank) : (h.setBank l b).m = h.m := by unfold Hart.setBank; split <;> rfl
@[simp] theorem Hart.trap_m (h : Hart) (c v e : W64) : (h.trap c v e).m = h.m := Hart.setBank_m _ _ _
@[simp] theorem Hart.setBank_mUnk (h : Hart) (l : Level) (b : TrapBank) : (h.setBank l b).mUnk = h.mUnk := by unfold Hart.setBank; split <;> rfl
@[simp] theorem Hart.trap_mUnk (h : Hart) (c v e : W64) : (h.trap c v e).mUnk = h.mUnk := Hart.setBank_mUnk _ _ _
@[simp] theorem Hart.setBank_cUnk (h : Hart) (l : Level) (b : TrapBank) : (h.setBank l b).cUnk = h.cUnk := by unfold Hart.setBank; split <;> rfl
@[simp] theorem Hart.trap_cUnk (h : Hart) (c v e : W64) : (h.trap c v e).cUnk = h.cUnk := Hart.setBank_cUnk _ _ _
@[simp] theorem Hart.setBank_upset (h : Hart) (l : Level) (b : TrapBank) : (h.setBank l b).upset = h.upset := by unfold Hart.setBank; split <;> rfl
@[simp] theorem Hart.trap_upset (h : Hart) (c v e : W64) : (h.trap c v e).upset = h.upset := Hart.setBank_upset _ _ _
@[simp] theorem Hart.setBank_sym (h : Hart) (l : Level) (b : TrapBank) : (h.setBank l b).sym = h.sym := by unfold Hart.setBank; split <;> rfl
@[simp] theorem Hart.trap_sym (h : Hart) (c v e : W64) : (h.trap c v e).sym = h.sym := Hart.setBank_sym _ _ _
@[simp] theorem Hart.setBank_held (h : Hart) (l : Level) (b : TrapBank) : (h.setBank l b).held = h.held := by unfold Hart.setBank; split <;> rfl
@[simp] theorem Hart.trap_held (h : Hart) (c v e : W64) : (h.trap c v e).held = h.held := Hart.setBank_held _ _ _
@[simp] theorem Hart.setBank_cmds (h : Hart) (l : Level) (b : TrapBank) : (h.setBank l b).cmds = h.cmds := by unfold Hart.setBank; split <;> rfl
@[simp] theorem Hart.trap_cmds (h : Hart) (c v e : W64) : (h.trap c v e).cmds = h.cmds := Hart.setBank_cmds _ _ _
@[simp] theorem Hart.setBank_fflags (h : Hart) (l : Level) (b : TrapBank) : (h.setBank l b).fflags = h.fflags := by unfold Hart.setBank; split <;> rfl
@[simp] theorem Hart.trap_fflags (h : Hart) (c v e : W64) : (h.trap c v e).fflags = h.fflags := Hart.setBank_fflags _ _ _
@[simp] theorem Hart.setBank_frm (h : Hart) (l : Level) (b : TrapBank) : (h.setBank l b).frm = h.frm := by unfold Hart.setBank; split <;> rfl
@[simp] theorem Hart.trap_frm (h : Hart) (c v e : W64) : (h.trap c v e).frm = h.frm := Hart.setBank_frm _ _ _
@[simp] theorem Hart.setBank_fen (h : Hart) (l : Level) (b : TrapBank) : (h.setBank l b).fen = h.fen := by unfold Hart.setBank; split <;> rfl
@[simp] theorem Hart.trap_fen (h : Hart) (c v e : W64) : (h.trap c v e).fen = h.fen := Hart.setBank_fen _ _ _
@[simp] theorem Hart.setBank_vstart (h : Hart) (l : Level) (b : TrapBank) : (h.setBank l b).vstart = h.vstart := by unfold Hart.setBank; split <;> rfl
@[simp] theorem Hart.trap_vstart (h : Hart) (c v e : W64) : (h.trap c v e).vstart = h.vstart := Hart.setBank_vstart _ _ _
@[simp] theorem Hart.setBank_vresid (h : Hart) (l : Level) (b : TrapBank) : (h.setBank l b).vresid = h.vresid := by unfold Hart.setBank; split <;> rfl
@[simp] theorem Hart.trap_vresid (h : Hart) (c v e : W64) : (h.trap c v e).vresid = h.vresid := Hart.setBank_vresid _ _ _
@[simp] theorem Hart.setBank_vseed (h : Hart) (l : Level) (b : TrapBank) : (h.setBank l b).vseed = h.vseed := by unfold Hart.setBank; split <;> rfl
@[simp] theorem Hart.trap_vseed (h : Hart) (c v e : W64) : (h.trap c v e).vseed = h.vseed := Hart.setBank_vseed _ _ _
@[simp] theorem Hart.setBank_dlen (h : Hart) (l : Level) (b : TrapBank) : (h.setBank l b).dlen = h.dlen := by unfold Hart.setBank; split <;> rfl
@[simp] theorem Hart.trap_dlen (h : Hart) (c v e : W64) : (h.trap c v e).dlen = h.dlen := Hart.setBank_dlen _ _ _
@[simp] theorem Hart.setBank_dstr (h : Hart) (l : Level) (b : TrapBank) : (h.setBank l b).dstr = h.dstr := by unfold Hart.setBank; split <;> rfl
@[simp] theorem Hart.trap_dstr (h : Hart) (c v e : W64) : (h.trap c v e).dstr = h.dstr := Hart.setBank_dstr _ _ _
@[simp] theorem Hart.setBank_didx (h : Hart) (l : Level) (b : TrapBank) : (h.setBank l b).didx = h.didx := by unfold Hart.setBank; split <;> rfl
@[simp] theorem Hart.trap_didx (h : Hart) (c v e : W64) : (h.trap c v e).didx = h.didx := Hart.setBank_didx _ _ _
@[simp] theorem Hart.setBank_tctl (h : Hart) (l : Level) (b : TrapBank) : (h.setBank l b).tctl = h.tctl := by unfold Hart.setBank; split <;> rfl
@[simp] theorem Hart.trap_tctl (h : Hart) (c v e : W64) : (h.trap c v e).tctl = h.tctl := Hart.setBank_tctl _ _ _
@[simp] theorem Hart.setBank_vl (h : Hart) (l : Level) (b : TrapBank) : (h.setBank l b).vl = h.vl := by unfold Hart.setBank; split <;> rfl
@[simp] theorem Hart.trap_vl (h : Hart) (c v e : W64) : (h.trap c v e).vl = h.vl := Hart.setBank_vl _ _ _
@[simp] theorem Hart.setBank_vsew (h : Hart) (l : Level) (b : TrapBank) : (h.setBank l b).vsew = h.vsew := by unfold Hart.setBank; split <;> rfl
@[simp] theorem Hart.trap_vsew (h : Hart) (c v e : W64) : (h.trap c v e).vsew = h.vsew := Hart.setBank_vsew _ _ _
@[simp] theorem Hart.setBank_vlmul (h : Hart) (l : Level) (b : TrapBank) : (h.setBank l b).vlmul = h.vlmul := by unfold Hart.setBank; split <;> rfl
@[simp] theorem Hart.trap_vlmul (h : Hart) (c v e : W64) : (h.trap c v e).vlmul = h.vlmul := Hart.setBank_vlmul _ _ _
@[simp] theorem Hart.setBank_vi (h : Hart) (l : Level) (b : TrapBank) : (h.setBank l b).vi = h.vi := by unfold Hart.setBank; split <;> rfl
@[simp] theorem Hart.trap_vi (h : Hart) (c v e : W64) : (h.trap c v e).vi = h.vi := Hart.setBank_vi _ _ _
@[simp] theorem Hart.setBank_vill (h : Hart) (l : Level) (b : TrapBank) : (h.setBank l b).vill = h.vill := by unfold Hart.setBank; split <;> rfl
@[simp] theorem Hart.trap_vill (h : Hart) (c v e : W64) : (h.trap c v e).vill = h.vill := Hart.setBank_vill _ _ _
@[simp] theorem Hart.setBank_vgrant (h : Hart) (l : Level) (b : TrapBank) : (h.setBank l b).vgrant = h.vgrant := by unfold Hart.setBank; split <;> rfl
@[simp] theorem Hart.trap_vgrant (h : Hart) (c v e : W64) : (h.trap c v e).vgrant = h.vgrant := Hart.setBank_vgrant _ _ _
@[simp] theorem Hart.setBank_tm (h : Hart) (l : Level) (b : TrapBank) : (h.setBank l b).tm = h.tm := by unfold Hart.setBank; split <;> rfl
@[simp] theorem Hart.trap_tm (h : Hart) (c v e : W64) : (h.trap c v e).tm = h.tm := Hart.setBank_tm _ _ _
@[simp] theorem Hart.setBank_tn (h : Hart) (l : Level) (b : TrapBank) : (h.setBank l b).tn = h.tn := by unfold Hart.setBank; split <;> rfl
@[simp] theorem Hart.trap_tn (h : Hart) (c v e : W64) : (h.trap c v e).tn = h.tn := Hart.setBank_tn _ _ _
@[simp] theorem Hart.setBank_tk (h : Hart) (l : Level) (b : TrapBank) : (h.setBank l b).tk = h.tk := by unfold Hart.setBank; split <;> rfl
@[simp] theorem Hart.trap_tk (h : Hart) (c v e : W64) : (h.trap c v e).tk = h.tk := Hart.setBank_tk _ _ _
@[simp] theorem Hart.setBank_gen (h : Hart) (l : Level) (b : TrapBank) : (h.setBank l b).gen = h.gen := by unfold Hart.setBank; split <;> rfl
@[simp] theorem Hart.trap_gen (h : Hart) (c v e : W64) : (h.trap c v e).gen = h.gen := Hart.setBank_gen _ _ _
@[simp] theorem Hart.setBank_ctxid (h : Hart) (l : Level) (b : TrapBank) : (h.setBank l b).ctxid = h.ctxid := by unfold Hart.setBank; split <;> rfl
@[simp] theorem Hart.trap_ctxid (h : Hart) (c v e : W64) : (h.trap c v e).ctxid = h.ctxid := Hart.setBank_ctxid _ _ _
@[simp] theorem Hart.setBank_ctxKey (h : Hart) (l : Level) (b : TrapBank) : (h.setBank l b).ctxKey = h.ctxKey := by unfold Hart.setBank; split <;> rfl
@[simp] theorem Hart.trap_ctxKey (h : Hart) (c v e : W64) : (h.trap c v e).ctxKey = h.ctxKey := Hart.setBank_ctxKey _ _ _
@[simp] theorem Hart.setBank_vfid (h : Hart) (l : Level) (b : TrapBank) : (h.setBank l b).vfid = h.vfid := by unfold Hart.setBank; split <;> rfl
@[simp] theorem Hart.trap_vfid (h : Hart) (c v e : W64) : (h.trap c v e).vfid = h.vfid := Hart.setBank_vfid _ _ _
@[simp] theorem Hart.setBank_nacc (h : Hart) (l : Level) (b : TrapBank) : (h.setBank l b).nacc = h.nacc := by unfold Hart.setBank; split <;> rfl
@[simp] theorem Hart.trap_nacc (h : Hart) (c v e : W64) : (h.trap c v e).nacc = h.nacc := Hart.setBank_nacc _ _ _
@[simp] theorem Hart.setBank_bay (h : Hart) (l : Level) (b : TrapBank) : (h.setBank l b).bay = h.bay := by unfold Hart.setBank; split <;> rfl
@[simp] theorem Hart.trap_bay (h : Hart) (c v e : W64) : (h.trap c v e).bay = h.bay := Hart.setBank_bay _ _ _
@[simp] theorem Hart.setBank_bv (h : Hart) (l : Level) (b : TrapBank) : (h.setBank l b).bv = h.bv := by unfold Hart.setBank; split <;> rfl
@[simp] theorem Hart.trap_bv (h : Hart) (c v e : W64) : (h.trap c v e).bv = h.bv := Hart.setBank_bv _ _ _
@[simp] theorem Hart.setBank_cycle (h : Hart) (l : Level) (b : TrapBank) : (h.setBank l b).cycle = h.cycle := by unfold Hart.setBank; split <;> rfl
@[simp] theorem Hart.trap_cycle (h : Hart) (c v e : W64) : (h.trap c v e).cycle = h.cycle := Hart.setBank_cycle _ _ _
@[simp] theorem Hart.setBank_instret (h : Hart) (l : Level) (b : TrapBank) : (h.setBank l b).instret = h.instret := by unfold Hart.setBank; split <;> rfl
@[simp] theorem Hart.trap_instret (h : Hart) (c v e : W64) : (h.trap c v e).instret = h.instret := Hart.setBank_instret _ _ _
@[simp] theorem Hart.setBank_fbbase (h : Hart) (l : Level) (b : TrapBank) : (h.setBank l b).fbbase = h.fbbase := by unfold Hart.setBank; split <;> rfl
@[simp] theorem Hart.trap_fbbase (h : Hart) (c v e : W64) : (h.trap c v e).fbbase = h.fbbase := Hart.setBank_fbbase _ _ _
@[simp] theorem Hart.setBank_latch (h : Hart) (l : Level) (b : TrapBank) : (h.setBank l b).latch = h.latch := by unfold Hart.setBank; split <;> rfl
@[simp] theorem Hart.trap_latch (h : Hart) (c v e : W64) : (h.trap c v e).latch = h.latch := Hart.setBank_latch _ _ _
@[simp] theorem Hart.setBank_irqs (h : Hart) (l : Level) (b : TrapBank) : (h.setBank l b).irqs = h.irqs := by unfold Hart.setBank; split <;> rfl
@[simp] theorem Hart.trap_irqs (h : Hart) (c v e : W64) : (h.trap c v e).irqs = h.irqs := Hart.setBank_irqs _ _ _
@[simp] theorem Hart.setBank_defer (h : Hart) (l : Level) (b : TrapBank) : (h.setBank l b).defer = h.defer := by unfold Hart.setBank; split <;> rfl
@[simp] theorem Hart.trap_defer (h : Hart) (c v e : W64) : (h.trap c v e).defer = h.defer := Hart.setBank_defer _ _ _
@[simp] theorem Hart.setBank_vq (h : Hart) (l : Level) (b : TrapBank) : (h.setBank l b).vq = h.vq := by unfold Hart.setBank; split <;> rfl
@[simp] theorem Hart.trap_vq (h : Hart) (c v e : W64) : (h.trap c v e).vq = h.vq := Hart.setBank_vq _ _ _
@[simp] theorem Hart.setBank_acqOn (h : Hart) (l : Level) (b : TrapBank) : (h.setBank l b).acqOn = h.acqOn := by unfold Hart.setBank; split <;> rfl
@[simp] theorem Hart.trap_acqOn (h : Hart) (c v e : W64) : (h.trap c v e).acqOn = h.acqOn := Hart.setBank_acqOn _ _ _
@[simp] theorem Hart.setBank_xdep (h : Hart) (l : Level) (b : TrapBank) : (h.setBank l b).xdep = h.xdep := by unfold Hart.setBank; split <;> rfl
@[simp] theorem Hart.trap_xdep (h : Hart) (c v e : W64) : (h.trap c v e).xdep = h.xdep := Hart.setBank_xdep _ _ _
@[simp] theorem Hart.setBank_vdep (h : Hart) (l : Level) (b : TrapBank) : (h.setBank l b).vdep = h.vdep := by unfold Hart.setBank; split <;> rfl
@[simp] theorem Hart.trap_vdep (h : Hart) (c v e : W64) : (h.trap c v e).vdep = h.vdep := Hart.setBank_vdep _ _ _
@[simp] theorem Hart.setBank_hdep (h : Hart) (l : Level) (b : TrapBank) : (h.setBank l b).hdep = h.hdep := by unfold Hart.setBank; split <;> rfl
@[simp] theorem Hart.trap_hdep (h : Hart) (c v e : W64) : (h.trap c v e).hdep = h.hdep := Hart.setBank_hdep _ _ _
@[simp] theorem Hart.setBank_node (h : Hart) (l : Level) (b : TrapBank) : (h.setBank l b).node = h.node := by unfold Hart.setBank; split <;> rfl
@[simp] theorem Hart.trap_node (h : Hart) (c v e : W64) : (h.trap c v e).node = h.node := Hart.setBank_node _ _ _
@[simp] theorem Hart.setBank_cls (h : Hart) (l : Level) (b : TrapBank) : (h.setBank l b).cls = h.cls := by unfold Hart.setBank; split <;> rfl
@[simp] theorem Hart.trap_cls (h : Hart) (c v e : W64) : (h.trap c v e).cls = h.cls := Hart.setBank_cls _ _ _
@[simp] theorem Hart.setBank_img (h : Hart) (l : Level) (b : TrapBank) : (h.setBank l b).img = h.img := by unfold Hart.setBank; split <;> rfl
@[simp] theorem Hart.trap_img (h : Hart) (c v e : W64) : (h.trap c v e).img = h.img := Hart.setBank_img _ _ _
@[simp] theorem Hart.setBank_pre (h : Hart) (l : Level) (b : TrapBank) : (h.setBank l b).pre = h.pre := by unfold Hart.setBank; split <;> rfl
@[simp] theorem Hart.trap_pre (h : Hart) (c v e : W64) : (h.trap c v e).pre = h.pre := Hart.setBank_pre _ _ _
@[simp] theorem Hart.setBank_prio (h : Hart) (l : Level) (b : TrapBank) : (h.setBank l b).prio = h.prio := by unfold Hart.setBank; split <;> rfl
@[simp] theorem Hart.trap_prio (h : Hart) (c v e : W64) : (h.trap c v e).prio = h.prio := Hart.setBank_prio _ _ _
@[simp] theorem Hart.setBank_lastTick64 (h : Hart) (l : Level) (b : TrapBank) : (h.setBank l b).lastTick64 = h.lastTick64 := by unfold Hart.setBank; split <;> rfl
@[simp] theorem Hart.trap_lastTick64 (h : Hart) (c v e : W64) : (h.trap c v e).lastTick64 = h.lastTick64 := Hart.setBank_lastTick64 _ _ _

@[simp] theorem Hart.bank_setBank_same (h : Hart) (l : Level) (b : TrapBank) : (h.setBank l b).bank l = b := by
  unfold Hart.setBank Hart.bank; split <;> rfl

theorem Hart.bank_setBank_other (h : Hart) (l k : Level) (b : TrapBank) (e : (k = .mon) ≠ (l = .mon)) : (h.setBank l b).bank k = h.bank k := by
  unfold Hart.setBank Hart.bank
  by_cases hl : l = .mon <;> by_cases hk : k = .mon <;> simp_all

/-- Taking a trap changes the hart as `Hart.trap` states, and else only the count of machine checks of its stack. -/
theorem State.trap_hart (s : State) (c v e : W64) : (s.trap c v e).hart = s.hart.trap c v e := by
  unfold State.trap; dsimp only; split <;> rfl

@[simp] theorem State.trap_harts (s : State) (c v e : W64) : (s.trap c v e).harts = s.harts := by unfold State.trap; dsimp only; split <;> rfl
@[simp] theorem State.trap_ras (s : State) (c v e : W64) : (s.trap c v e).ras = s.ras := by unfold State.trap; dsimp only; split <;> rfl
@[simp] theorem State.trap_lates (s : State) (c v e : W64) : (s.trap c v e).lates = s.lates := by unfold State.trap; dsimp only; split <;> rfl
@[simp] theorem State.trap_agenda (s : State) (c v e : W64) : (s.trap c v e).agenda = s.agenda := by unfold State.trap; dsimp only; split <;> rfl
@[simp] theorem State.trap_moves (s : State) (c v e : W64) : (s.trap c v e).moves = s.moves := by unfold State.trap; dsimp only; split <;> rfl
@[simp] theorem State.trap_free (s : State) (c v e : W64) : (s.trap c v e).free = s.free := by unfold State.trap; dsimp only; split <;> rfl
@[simp] theorem State.trap_cur (s : State) (c v e : W64) : (s.trap c v e).cur = s.cur := by unfold State.trap; dsimp only; split <;> rfl
@[simp] theorem State.trap_nextId (s : State) (c v e : W64) : (s.trap c v e).nextId = s.nextId := by unfold State.trap; dsimp only; split <;> rfl
@[simp] theorem State.trap_tick (s : State) (c v e : W64) : (s.trap c v e).tick = s.tick := by unfold State.trap; dsimp only; split <;> rfl
@[simp] theorem State.trap_mem (s : State) (c v e : W64) : (s.trap c v e).mem = s.mem := by unfold State.trap; dsimp only; split <;> rfl
@[simp] theorem State.trap_psn (s : State) (c v e : W64) : (s.trap c v e).psn = s.psn := by unfold State.trap; dsimp only; split <;> rfl
@[simp] theorem State.trap_ecc (s : State) (c v e : W64) : (s.trap c v e).ecc = s.ecc := by unfold State.trap; dsimp only; split <;> rfl
@[simp] theorem State.trap_stale (s : State) (c v e : W64) : (s.trap c v e).stale = s.stale := by unfold State.trap; dsimp only; split <;> rfl
@[simp] theorem State.trap_owners (s : State) (c v e : W64) : (s.trap c v e).owners = s.owners := by unfold State.trap; dsimp only; split <;> rfl
@[simp] theorem State.trap_encKey (s : State) (c v e : W64) : (s.trap c v e).encKey = s.encKey := by unfold State.trap; dsimp only; split <;> rfl
@[simp] theorem State.trap_sramDef (s : State) (c v e : W64) : (s.trap c v e).sramDef = s.sramDef := by unfold State.trap; dsimp only; split <;> rfl
@[simp] theorem State.trap_clus (s : State) (c v e : W64) : (s.trap c v e).clus = s.clus := by unfold State.trap; dsimp only; split <;> rfl
@[simp] theorem State.trap_dies (s : State) (c v e : W64) : (s.trap c v e).dies = s.dies := by unfold State.trap; dsimp only; split <;> rfl
@[simp] theorem State.trap_regions (s : State) (c v e : W64) : (s.trap c v e).regions = s.regions := by unfold State.trap; dsimp only; split <;> rfl
@[simp] theorem State.trap_ctxs (s : State) (c v e : W64) : (s.trap c v e).ctxs = s.ctxs := by unfold State.trap; dsimp only; split <;> rfl
@[simp] theorem State.trap_saved (s : State) (c v e : W64) : (s.trap c v e).saved = s.saved := by unfold State.trap; dsimp only; split <;> rfl
@[simp] theorem State.trap_locks (s : State) (c v e : W64) : (s.trap c v e).locks = s.locks := by unfold State.trap; dsimp only; split <;> rfl
@[simp] theorem State.trap_invs (s : State) (c v e : W64) : (s.trap c v e).invs = s.invs := by unfold State.trap; dsimp only; split <;> rfl
@[simp] theorem State.trap_bcmds (s : State) (c v e : W64) : (s.trap c v e).bcmds = s.bcmds := by unfold State.trap; dsimp only; split <;> rfl
@[simp] theorem State.trap_slots (s : State) (c v e : W64) : (s.trap c v e).slots = s.slots := by unfold State.trap; dsimp only; split <;> rfl
@[simp] theorem State.trap_tiles (s : State) (c v e : W64) : (s.trap c v e).tiles = s.tiles := by unfold State.trap; dsimp only; split <;> rfl
@[simp] theorem State.trap_mops (s : State) (c v e : W64) : (s.trap c v e).mops = s.mops := by unfold State.trap; dsimp only; split <;> rfl
@[simp] theorem State.trap_copies (s : State) (c v e : W64) : (s.trap c v e).copies = s.copies := by unfold State.trap; dsimp only; split <;> rfl
@[simp] theorem State.trap_reqs (s : State) (c v e : W64) : (s.trap c v e).reqs = s.reqs := by unfold State.trap; dsimp only; split <;> rfl
@[simp] theorem State.trap_updates (s : State) (c v e : W64) : (s.trap c v e).updates = s.updates := by unfold State.trap; dsimp only; split <;> rfl
@[simp] theorem State.trap_signals (s : State) (c v e : W64) : (s.trap c v e).signals = s.signals := by unfold State.trap; dsimp only; split <;> rfl
@[simp] theorem State.trap_gens (s : State) (c v e : W64) : (s.trap c v e).gens = s.gens := by unfold State.trap; dsimp only; split <;> rfl
@[simp] theorem State.trap_nodes (s : State) (c v e : W64) : (s.trap c v e).nodes = s.nodes := by unfold State.trap; dsimp only; split <;> rfl
@[simp] theorem State.trap_decOut (s : State) (c v e : W64) : (s.trap c v e).decOut = s.decOut := by unfold State.trap; dsimp only; split <;> rfl
@[simp] theorem State.trap_gangs (s : State) (c v e : W64) : (s.trap c v e).gangs = s.gangs := by unfold State.trap; dsimp only; split <;> rfl
@[simp] theorem State.trap_vfs (s : State) (c v e : W64) : (s.trap c v e).vfs = s.vfs := by unfold State.trap; dsimp only; split <;> rfl
@[simp] theorem State.trap_plat (s : State) (c v e : W64) : (s.trap c v e).plat = s.plat := by unfold State.trap; dsimp only; split <;> rfl
@[simp] theorem State.trap_port0 (s : State) (c v e : W64) : (s.trap c v e).port0 = s.port0 := by unfold State.trap; dsimp only; split <;> rfl
@[simp] theorem State.trap_port1 (s : State) (c v e : W64) : (s.trap c v e).port1 = s.port1 := by unfold State.trap; dsimp only; split <;> rfl
@[simp] theorem State.trap_port2 (s : State) (c v e : W64) : (s.trap c v e).port2 = s.port2 := by unfold State.trap; dsimp only; split <;> rfl
@[simp] theorem State.trap_port3 (s : State) (c v e : W64) : (s.trap c v e).port3 = s.port3 := by unfold State.trap; dsimp only; split <;> rfl
@[simp] theorem State.trap_reads (s : State) (c v e : W64) : (s.trap c v e).reads = s.reads := by unfold State.trap; dsimp only; split <;> rfl
@[simp] theorem State.trap_gaps (s : State) (c v e : W64) : (s.trap c v e).gaps = s.gaps := by unfold State.trap; dsimp only; split <;> rfl
@[simp] theorem State.trap_waits (s : State) (c v e : W64) : (s.trap c v e).waits = s.waits := by unfold State.trap; dsimp only; split <;> rfl
@[simp] theorem State.trap_parts (s : State) (c v e : W64) : (s.trap c v e).parts = s.parts := by unfold State.trap; dsimp only; split <;> rfl
@[simp] theorem State.trap_uioDone (s : State) (c v e : W64) : (s.trap c v e).uioDone = s.uioDone := by unfold State.trap; dsimp only; split <;> rfl
@[simp] theorem State.trap_uioLost (s : State) (c v e : W64) : (s.trap c v e).uioLost = s.uioLost := by unfold State.trap; dsimp only; split <;> rfl
@[simp] theorem State.trap_stopped (s : State) (c v e : W64) : (s.trap c v e).stopped = s.stopped := by unfold State.trap; dsimp only; split <;> rfl

/-! ## Changes from outside, interrupts and the log -/

/-- A field that each step of a fold keeps is kept by the fold. -/
theorem foldl_keeps {β γ : Type} (g : State → γ) (f : State → β → State) (h : ∀ t e, g (f t e) = g t) (l : List β) (s : State) :
    g (l.foldl f s) = g s := by
  induction l generalizing s with
  | nil => rfl
  | cons e l ih => rw [List.foldl_cons, ih, h]

/-- What an event outside the hart that steps cannot change: all but the harts, the vector instructions that wait, the stacks' registers, the platform, the VFs and
the agenda. -/
def State.outer (s : State) : State := { s with hart := {}, harts := [], ras := [], lates := [], stk := [], plat := {}, vfs := [], agenda := [] }

theorem ite_outer {c : Prop} [Decidable c] {a b s : State} (ha : a.outer = s.outer) (hb : b.outer = s.outer) :
    (if c then a else b).outer = s.outer := by split <;> assumption

theorem State.onHart_outer (s : State) (p : Nat) (f : Hart → Hart) : (s.onHart p f).outer = s.outer := by
  unfold State.onHart State.putHart; split <;> (try split) <;> rfl

theorem State.pend_outer (s : State) (p c : Nat) (v : W64) : (s.pend p c v).outer = s.outer := State.onHart_outer _ _ _

theorem State.pendAll_outer (s : State) (c : Nat) (v : W64) : (s.pendAll c v).outer = s.outer :=
  foldl_keeps State.outer _ (fun t k => by split <;> first | rfl | exact State.pend_outer _ _ _ _) _ s

theorem State.msixAll3_outer (s : State) : s.msixAll3.outer = s.outer :=
  (foldl_keeps State.outer _ (fun t k => by unfold State.msixVf; split <;> rfl) _ _).trans rfl

theorem State.requestReplace_outer (s : State) : s.requestReplace.outer = s.outer := by
  unfold State.requestReplace
  split
  · rfl
  · exact (State.msixAll3_outer _).trans (State.pendAll_outer _ _ _)

theorem State.logEvent_outer (s : State) (k t u w d : Nat) : (s.logEvent k t u w d).outer = s.outer := by
  have h : ∀ v : Stack, ((if (decide (t ≠ 5) && decide (t ≠ 6) && decide ((s.getStk k).logHead = (s.getStk k).logTail)) = true then
      (s.setStk k v).pend (8192 + 4 * k) 3 0 else s.setStk k v)).outer = s.outer :=
    fun v => ite_outer (State.pend_outer _ _ _ _) rfl
  exact ite_outer ((State.requestReplace_outer _).trans (h _)) (h _)

@[simp] theorem State.onHart_moves (s : State) (p : Nat) (f : Hart → Hart) : (s.onHart p f).moves = s.moves := (congrArg State.moves (s.onHart_outer p f) :)
@[simp] theorem State.onHart_free (s : State) (p : Nat) (f : Hart → Hart) : (s.onHart p f).free = s.free := (congrArg State.free (s.onHart_outer p f) :)
@[simp] theorem State.onHart_cur (s : State) (p : Nat) (f : Hart → Hart) : (s.onHart p f).cur = s.cur := (congrArg State.cur (s.onHart_outer p f) :)
@[simp] theorem State.onHart_nextId (s : State) (p : Nat) (f : Hart → Hart) : (s.onHart p f).nextId = s.nextId := (congrArg State.nextId (s.onHart_outer p f) :)
@[simp] theorem State.onHart_tick (s : State) (p : Nat) (f : Hart → Hart) : (s.onHart p f).tick = s.tick := (congrArg State.tick (s.onHart_outer p f) :)
@[simp] theorem State.onHart_mem (s : State) (p : Nat) (f : Hart → Hart) : (s.onHart p f).mem = s.mem := (congrArg State.mem (s.onHart_outer p f) :)
@[simp] theorem State.onHart_psn (s : State) (p : Nat) (f : Hart → Hart) : (s.onHart p f).psn = s.psn := (congrArg State.psn (s.onHart_outer p f) :)
@[simp] theorem State.onHart_ecc (s : State) (p : Nat) (f : Hart → Hart) : (s.onHart p f).ecc = s.ecc := (congrArg State.ecc (s.onHart_outer p f) :)
@[simp] theorem State.onHart_stale (s : State) (p : Nat) (f : Hart → Hart) : (s.onHart p f).stale = s.stale := (congrArg State.stale (s.onHart_outer p f) :)
@[simp] theorem State.onHart_owners (s : State) (p : Nat) (f : Hart → Hart) : (s.onHart p f).owners = s.owners := (congrArg State.owners (s.onHart_outer p f) :)
@[simp] theorem State.onHart_encKey (s : State) (p : Nat) (f : Hart → Hart) : (s.onHart p f).encKey = s.encKey := (congrArg State.encKey (s.onHart_outer p f) :)
@[simp] theorem State.onHart_sramDef (s : State) (p : Nat) (f : Hart → Hart) : (s.onHart p f).sramDef = s.sramDef := (congrArg State.sramDef (s.onHart_outer p f) :)
@[simp] theorem State.onHart_clus (s : State) (p : Nat) (f : Hart → Hart) : (s.onHart p f).clus = s.clus := (congrArg State.clus (s.onHart_outer p f) :)
@[simp] theorem State.onHart_dies (s : State) (p : Nat) (f : Hart → Hart) : (s.onHart p f).dies = s.dies := (congrArg State.dies (s.onHart_outer p f) :)
@[simp] theorem State.onHart_regions (s : State) (p : Nat) (f : Hart → Hart) : (s.onHart p f).regions = s.regions := (congrArg State.regions (s.onHart_outer p f) :)
@[simp] theorem State.onHart_ctxs (s : State) (p : Nat) (f : Hart → Hart) : (s.onHart p f).ctxs = s.ctxs := (congrArg State.ctxs (s.onHart_outer p f) :)
@[simp] theorem State.onHart_saved (s : State) (p : Nat) (f : Hart → Hart) : (s.onHart p f).saved = s.saved := (congrArg State.saved (s.onHart_outer p f) :)
@[simp] theorem State.onHart_locks (s : State) (p : Nat) (f : Hart → Hart) : (s.onHart p f).locks = s.locks := (congrArg State.locks (s.onHart_outer p f) :)
@[simp] theorem State.onHart_invs (s : State) (p : Nat) (f : Hart → Hart) : (s.onHart p f).invs = s.invs := (congrArg State.invs (s.onHart_outer p f) :)
@[simp] theorem State.onHart_bcmds (s : State) (p : Nat) (f : Hart → Hart) : (s.onHart p f).bcmds = s.bcmds := (congrArg State.bcmds (s.onHart_outer p f) :)
@[simp] theorem State.onHart_slots (s : State) (p : Nat) (f : Hart → Hart) : (s.onHart p f).slots = s.slots := (congrArg State.slots (s.onHart_outer p f) :)
@[simp] theorem State.onHart_tiles (s : State) (p : Nat) (f : Hart → Hart) : (s.onHart p f).tiles = s.tiles := (congrArg State.tiles (s.onHart_outer p f) :)
@[simp] theorem State.onHart_mops (s : State) (p : Nat) (f : Hart → Hart) : (s.onHart p f).mops = s.mops := (congrArg State.mops (s.onHart_outer p f) :)
@[simp] theorem State.onHart_copies (s : State) (p : Nat) (f : Hart → Hart) : (s.onHart p f).copies = s.copies := (congrArg State.copies (s.onHart_outer p f) :)
@[simp] theorem State.onHart_reqs (s : State) (p : Nat) (f : Hart → Hart) : (s.onHart p f).reqs = s.reqs := (congrArg State.reqs (s.onHart_outer p f) :)
@[simp] theorem State.onHart_updates (s : State) (p : Nat) (f : Hart → Hart) : (s.onHart p f).updates = s.updates := (congrArg State.updates (s.onHart_outer p f) :)
@[simp] theorem State.onHart_signals (s : State) (p : Nat) (f : Hart → Hart) : (s.onHart p f).signals = s.signals := (congrArg State.signals (s.onHart_outer p f) :)
@[simp] theorem State.onHart_gens (s : State) (p : Nat) (f : Hart → Hart) : (s.onHart p f).gens = s.gens := (congrArg State.gens (s.onHart_outer p f) :)
@[simp] theorem State.onHart_nodes (s : State) (p : Nat) (f : Hart → Hart) : (s.onHart p f).nodes = s.nodes := (congrArg State.nodes (s.onHart_outer p f) :)
@[simp] theorem State.onHart_decOut (s : State) (p : Nat) (f : Hart → Hart) : (s.onHart p f).decOut = s.decOut := (congrArg State.decOut (s.onHart_outer p f) :)
@[simp] theorem State.onHart_gangs (s : State) (p : Nat) (f : Hart → Hart) : (s.onHart p f).gangs = s.gangs := (congrArg State.gangs (s.onHart_outer p f) :)
@[simp] theorem State.onHart_port0 (s : State) (p : Nat) (f : Hart → Hart) : (s.onHart p f).port0 = s.port0 := (congrArg State.port0 (s.onHart_outer p f) :)
@[simp] theorem State.onHart_port1 (s : State) (p : Nat) (f : Hart → Hart) : (s.onHart p f).port1 = s.port1 := (congrArg State.port1 (s.onHart_outer p f) :)
@[simp] theorem State.onHart_port2 (s : State) (p : Nat) (f : Hart → Hart) : (s.onHart p f).port2 = s.port2 := (congrArg State.port2 (s.onHart_outer p f) :)
@[simp] theorem State.onHart_port3 (s : State) (p : Nat) (f : Hart → Hart) : (s.onHart p f).port3 = s.port3 := (congrArg State.port3 (s.onHart_outer p f) :)
@[simp] theorem State.onHart_reads (s : State) (p : Nat) (f : Hart → Hart) : (s.onHart p f).reads = s.reads := (congrArg State.reads (s.onHart_outer p f) :)
@[simp] theorem State.onHart_gaps (s : State) (p : Nat) (f : Hart → Hart) : (s.onHart p f).gaps = s.gaps := (congrArg State.gaps (s.onHart_outer p f) :)
@[simp] theorem State.onHart_waits (s : State) (p : Nat) (f : Hart → Hart) : (s.onHart p f).waits = s.waits := (congrArg State.waits (s.onHart_outer p f) :)
@[simp] theorem State.onHart_parts (s : State) (p : Nat) (f : Hart → Hart) : (s.onHart p f).parts = s.parts := (congrArg State.parts (s.onHart_outer p f) :)
@[simp] theorem State.onHart_uioDone (s : State) (p : Nat) (f : Hart → Hart) : (s.onHart p f).uioDone = s.uioDone := (congrArg State.uioDone (s.onHart_outer p f) :)
@[simp] theorem State.onHart_uioLost (s : State) (p : Nat) (f : Hart → Hart) : (s.onHart p f).uioLost = s.uioLost := (congrArg State.uioLost (s.onHart_outer p f) :)
@[simp] theorem State.onHart_stopped (s : State) (p : Nat) (f : Hart → Hart) : (s.onHart p f).stopped = s.stopped := (congrArg State.stopped (s.onHart_outer p f) :)
@[simp] theorem State.pend_moves (s : State) (p c : Nat) (v : W64) : (s.pend p c v).moves = s.moves := (congrArg State.moves (s.pend_outer p c v) :)
@[simp] theorem State.pend_free (s : State) (p c : Nat) (v : W64) : (s.pend p c v).free = s.free := (congrArg State.free (s.pend_outer p c v) :)
@[simp] theorem State.pend_cur (s : State) (p c : Nat) (v : W64) : (s.pend p c v).cur = s.cur := (congrArg State.cur (s.pend_outer p c v) :)
@[simp] theorem State.pend_nextId (s : State) (p c : Nat) (v : W64) : (s.pend p c v).nextId = s.nextId := (congrArg State.nextId (s.pend_outer p c v) :)
@[simp] theorem State.pend_tick (s : State) (p c : Nat) (v : W64) : (s.pend p c v).tick = s.tick := (congrArg State.tick (s.pend_outer p c v) :)
@[simp] theorem State.pend_mem (s : State) (p c : Nat) (v : W64) : (s.pend p c v).mem = s.mem := (congrArg State.mem (s.pend_outer p c v) :)
@[simp] theorem State.pend_psn (s : State) (p c : Nat) (v : W64) : (s.pend p c v).psn = s.psn := (congrArg State.psn (s.pend_outer p c v) :)
@[simp] theorem State.pend_ecc (s : State) (p c : Nat) (v : W64) : (s.pend p c v).ecc = s.ecc := (congrArg State.ecc (s.pend_outer p c v) :)
@[simp] theorem State.pend_stale (s : State) (p c : Nat) (v : W64) : (s.pend p c v).stale = s.stale := (congrArg State.stale (s.pend_outer p c v) :)
@[simp] theorem State.pend_owners (s : State) (p c : Nat) (v : W64) : (s.pend p c v).owners = s.owners := (congrArg State.owners (s.pend_outer p c v) :)
@[simp] theorem State.pend_encKey (s : State) (p c : Nat) (v : W64) : (s.pend p c v).encKey = s.encKey := (congrArg State.encKey (s.pend_outer p c v) :)
@[simp] theorem State.pend_sramDef (s : State) (p c : Nat) (v : W64) : (s.pend p c v).sramDef = s.sramDef := (congrArg State.sramDef (s.pend_outer p c v) :)
@[simp] theorem State.pend_clus (s : State) (p c : Nat) (v : W64) : (s.pend p c v).clus = s.clus := (congrArg State.clus (s.pend_outer p c v) :)
@[simp] theorem State.pend_dies (s : State) (p c : Nat) (v : W64) : (s.pend p c v).dies = s.dies := (congrArg State.dies (s.pend_outer p c v) :)
@[simp] theorem State.pend_regions (s : State) (p c : Nat) (v : W64) : (s.pend p c v).regions = s.regions := (congrArg State.regions (s.pend_outer p c v) :)
@[simp] theorem State.pend_ctxs (s : State) (p c : Nat) (v : W64) : (s.pend p c v).ctxs = s.ctxs := (congrArg State.ctxs (s.pend_outer p c v) :)
@[simp] theorem State.pend_saved (s : State) (p c : Nat) (v : W64) : (s.pend p c v).saved = s.saved := (congrArg State.saved (s.pend_outer p c v) :)
@[simp] theorem State.pend_locks (s : State) (p c : Nat) (v : W64) : (s.pend p c v).locks = s.locks := (congrArg State.locks (s.pend_outer p c v) :)
@[simp] theorem State.pend_invs (s : State) (p c : Nat) (v : W64) : (s.pend p c v).invs = s.invs := (congrArg State.invs (s.pend_outer p c v) :)
@[simp] theorem State.pend_bcmds (s : State) (p c : Nat) (v : W64) : (s.pend p c v).bcmds = s.bcmds := (congrArg State.bcmds (s.pend_outer p c v) :)
@[simp] theorem State.pend_slots (s : State) (p c : Nat) (v : W64) : (s.pend p c v).slots = s.slots := (congrArg State.slots (s.pend_outer p c v) :)
@[simp] theorem State.pend_tiles (s : State) (p c : Nat) (v : W64) : (s.pend p c v).tiles = s.tiles := (congrArg State.tiles (s.pend_outer p c v) :)
@[simp] theorem State.pend_mops (s : State) (p c : Nat) (v : W64) : (s.pend p c v).mops = s.mops := (congrArg State.mops (s.pend_outer p c v) :)
@[simp] theorem State.pend_copies (s : State) (p c : Nat) (v : W64) : (s.pend p c v).copies = s.copies := (congrArg State.copies (s.pend_outer p c v) :)
@[simp] theorem State.pend_reqs (s : State) (p c : Nat) (v : W64) : (s.pend p c v).reqs = s.reqs := (congrArg State.reqs (s.pend_outer p c v) :)
@[simp] theorem State.pend_updates (s : State) (p c : Nat) (v : W64) : (s.pend p c v).updates = s.updates := (congrArg State.updates (s.pend_outer p c v) :)
@[simp] theorem State.pend_signals (s : State) (p c : Nat) (v : W64) : (s.pend p c v).signals = s.signals := (congrArg State.signals (s.pend_outer p c v) :)
@[simp] theorem State.pend_gens (s : State) (p c : Nat) (v : W64) : (s.pend p c v).gens = s.gens := (congrArg State.gens (s.pend_outer p c v) :)
@[simp] theorem State.pend_nodes (s : State) (p c : Nat) (v : W64) : (s.pend p c v).nodes = s.nodes := (congrArg State.nodes (s.pend_outer p c v) :)
@[simp] theorem State.pend_decOut (s : State) (p c : Nat) (v : W64) : (s.pend p c v).decOut = s.decOut := (congrArg State.decOut (s.pend_outer p c v) :)
@[simp] theorem State.pend_gangs (s : State) (p c : Nat) (v : W64) : (s.pend p c v).gangs = s.gangs := (congrArg State.gangs (s.pend_outer p c v) :)
@[simp] theorem State.pend_port0 (s : State) (p c : Nat) (v : W64) : (s.pend p c v).port0 = s.port0 := (congrArg State.port0 (s.pend_outer p c v) :)
@[simp] theorem State.pend_port1 (s : State) (p c : Nat) (v : W64) : (s.pend p c v).port1 = s.port1 := (congrArg State.port1 (s.pend_outer p c v) :)
@[simp] theorem State.pend_port2 (s : State) (p c : Nat) (v : W64) : (s.pend p c v).port2 = s.port2 := (congrArg State.port2 (s.pend_outer p c v) :)
@[simp] theorem State.pend_port3 (s : State) (p c : Nat) (v : W64) : (s.pend p c v).port3 = s.port3 := (congrArg State.port3 (s.pend_outer p c v) :)
@[simp] theorem State.pend_reads (s : State) (p c : Nat) (v : W64) : (s.pend p c v).reads = s.reads := (congrArg State.reads (s.pend_outer p c v) :)
@[simp] theorem State.pend_gaps (s : State) (p c : Nat) (v : W64) : (s.pend p c v).gaps = s.gaps := (congrArg State.gaps (s.pend_outer p c v) :)
@[simp] theorem State.pend_waits (s : State) (p c : Nat) (v : W64) : (s.pend p c v).waits = s.waits := (congrArg State.waits (s.pend_outer p c v) :)
@[simp] theorem State.pend_parts (s : State) (p c : Nat) (v : W64) : (s.pend p c v).parts = s.parts := (congrArg State.parts (s.pend_outer p c v) :)
@[simp] theorem State.pend_uioDone (s : State) (p c : Nat) (v : W64) : (s.pend p c v).uioDone = s.uioDone := (congrArg State.uioDone (s.pend_outer p c v) :)
@[simp] theorem State.pend_uioLost (s : State) (p c : Nat) (v : W64) : (s.pend p c v).uioLost = s.uioLost := (congrArg State.uioLost (s.pend_outer p c v) :)
@[simp] theorem State.pend_stopped (s : State) (p c : Nat) (v : W64) : (s.pend p c v).stopped = s.stopped := (congrArg State.stopped (s.pend_outer p c v) :)
@[simp] theorem State.logEvent_moves (s : State) (k t u w d : Nat) : (s.logEvent k t u w d).moves = s.moves := (congrArg State.moves (s.logEvent_outer k t u w d) :)
@[simp] theorem State.logEvent_free (s : State) (k t u w d : Nat) : (s.logEvent k t u w d).free = s.free := (congrArg State.free (s.logEvent_outer k t u w d) :)
@[simp] theorem State.logEvent_cur (s : State) (k t u w d : Nat) : (s.logEvent k t u w d).cur = s.cur := (congrArg State.cur (s.logEvent_outer k t u w d) :)
@[simp] theorem State.logEvent_nextId (s : State) (k t u w d : Nat) : (s.logEvent k t u w d).nextId = s.nextId := (congrArg State.nextId (s.logEvent_outer k t u w d) :)
@[simp] theorem State.logEvent_tick (s : State) (k t u w d : Nat) : (s.logEvent k t u w d).tick = s.tick := (congrArg State.tick (s.logEvent_outer k t u w d) :)
@[simp] theorem State.logEvent_mem (s : State) (k t u w d : Nat) : (s.logEvent k t u w d).mem = s.mem := (congrArg State.mem (s.logEvent_outer k t u w d) :)
@[simp] theorem State.logEvent_psn (s : State) (k t u w d : Nat) : (s.logEvent k t u w d).psn = s.psn := (congrArg State.psn (s.logEvent_outer k t u w d) :)
@[simp] theorem State.logEvent_ecc (s : State) (k t u w d : Nat) : (s.logEvent k t u w d).ecc = s.ecc := (congrArg State.ecc (s.logEvent_outer k t u w d) :)
@[simp] theorem State.logEvent_stale (s : State) (k t u w d : Nat) : (s.logEvent k t u w d).stale = s.stale := (congrArg State.stale (s.logEvent_outer k t u w d) :)
@[simp] theorem State.logEvent_owners (s : State) (k t u w d : Nat) : (s.logEvent k t u w d).owners = s.owners := (congrArg State.owners (s.logEvent_outer k t u w d) :)
@[simp] theorem State.logEvent_encKey (s : State) (k t u w d : Nat) : (s.logEvent k t u w d).encKey = s.encKey := (congrArg State.encKey (s.logEvent_outer k t u w d) :)
@[simp] theorem State.logEvent_sramDef (s : State) (k t u w d : Nat) : (s.logEvent k t u w d).sramDef = s.sramDef := (congrArg State.sramDef (s.logEvent_outer k t u w d) :)
@[simp] theorem State.logEvent_clus (s : State) (k t u w d : Nat) : (s.logEvent k t u w d).clus = s.clus := (congrArg State.clus (s.logEvent_outer k t u w d) :)
@[simp] theorem State.logEvent_dies (s : State) (k t u w d : Nat) : (s.logEvent k t u w d).dies = s.dies := (congrArg State.dies (s.logEvent_outer k t u w d) :)
@[simp] theorem State.logEvent_regions (s : State) (k t u w d : Nat) : (s.logEvent k t u w d).regions = s.regions := (congrArg State.regions (s.logEvent_outer k t u w d) :)
@[simp] theorem State.logEvent_ctxs (s : State) (k t u w d : Nat) : (s.logEvent k t u w d).ctxs = s.ctxs := (congrArg State.ctxs (s.logEvent_outer k t u w d) :)
@[simp] theorem State.logEvent_saved (s : State) (k t u w d : Nat) : (s.logEvent k t u w d).saved = s.saved := (congrArg State.saved (s.logEvent_outer k t u w d) :)
@[simp] theorem State.logEvent_locks (s : State) (k t u w d : Nat) : (s.logEvent k t u w d).locks = s.locks := (congrArg State.locks (s.logEvent_outer k t u w d) :)
@[simp] theorem State.logEvent_invs (s : State) (k t u w d : Nat) : (s.logEvent k t u w d).invs = s.invs := (congrArg State.invs (s.logEvent_outer k t u w d) :)
@[simp] theorem State.logEvent_bcmds (s : State) (k t u w d : Nat) : (s.logEvent k t u w d).bcmds = s.bcmds := (congrArg State.bcmds (s.logEvent_outer k t u w d) :)
@[simp] theorem State.logEvent_slots (s : State) (k t u w d : Nat) : (s.logEvent k t u w d).slots = s.slots := (congrArg State.slots (s.logEvent_outer k t u w d) :)
@[simp] theorem State.logEvent_tiles (s : State) (k t u w d : Nat) : (s.logEvent k t u w d).tiles = s.tiles := (congrArg State.tiles (s.logEvent_outer k t u w d) :)
@[simp] theorem State.logEvent_mops (s : State) (k t u w d : Nat) : (s.logEvent k t u w d).mops = s.mops := (congrArg State.mops (s.logEvent_outer k t u w d) :)
@[simp] theorem State.logEvent_copies (s : State) (k t u w d : Nat) : (s.logEvent k t u w d).copies = s.copies := (congrArg State.copies (s.logEvent_outer k t u w d) :)
@[simp] theorem State.logEvent_reqs (s : State) (k t u w d : Nat) : (s.logEvent k t u w d).reqs = s.reqs := (congrArg State.reqs (s.logEvent_outer k t u w d) :)
@[simp] theorem State.logEvent_updates (s : State) (k t u w d : Nat) : (s.logEvent k t u w d).updates = s.updates := (congrArg State.updates (s.logEvent_outer k t u w d) :)
@[simp] theorem State.logEvent_signals (s : State) (k t u w d : Nat) : (s.logEvent k t u w d).signals = s.signals := (congrArg State.signals (s.logEvent_outer k t u w d) :)
@[simp] theorem State.logEvent_gens (s : State) (k t u w d : Nat) : (s.logEvent k t u w d).gens = s.gens := (congrArg State.gens (s.logEvent_outer k t u w d) :)
@[simp] theorem State.logEvent_nodes (s : State) (k t u w d : Nat) : (s.logEvent k t u w d).nodes = s.nodes := (congrArg State.nodes (s.logEvent_outer k t u w d) :)
@[simp] theorem State.logEvent_decOut (s : State) (k t u w d : Nat) : (s.logEvent k t u w d).decOut = s.decOut := (congrArg State.decOut (s.logEvent_outer k t u w d) :)
@[simp] theorem State.logEvent_gangs (s : State) (k t u w d : Nat) : (s.logEvent k t u w d).gangs = s.gangs := (congrArg State.gangs (s.logEvent_outer k t u w d) :)
@[simp] theorem State.logEvent_port0 (s : State) (k t u w d : Nat) : (s.logEvent k t u w d).port0 = s.port0 := (congrArg State.port0 (s.logEvent_outer k t u w d) :)
@[simp] theorem State.logEvent_port1 (s : State) (k t u w d : Nat) : (s.logEvent k t u w d).port1 = s.port1 := (congrArg State.port1 (s.logEvent_outer k t u w d) :)
@[simp] theorem State.logEvent_port2 (s : State) (k t u w d : Nat) : (s.logEvent k t u w d).port2 = s.port2 := (congrArg State.port2 (s.logEvent_outer k t u w d) :)
@[simp] theorem State.logEvent_port3 (s : State) (k t u w d : Nat) : (s.logEvent k t u w d).port3 = s.port3 := (congrArg State.port3 (s.logEvent_outer k t u w d) :)
@[simp] theorem State.logEvent_reads (s : State) (k t u w d : Nat) : (s.logEvent k t u w d).reads = s.reads := (congrArg State.reads (s.logEvent_outer k t u w d) :)
@[simp] theorem State.logEvent_gaps (s : State) (k t u w d : Nat) : (s.logEvent k t u w d).gaps = s.gaps := (congrArg State.gaps (s.logEvent_outer k t u w d) :)
@[simp] theorem State.logEvent_waits (s : State) (k t u w d : Nat) : (s.logEvent k t u w d).waits = s.waits := (congrArg State.waits (s.logEvent_outer k t u w d) :)
@[simp] theorem State.logEvent_parts (s : State) (k t u w d : Nat) : (s.logEvent k t u w d).parts = s.parts := (congrArg State.parts (s.logEvent_outer k t u w d) :)
@[simp] theorem State.logEvent_uioDone (s : State) (k t u w d : Nat) : (s.logEvent k t u w d).uioDone = s.uioDone := (congrArg State.uioDone (s.logEvent_outer k t u w d) :)
@[simp] theorem State.logEvent_uioLost (s : State) (k t u w d : Nat) : (s.logEvent k t u w d).uioLost = s.uioLost := (congrArg State.uioLost (s.logEvent_outer k t u w d) :)
@[simp] theorem State.logEvent_stopped (s : State) (k t u w d : Nat) : (s.logEvent k t u w d).stopped = s.stopped := (congrArg State.stopped (s.logEvent_outer k t u w d) :)

end Sys2Proof.Machine
end

