-- ==== Sys2Proof/Laws/Memory.lean ====
section
/-! SUPPORT. Laws of memory below translation: what each operation leaves at a byte, and that every operation that writes memory keeps its
canonical form. -/
namespace Sys2Proof.Machine

variable {s : State} {k j : Nat} {v : Byte}

/-- A fold each of whose steps keeps a property keeps it. -/
theorem foldl_inv {β : Type} (P : State → Prop) (f : State → β → State) (h : ∀ t e, P t → P (f t e)) (l : List β) (s : State) (hs : P s) :
    P (l.foldl f s) := by
  induction l generalizing s with
  | nil => exact hs
  | cons e l ih => exact ih _ (h _ _ hs)

/-- The memory of a state is in the canonical form. -/
def canon (s : State) : Prop := Memory.wf s.mem = true

theorem canon_of_eq {t : State} (e : t.mem = s.mem) (h : canon s) : canon t := by rw [canon, e]; exact h

theorem canon_ite {c : Prop} [Decidable c] {a b : State} (ha : canon a) (hb : canon b) : canon (if c then a else b) := by
  split <;> assumption

theorem canon_setByte (h : canon s) : canon (s.setByte k v) := memSet_wf h

/-! ## A byte after a write -/

/-- Below the cluster SRAMs a byte is what memory lists. -/
theorem byteAt_of_lt (h : k < keySram) : s.byteAt k = memGet s.mem k := by
  unfold State.byteAt
  rw [if_neg (by omega), if_neg (by unfold keyPeer; unfold keySram at h; omega)]

theorem byteAt_setByte_of_lt (h : j < keySram) : (s.setByte k v).byteAt j = if j = k then v else s.byteAt j := by
  rw [byteAt_of_lt h, byteAt_of_lt h]; exact memGet_memSet

theorem nmem_nins (a b : Nat) (l : List Nat) : nmem a (nins b l) = (decide (a = b) || nmem a l) := by
  induction l with
  | nil => simp [nins, nmem, eq_comm]
  | cons c l ih =>
    simp only [nins]
    split
    · simp [nmem, eq_comm]
    · split
      · next h => subst h; simp only [nmem, List.any_cons, eq_comm (a := a)]; cases decide (b = a) <;> rfl
      · simp only [nmem, List.any_cons] at ih ⊢
        rw [ih]
        cases decide (c = a) <;> cases decide (a = b) <;> rfl

/-- Every byte after one byte is written: the byte written, and each other one as before. -/
theorem byteAt_setByte : (s.setByte k v).byteAt j = if j = k then v else s.byteAt j := by
  by_cases hj : j < keySram
  · exact byteAt_setByte_of_lt hj
  · have hd : nmem j (s.setByte k v).sramDef = (decide (j = k) || nmem j s.sramDef) := by
      rw [State.setByte_sramDef]
      split
      · exact nmem_nins _ _ _
      · next h => rw [decide_eq_false (show ¬ j = k by omega), Bool.false_or]
    have hb : (s.setByte k v).getBank (keyBank j).1 (keyBank j).2 = s.getBank (keyBank j).1 (keyBank j).2 := rfl
    have hm : memGet (s.setByte k v).mem j = if j = k then v else memGet s.mem j := memGet_memSet
    unfold State.byteAt
    dsimp only
    rw [hd, hb, hm, State.setByte_moves]
    by_cases h : j = k
    · subst h; simp
    · simp [h]

/-! ## The canonical form -/

theorem canon_logEvent {t u w d : Nat} (h : canon s) : canon (s.logEvent k t u w d) := canon_of_eq (State.logEvent_mem _ _ _ _ _ _) h

theorem canon_storeWords {kvs : List (Nat × Byte)} {home ia : Nat} (h : canon s) : canon (s.storeWords kvs home ia) := by
  unfold State.storeWords
  split
  · exact foldl_inv canon _ (fun t e ht => canon_setByte ht) _ _ h
  · dsimp only
    have h2 : ∀ kept : List Nat, canon (kvs.foldl (fun t e => if nmem (wordBase e.1) kept then t else t.setByte e.1 e.2) s) :=
      fun kept => foldl_inv canon _ (fun t e ht => canon_ite ht (canon_setByte ht)) _ _ h
    split
    · exact canon_of_eq (s := kvs.foldl _ s) rfl (h2 _)
    · exact canon_logEvent (canon_of_eq (s := kvs.foldl _ s) rfl (h2 _))

theorem canon_storeKeys {kvs : List (Nat × Byte)} {home ia : Nat} (h : canon s) : canon (s.storeKeys kvs home ia) := by
  unfold State.storeKeys
  split
  · exact canon_storeWords h
  · exact canon_storeWords (canon_of_eq (s := s) rfl h)

theorem canon_corruptWord {bits : Nat → Nat → Byte} (h : canon s) : canon (s.corruptWord k bits) := by
  have key : ∀ (e : Nat) (l : List Nat) (m : Sparse Byte), Memory.wf m = true →
      Memory.wf (l.foldl (fun m j => memSet m j (memGet m j ^^^ bits (j - k) e)) m) = true := by
    intro e l
    induction l with
    | nil => exact fun _ h => h
    | cons _ _ ih => exact fun _ h => ih _ (memSet_wf h)
  exact key _ _ _ h

theorem canon_poison (h : canon s) : canon (s.poison k) := h

theorem canon_post {i : Instr} (h : canon s) : canon (s.post i) := h

theorem canon_countCorrection {micro : Bool} (h : canon s) : canon (s.countCorrection k micro) := by
  unfold State.countCorrection
  dsimp only
  have h1 : ∀ (a : Nat) (b : Stack) (c : Nat) (d : Die) (e f g i j : Nat), canon (((s.setStk a b).setDie c d).logEvent e f g i j) :=
    fun _ _ _ _ _ _ _ _ _ => canon_logEvent h
  refine canon_ite (canon_post (canon_ite (canon_post ?_) ?_)) (canon_ite (canon_post ?_) ?_)
  all_goals apply h1

theorem canon_decodeWord {micro : Bool} (h : canon s) : canon (s.decodeWord k micro) := by
  unfold State.decodeWord
  dsimp only
  split
  · exact h
  · split
    · exact canon_countCorrection (canon_of_eq (s := s) rfl h)
    · split
      · exact canon_of_eq (s := s) rfl h
      · exact canon_countCorrection (canon_corruptWord h)

theorem canon_decodeOther (h : canon s) : canon (s.decodeOther k) := by
  unfold State.decodeOther
  dsimp only
  split
  · exact h
  · split
    · split
      · exact canon_logEvent (canon_of_eq (s := s) rfl h)
      · exact canon_of_eq (s := s) rfl h
    · split
      · exact canon_of_eq (s := s) rfl h
      · split
        · exact canon_logEvent (canon_corruptWord (canon_of_eq (s := s) rfl h))
        · exact canon_corruptWord (canon_of_eq (s := s) rfl h)

theorem canon_ecr (h : canon s) : canon (s.ecr k) := by
  unfold State.ecr
  split
  · generalize (upto 32).map (fun i => k * 1024 + 32 * i) = ws
    dsimp only
    exact canon_of_eq (s := ws.foldl _ s) rfl (foldl_inv canon _ (fun t w ht => canon_ite ht (canon_corruptWord ht)) ws s h)
  · exact h

theorem canon_touch {ks : List Nat} (h : canon s) : canon (s.touch ks) := by
  have h1 : canon (if s.stale = [] then s else (ks.filter (fun k => decide (k < keySecond))).foldl (fun t k => t.ecr (k / 1024)) s) := by
    split
    · exact h
    · exact foldl_inv canon _ (fun t e ht => canon_ecr ht) _ _ h
  exact canon_ite h1 (foldl_inv canon _ (fun t w ht => canon_ite (canon_decodeWord ht) (canon_decodeOther ht)) _ _ h1)

theorem canon_rekey {want : Nat} {ks : List Nat} (h : canon s) : canon (s.rekey want ks) := by
  refine foldl_inv canon _ (fun t e ht => ?_) _ _ h
  dsimp only
  refine canon_ite ht ?_
  generalize upFrom (64 * (e / 64)) 64 = l
  exact canon_of_eq (s := l.foldl (fun u j => u.setByte j (t.encByte want j)) t) rfl
    (foldl_inv canon (fun u j => u.setByte j (t.encByte want j)) (fun _ _ hu => canon_setByte hu) l t ht)

theorem canon_storePage {kvs : List (Nat × Byte)} {enc : Option Nat} {home ia : Nat} (h : canon s) : canon (s.storePage kvs enc home ia) := by
  unfold State.storePage
  split
  · exact canon_storeKeys h
  · exact canon_storeKeys (canon_rekey h)

theorem canon_memWrite {n x : Nat} (h : canon s) : canon { s with mem := memWrite s.mem k n x } := memWrite_wf h

theorem canon_setMod {a pte : Nat} (h : canon s) : canon (s.setMod k a pte) := by
  unfold State.setMod
  split
  · exact h
  · split
    · exact canon_memWrite h
    · exact h

theorem canon_discardBank {c b : Nat} (h : canon s) : canon (s.discardBank c b) := swf_filter _ h

theorem canon_putRaw {bytes : List Byte} {enc : Nat → Nat} (h : canon s) : canon (s.putRaw k bytes enc) :=
  foldl_memSet_wf (fun e : Byte × Nat => e.2) (fun e => e.1) _ h

theorem canon_rewrite {n : Nat} {f : Nat → Nat} (h : canon s) : canon (s.rewrite k n f) :=
  foldl_inv canon _ (fun _ _ ht => canon_memWrite ht) _ _ h

theorem canon_moveBytes {a b n : Nat} (h : canon s) : canon (s.moveBytes a b n) :=
  foldl_memSet_wf (fun c : Nat × Byte => c.1 - a + b) (fun c => c.2) _ (foldl_memSet_wf (fun c : Nat × Byte => c.1) (fun _ => unlistedByte) _ (canon_touch h))

theorem canon_bankPut {c b o n x : Nat} (h : canon s) : canon (s.bankPut c b o n x) := foldl_inv canon _ (fun _ _ ht => canon_setByte ht) _ _ h

theorem canon_cacheEntries (h : canon s) : canon (s.cacheEntries k j) := by
  unfold State.cacheEntries
  exact h

theorem canon_leafAt (h : canon s) : canon (s.leafAt k j).1 := by
  unfold State.leafAt
  split
  · exact h
  · split
    · exact canon_cacheEntries h
    · dsimp only
      split
      · exact canon_cacheEntries h
      · exact canon_of_eq rfl (canon_memWrite (canon_cacheEntries h))

theorem canon_translateAt {lvl : Level} {vf : Nat} {acc : Acc} (h : canon s) : canon (s.translateAt k j lvl vf acc).1 := by
  have hl := canon_leafAt (k := k) (j := j) h
  unfold State.translateAt
  split
  · exact h
  · split
    · next e => rw [e] at hl; exact hl
    · next e => rw [e] at hl; split <;> exact hl

theorem canon_readRow {v : Inv} {p : BitVec 6} (h : canon s) : canon (s.readRow v p).1 := by
  unfold State.readRow
  split
  · exact foldl_inv canon _ (fun _ _ ht => canon_corruptWord ht) _ _ h
  · exact h

theorem canon_cold (h : canon s) : canon s.cold := h

end Sys2Proof.Machine
end

