-- ==== Sys2Proof/Laws/Operands.lean ====
section
/-! SUPPORT. What an instruction whose operands are known goes through before its own effect: nothing. -/
namespace Sys2Proof.Machine
open Sys2Proof.Safety

variable {s : State} {sc : Sc} {r rd : Reg} {v : W64} {rs : List Reg} {stops : Bool}

theorem kx_of_holds (h : holds s r v) : s.hart.kx r = v := by rw [Hart.kx, h.1]; rfl

theorem holds_zero (h : s.hart.acqOn.all (fun q => decide (q.1 ≠ 0)) = true) : holds s 0 0 := ⟨rfl, .inl rfl, h⟩

theorem preface_none (h : calm s sc) : s.preface sc stops = none := by
  unfold State.preface
  rw [if_neg (fun e => by simp [h.2.1 e.1] at e), h.2.2.1, h.1, Bool.and_false]
  rfl

/-- Operands that hold values depend on no producer. -/
theorem depOf_zero (hr : ∀ r ∈ rs, ∃ v, holds s r v) : s.hart.depOf rs = 0 := by
  have key : ∀ l : List Reg, (∀ r ∈ l, ∃ v, holds s r v) →
      l.foldl (fun (m : BitVec 16) (r : Reg) => m ||| (if r = 0 then 0 else s.hart.xdep[r.toNat])) 0 = 0 := by
    intro l
    induction l with
    | nil => intro _; rfl
    | cons r l ih =>
      intro h
      obtain ⟨v, -, h0, -⟩ := h r List.mem_cons_self
      have e : (if r = 0 then 0 else s.hart.xdep[r.toNat]) = (0 : BitVec 16) := by
        rcases h0 with h0 | h0
        · rw [if_pos h0]
        · rw [h0.2, ite_self]
      rw [List.foldl_cons, e]
      exact ih (fun q hq => h q (List.mem_cons_of_mem _ hq))
  exact key rs hr

theorem acquireOn_self (h : ∀ r ∈ rs, s.hart.acqOn.all (fun q => decide (q.1 ≠ r.toNat)) = true) : s.acquireOn rs = s := by
  have e : s.hart.acqOn.filter (fun q => rs.any (fun r => decide (r.toNat = q.1))) = [] := by
    rw [List.filter_eq_nil_iff]
    intro q hq
    simp only [List.any_eq_true, decide_eq_true_eq, not_exists, not_and]
    intro r hr e
    have := List.all_eq_true.mp (h r hr) q hq
    simp [e] at this
  unfold State.acquireOn
  rw [e]
  rfl

/-- The operands are known: the instruction goes on with the state as it is. -/
theorem readyVal_go (hr : ∀ r ∈ rs, ∃ v, holds s r v) : s.readyVal rs = .go s () := by
  have hb : s.badReg rs = none := by
    rw [State.badReg, List.find?_eq_none]
    intro r hm
    obtain ⟨v, -, h0 | h0, -⟩ := hr r hm
    · simp [h0]
    · simp [h0.1]
  have hu : (rs.map s.hart.rx).any (fun x => decide (x = .unknown)) = false := by
    rw [List.any_eq_false]
    intro x hx
    obtain ⟨r, hm, rfl⟩ := List.mem_map.mp hx
    obtain ⟨v, h1, -⟩ := hr r hm
    simp [h1]
  have hk : (rs.map s.hart.rx).all XVal.isKnown = true := by
    rw [List.all_eq_true]
    intro x hx
    obtain ⟨r, hm, rfl⟩ := List.mem_map.mp hx
    obtain ⟨v, h1, -⟩ := hr r hm
    rw [h1]; rfl
  simp only [State.readyVal, hb, hu, hk, if_true, Bool.false_eq_true, if_false]
  rw [acquireOn_self (fun r hm => (hr r hm).elim (fun v hv => hv.2.2))]

/-- The operands are known and nothing delays the instruction: it goes on with the state as it is. -/
theorem ready_go (h : calm s sc) (hr : ∀ r ∈ rs, ∃ v, holds s r v) : s.ready sc stops rs = .go s () := by
  unfold State.ready State.readyRegs
  rw [preface_none h, depOf_zero hr, readyVal_go hr]
  simp

/-- The same for an instruction that only computes on registers. -/
theorem readyCalc_go (h : calm s sc) (hr : ∀ r ∈ rs, ∃ v, holds s r v) : s.readyCalc sc rs = .go s () := by
  unfold State.readyCalc
  rw [preface_none h]
  exact readyVal_go hr

/-- An instruction that computes `x[rd]` from known operands writes it and completes. -/
theorem calc_next {f : Hart → W64} (h : calm s sc) (hr : ∀ r ∈ rs, ∃ v, holds s r v) : s.calc sc rd rs f = .next (wrote s rd (f s.hart)) := by
  unfold State.calc
  rw [readyCalc_go h hr]
  show s.done rd (f s.hart) (s.hart.depOf rs) = _
  rw [depOf_zero hr]
  rfl

/-- What writing a register and completing leaves in the register file. -/
theorem wrote_rx (q : Reg) : (wrote s rd v).hart.rx q = if q = 0 then .known 0 else if q = rd then .known v else s.hart.rx q := by
  show ((s.hart.wx rd (.known v))).rx q = _
  exact Hart.rx_wx _ _ _ _ _

@[simp] theorem wrote_mem : (wrote s rd v).mem = s.mem := rfl

end Sys2Proof.Machine
end

