-- ==== Sys2Proof/Tests/Slice0.lean ====
section
/-! SUPPORT. Tests: words written out from the spec's encodings, single steps on small states, and for every statement with hypotheses
states and operands that meet them. -/
namespace Sys2Proof.Tests
open Sys2Proof Sys2Proof.Machine Sys2Proof.Safety Sys2Proof.Claims

set_option Elab.async false

/-! ## Small states -/

/-- The next state of an outcome. -/
def nextOf (o : Out) : Option State := match o with | .next t => some t | _ => none

/-- A value of the next state satisfies a test. -/
def after (o : Out) (p : State → Bool) : Bool := match o with | .next t => p t | _ => false

/-- A flow goes on. -/
def isGo {α : Type} (f : Flow α) : Bool := match f with | .go _ _ => true | _ => false

theorem go_of {α : Type} {f : Flow α} (h : isGo f = true) : ∃ t v, f = .go t v := by
  cases f with
  | go t v => exact ⟨t, v, rfl⟩
  | out o => exact absurd h (by simp [isGo])
  | skip t => exact absurd h (by simp [isGo])

/-- The context of the tests: block 0 is stack 0's Lantern SRAM, blocks 1 to 16 cluster 0's SRAM, blocks 32 to 95 translated memory at
IA 0, blocks 96 to 111 the register window of stack 0 with the device attribute; every access is allowed. -/
def ctxT : Ctx :=
  { live := true
    base := (((Vector.replicate 16 0#32).set 1 1).set 2 32).set 3 96
    lim := (((Vector.replicate 16 0#32).set 1 16).set 2 95).set 3 111
    off := (((Vector.replicate 16 0#36).set 0 0x800000000).set 1 0x900000000).set 3 0xA00000000
    ctl := ((((Vector.replicate 16 0#8).set 0 0x3F).set 1 0x3F).set 2 0x3F).set 3 0xFF }

/-- The registers of the tests: `x1` = 64, `x2` = 5, `x3` = 3, `x4` = 0x10000 (a scratchpad bank), `x8` = 0x90000 (a FIFO bank), `x6` and `x7` the least negative and −1. -/
def regsT : Vector XVal 32 :=
  (((((((Vector.replicate 32 (.known 0)).set 1 (.known 64)).set 2 (.known 5)).set 3 (.known 3)).set 4 (.known 0x10000)).set 8 (.known 0x90000)).set 6
    (.known 0x8000000000000000)).set 7 (.known 0xFFFFFFFFFFFFFFFF)

/-- A hart of core 3 at app. -/
def hartT : Hart := { place := 3, lamp := false, level := .app, ctxKey := 7, x := regsT, gen := 0, pc := 0x40 }

/-- The firmware runs and one hart is bound; bank 0 of cluster 0 is a scratchpad and bank 1 a FIFO of four records of 8 bytes. -/
def T : State :=
  { hart := hartT, ctxs := [(7, ctxT)], plat := { boot := 2 }, clus := [(0, { banks := [(0, { mode := 1 }), (1, { mode := 2 })] })]
    mem := [(keyLantern + 64, 0x11), (keyLantern + 65, 0x82), (keySram + 2 ^ 19 + 8, 8), (keySram + 2 ^ 19 + 10, 4)] }

/-- A lamplighter hart at mon. -/
def L : State := { T with hart := { hartT with place := 8192, lamp := true, level := .mon } }

/-- The tests' state with one general register set. -/
def setX (s : State) (r : Nat) (v : W64) : State := s.upd (fun h => { h with x := h.x.setIfInBounds r (.known v) })

/-- A page of 64 KiB at IA 0 in stacked DRAM, whose translation stack 0 has cached; `x9` is the VA of its byte 128. -/
def P : State :=
  { setX T 9 0x200080 with
    regions := [(0, 0x101)], stk := [(0, { tc := [{ ia := 0, size := 0, pte := 0x10001804F }] })] }

theorem calmP (sc : Sc) : calm P sc := ⟨rfl, fun _ => rfl, rfl, rfl⟩
theorem hold9 : holds P 9 0x200080 := ⟨rfl, .inr ⟨rfl, rfl⟩, rfl⟩
theorem calmT (sc : Sc) : calm T sc := ⟨rfl, fun _ => rfl, rfl, rfl⟩
theorem calmL (sc : Sc) : calm L sc := ⟨rfl, fun _ => rfl, rfl, rfl⟩
theorem hold1 : holds T 1 64 := ⟨rfl, .inr ⟨rfl, rfl⟩, rfl⟩
theorem hold2 : holds T 2 5 := ⟨rfl, .inr ⟨rfl, rfl⟩, rfl⟩
theorem hold3 : holds T 3 3 := ⟨rfl, .inr ⟨rfl, rfl⟩, rfl⟩
theorem hold4 : holds T 4 0x10000 := ⟨rfl, .inr ⟨rfl, rfl⟩, rfl⟩
theorem hold6 : holds T 6 0x8000000000000000 := ⟨rfl, .inr ⟨rfl, rfl⟩, rfl⟩
theorem hold7 : holds T 7 0xFFFFFFFFFFFFFFFF := ⟨rfl, .inr ⟨rfl, rfl⟩, rfl⟩
theorem hold8 : holds T 8 0x90000 := ⟨rfl, .inr ⟨rfl, rfl⟩, rfl⟩
theorem cleanT : memoryClean T := ⟨rfl, rfl, rfl, rfl, rfl⟩
/-! ## Words: one of every row, from the row's fixed bits and field positions (R244, R249 to R261); microwords (R262) -/

/-- Every word decodes to its instruction, and the instruction encodes to the word. -/
noncomputable def reads (l : List (IWord × Instr)) : Bool :=
  l.all (fun e => decide (decode e.1 = .ok e.2) && decide (encode e.2 = e.1) && wellFormed e.2)

/-- Rows ADD to SRLI. -/
theorem test_words_1 : reads [
    (0x00D2FC08, .add 2 31 5 13), (0x032D8C00, .sub 0 3 27 18), (0x0429B000, .mul 0 12 19 2), (0x06E18804, .mulh 1 2 3 14), (0x08340C0C, .mulhn 3 3 8 3),
    (0x0B3D880C, .div 3 2 27 19), (0x0D547C00, .divn 0 31 8 21), (0x0ED9CC00, .rem 0 19 19 13), (0x11212000, .remn 0 8 2 18), (0x12572804, .andR 1 10 14 5),
    (0x15254C00, .orR 0 19 10 18), (0x17399004, .xorR 1 4 19 19), (0x19223004, .sll 1 12 4 18), (0x1B414C00, .srl 0 19 2 20), (0x1D2B4004, .sra 1 16 22 18),
    (0x1EF5E40C, .slt 3 25 11 15), (0x2085300C, .sltn 3 12 10 8), (0x228CDC04, .minR 1 23 25 8), (0x25154C00, .maxR 0 19 10 17), (0x2785F40C, .minn 3 29 11 24),
    (0x283A280C, .maxn 3 10 20 3), (0x30074400, .clz 0 17 14), (0x3205E404, .ctz 1 25 11), (0x34087804, .popc 1 30 16), (0x361F880C, .sext 3 2 31 1),
    (0x382BAC08, .zext 2 11 23 2), (0x74DD4C1C, .addi 3 19 26 1869), (0xF1E1EC20, .andi 0 27 3 3870), (0xAA1BC038, .ori 2 16 23 2721), (0xB3AC0840, .xori 0 2 24 2874),
    (0xFE49D458, .slti 2 21 19 4068), (0x019BA86C, .slli 3 10 23 25), (0x05EF8468, .srli 2 1 31 30)] = true := by decide +kernel

/-- Rows SRAI to AMOMAX_32. -/
theorem test_words_2 : reads [
    (0x088A1868, .srai 2 6 20 8), (0x5623887C, .bfx 3 2 7 21 34), (0x562C1488, .bfi 2 5 24 21 34), (0x6415B494, .lui 1 13 51243), (0x2A970CAC, .auipc 3 3 21806),
    (0x8CA8B4BC, .jal 3 13 72017), (0xD1C2F4C8, .jalr 2 29 5 3356), (0x472E58DC, .beq 3 28 18 571), (0xE3661CDC, .bne 3 12 22 1811), (0x268FB0EC, .blt 3 31 8 310),
    (0x3A5364E0, .bge 0 6 5 476), (0xD500B8F4, .bltn 1 1 16 1703), (0x00A4CCF4, .bgen 1 9 10 9), (0x5F693904, .ld 1 14 18 95 6),
    (0xDDD2FD08, .ldScoped 2 31 5 6 1 1 5 5), (0x64D6A51C, .st 3 13 13 202 1), (0x16DA951C, .stScoped 3 21 13 2 1 1 1), (0x0EB2193C, .amoadd32 3 6 4 11 3 1 1),
    (0x0722CD50, .amoadd64 0 19 5 18 1 1 1), (0x0B43F170, .amoaddSy 0 28 7 20 2 1 1), (0x17065138, .amoand32 2 20 12 16 1 1 1), (0x16A8415C, .amoand64 3 16 16 10 1 1 1),
    (0x1F04E178, .amoandSy 2 24 9 16 3 1 1), (0x2B1FFD34, .amoor32 1 31 31 17 2 1 1), (0x2E3E5558, .amoor64 2 21 28 3 3 1 1), (0x2E8CB174, .amoorSy 1 12 25 8 3 1 1),
    (0x3BB46934, .amoxor32 1 26 8 27 2 1 1), (0x361C315C, .amoxor64 3 12 24 1 1 1 1), (0x3B4B9D78, .amoxorSy 2 7 23 20 2 1 1), (0x46440D38, .amomin32 2 3 8 4 1 1 1),
    (0x4F481D58, .amomin64 2 7 16 20 3 1 1), (0x4E3AE978, .amominSy 2 26 21 3 3 1 1), (0x5A6EC134, .amomax32 1 16 29 6 2 1 1)] = true := by decide +kernel

/-- Rows AMOMAX_64 to CSRR. -/
theorem test_words_3 : reads [
    (0x5786BD5C, .amomax64 3 15 13 24 1 1 1), (0x5B328574, .amomaxSy 1 1 5 19 2 1 1), (0x67291538, .amominn32 2 5 18 18 1 1 1),
    (0x67EC4550, .amominn64 0 17 24 30 1 1 1), (0x6A748574, .amominnSy 1 1 9 7 2 1 1), (0x77B74938, .amomaxn32 2 18 14 27 1 1 1),
    (0x7FB9D95C, .amomaxn64 3 22 19 27 3 1 1), (0x7A18C574, .amomaxnSy 1 17 17 1 2 1 1), (0x8F029934, .amoswap32 1 6 5 16 3 1 1),
    (0x8F18D958, .amoswap64 2 22 17 17 3 1 1), (0x8693A170, .amoswapSy 0 8 7 9 1 1 1), (0x97EEE530, .amocas32 0 25 29 30 1 1 1), (0x9EF4DD54, .amocas64 1 23 9 15 3 1 1),
    (0x97D97978, .amocasSy 2 30 18 29 1 1 1), (0xAAF6913C, .amofadd 3 4 13 15 2 1 1), (0x89638D8C, .fadd 3 3 7 22 2 1), (0x935BFD84, .fsub 1 31 23 21 2 2),
    (0x95F2F588, .fmul 2 29 5 31 2 2), (0x570EB580, .fdiv 0 13 29 16 1 2), (0x97175D94, .fma 1 23 14 17 2 11), (0x88061DAC, .fsqrt 3 7 12 2 1),
    (0xA3D585A8, .fcvtTo 2 1 11 2 4 29), (0xBD35B5A0, .fcvtFrom 0 13 11 2 7 19), (0x408D79B0, .fmin 0 30 26 8 1), (0x4224A5B0, .fmax 0 9 9 2 1),
    (0x85B2E5B8, .fcmpEq 2 25 5 27 2), (0x8722B5B8, .fcmpLt 2 13 5 18 2), (0x48248DB8, .fcmpLe 2 3 9 2 1), (0x4A91F5BC, .fsgn 3 29 3 9 1),
    (0x4C34E9B0, .fsgnN 0 26 9 3 1), (0x8E4E25B0, .fsgnX 0 9 28 4 2), (0x90092DB0, .fclass 0 11 18 2), (0x212051C8, .csrr 2 20 530)] = true := by decide +kernel

/-- Rows CSRW to VSRA. -/
theorem test_words_4 : reads [
    (0xB5B881D0, .csrw 0 17 2907), (0x1C1F85D4, .csrs 1 31 449), (0x0CF489D4, .csrc 1 9 207), (0x000001E4, .ecall 1), (0x020001E4, .ebreak 1), (0x040001E8, .eret 2),
    (0x060CC5E8, .wfe 2 17 25), (0x1006A9E4, .symq 1 10 13), (0x120881EC, .symwait 3 17), (0x200025E4, .snap 1 9), (0x2200E9E8, .snapq 2 26 1),
    (0x301089E8, .tsubmit 2 2 1 1), (0x320001E4, .tdone 1), (0x400F21EC, .lkline 3 8 30), (0x420B11EC, .ulkline 3 4 22), (0x612859EC, .vsetvl 3 22 16 18),
    (0x657545EC, .vsetdim 3 17 10 23 2), (0xAE05A1E4, .vsetvli 1 8 11 2 7), (0x000635F4, .qfetch 1 13 12), (0x0212EDF0, .swait 0 27 5 1),
    (0x05DC55F0, .dispatch 0 21 24 29), (0x02233A28, .vadd 2 14 6 2 1 2), (0x17745218, .vsub 2 20 8 23 3 1), (0x28931A1C, .vrsub 3 6 6 9 4 1),
    (0x3ABFB228, .vmul 2 12 31 11 5 2), (0x47DF8A14, .vmacc 1 2 31 29 3 1), (0x58B09A18, .vnmsac 2 6 1 11 4 1), (0x6558A61C, .vand 3 9 17 21 2 1),
    (0x73B48E10, .vor 0 3 9 27 1 1), (0x82D14E2C, .vxor 3 19 2 13 1 2), (0x9A345618, .vsll 2 21 8 3 5 1), (0xA985E61C, .vsrl 3 25 11 24 4 1),
    (0xB55A6218, .vsra 2 24 20 21 2 1)] = true := by decide +kernel

/-- Rows VMERGE to VFDIV_BF16. -/
theorem test_words_5 : reads [
    (0xCBABE21C, .vmerge 3 24 23 26 5 1), (0xDA0B6E10, .vmv 0 27 22 5 1), (0xEC510620, .vnsra 0 1 2 5 6 2), (0xF80DB610, .vaddCh 0 13 27 4 1),
    (0x89695640, .vmulh 0 21 18 22 1 4 4), (0x9C3D3E50, .vdiv 0 15 26 3 1 6 5), (0xAF0C6230, .vrem 0 24 24 16 1 7 3), (0xB59C2258, .vmin 2 8 24 25 1 2 5),
    (0xC8DE425C, .vmax 3 16 28 13 1 4 5), (0xD3416658, .vsadd 2 25 2 20 1 1 5), (0xEB54AE54, .vssub 1 11 9 21 1 5 5), (0xF6280654, .vclamp 1 1 16 2 1 3 5),
    (0x0963DE70, .vfadd 0 23 7 22 4 1), (0x1EF7BE78, .vfsub 2 15 15 15 7 1), (0x29E1AA74, .vfmul 1 10 3 30 4 1), (0x3BB1BE78, .vfdiv 2 15 3 27 5 1),
    (0x45E3B678, .vfma 2 13 7 30 2 1), (0x571C1670, .vfnma 0 5 24 17 3 1), (0x6B5DD274, .vfmin 1 20 27 21 5 1), (0x78865E70, .vfmax 0 23 12 8 4 1),
    (0x8813067C, .vfcmpEq 3 1 6 1 4 1), (0x985C0E7C, .vfcmpLt 3 3 24 5 4 1), (0xA7B20E7C, .vfcmpLe 3 3 4 27 3 1), (0xCE05E678, .vfaddCh 2 25 11 7 1),
    (0xB5E07E60, .vfsqrt 0 31 30 2), (0xB780F660, .vfrsqrt 0 29 24 3), (0xB8313268, .vfexp2 2 12 3 4), (0xB331F26C, .vflog2 3 28 19 1), (0xBEE27A68, .vfclass 2 30 14 7),
    (0x02917298, .vfaddBf16 2 28 2 9 1 1), (0x145F5698, .vfsubBf16 2 21 30 5 2 1), (0x2E75C69C, .vfmulBf16 3 17 11 7 7 1), (0x3FA0F69C, .vfdivBf16 3 29 1 26 7 1)] = true := by decide +kernel

/-- Rows VFMA_BF16 to VMXPACK. -/
theorem test_words_6 : reads [
    (0x4C21E294, .vfmaBf16 1 24 3 2 6 1), (0x5C5CD29C, .vfnmaBf16 3 20 25 5 6 1), (0x6BEF0A9C, .vfminBf16 3 2 30 30 5 1), (0x76B74294, .vfmaxBf16 1 16 14 11 3 1),
    (0x875C1A98, .vfcmpEqBf16 2 6 24 21 3 1), (0x9D280E94, .vfcmpLtBf16 1 3 16 18 6 1), (0xA26A8A90, .vfcmpLeBf16 0 2 21 6 1 1), (0xC8044A9C, .vfaddChBf16 3 18 8 4 1),
    (0xBA503A8C, .vfsqrtBf16 3 14 5 5), (0xB430A284, .vfrsqrtBf16 1 8 3 2), (0xB6314A88, .vfexp2Bf16 2 18 3 3), (0xBE91B284, .vflog2Bf16 1 12 9 7),
    (0xBC127684, .vfclassBf16 1 29 1 6), (0x4CE9B6AC, .vfcvt 3 13 14 6 19 4), (0x88B492C4, .vcmpEq 1 4 9 11 1 4), (0x9CCF96C8, .vcmpNe 2 5 31 12 1 6),
    (0xA9D486C4, .vcmpLt 1 1 9 29 1 4), (0xBEE79ACC, .vcmpLe 3 6 15 14 1 7), (0xCAE116C0, .vwadd 0 5 2 14 1 5), (0xD8D186CC, .vwmul 3 1 3 13 1 4),
    (0xE4026AC4, .vmaxCh 1 26 4 1 2), (0xFE0B46C4, .vminCh 1 17 22 1 7), (0x03990EDC, .vredsum 3 3 18 25 1), (0x1A82EAD0, .vredmax 0 26 5 8 5),
    (0x24ABD6D0, .vredmin 0 21 23 10 2), (0x3CEAC6D8, .vredmaxN 2 17 21 14 6), (0x4AA192D0, .vredminN 0 4 3 10 5), (0x5E84B6D4, .vfredsum 1 13 9 8 7),
    (0x68A906D0, .vfredmax 0 1 18 10 4), (0x7F55FED8, .vfredsumBf16 2 31 11 21 7), (0x8A88C2D4, .vfredmaxBf16 1 16 17 8 5), (0x6CEF86E4, .vmxunp 1 1 31 14 6 6),
    (0xCC708AE8, .vmxpack 2 2 1 7 4 6)] = true := by decide +kernel

/-- Rows VSLIDEUP to BARR. -/
theorem test_words_7 : reads [
    (0x0C848EFC, .vslideup 3 3 9 8 6), (0x18867AFC, .vslidedn 3 30 12 8 4), (0x2975DEF0, .vrgather 0 23 11 23 4), (0x30725AF8, .vcompress 2 22 4 7),
    (0x4C01EAF0, .viota 0 26 3 6), (0x58001EF0, .vid 0 7 4), (0x6E0CAAF4, .vbcast 1 10 25 7), (0x7687A2F4, .vext 1 8 15 8 3), (0x894F92F8, .vins 2 4 31 20 4),
    (0x90420AF4, .mand 1 2 4 4), (0xA04116F0, .mor 0 5 2 4), (0xB0508AF0, .mxor 0 2 1 5), (0xC00092F4, .mnot 1 4 1), (0xD0021AF0, .mpopc 0 6 4),
    (0xE00376FC, .mfirst 3 29 6), (0x24026308, .vld 2 24 4 1 2), (0xAD531F18, .vlds 2 7 6 21 5 6), (0x8F650B2C, .vldx 3 2 10 22 4 7), (0x5207AF38, .vst 2 11 15 2 1 1),
    (0x9AC1A740, .vsts 0 9 3 12 4 1 5), (0x73963754, .vstx 1 13 12 25 3 1 1), (0x46085F60, .vldm 0 23 16 2 3), (0x72159F6C, .vstm 3 7 11 3 1 1),
    (0x815D237C, .vsld 3 8 26 21 4), (0x08000380, .fence 0 4), (0x18000380, .fenceAcq 0 4), (0x22000380, .fenceRel 0 1), (0x34000388, .fenceSv 2 2),
    (0x4A000380, .fenceVs 0 5), (0x56000388, .fenceSe 2 3), (0x66000388, .fenceVe 2 3), (0x07848390, .binit 0 9 24 3), (0x1B80AB98, .barr 2 10 1 24 5)] = true := by decide +kernel

/-- Rows BARB to BKCFG. -/
theorem test_words_8 : reads [
    (0x228D8790, .barb 0 1 27 8 1), (0x38FFDF9C, .bwait 3 23 31 15 4), (0x49B77B98, .btest 2 30 14 27 4), (0x050F03A4, .cbinit 1 30 16 2),
    (0x178F6BA0, .cbpush 0 26 30 24 3), (0x26B453A4, .cbpop 1 20 8 11 3), (0x3BAD33AC, .cbwait 3 12 26 26 5), (0x40D3C7A0, .srcfg 0 17 7 13),
    (0x000723C4, .tshape 1 8 14), (0x182A97C0, .mldw 0 21 2 4 5), (0x200013C4, .mmaz 1 4), (0x3A9187C0, .msta 0 3 9 5 1), (0x404013C4, .mchk 1 4 4),
    (0x59700BCC, .mver 3 23 4 2), (0x600217C4, .mstat 1 5 4), (0x700A03CC, .mrel 3 20), (0x8F2C47C4, .mma 1 24 18 7 17), (0x9A9517C8, .mmaMx 2 10 9 5 5),
    (0x896727D8, .cpy 2 9 14 22 1 4), (0x96C31BD4, .cpy2 1 6 6 12 1 3), (0xA5632FD4, .cpyg 1 11 6 22 1 2), (0x300D57D4, .cpyx 1 21 26), (0x022557E0, .bkop 0 21 10 2 1),
    (0x11BEC3E0, .bklock 0 16 29 27), (0x21E7EFE4, .bkunlock 1 27 15 30), (0x380003E8, .bkfence 2 4), (0x432577E0, .bkcopy 0 29 10 18 1),
    (0x51BA1FE0, .wickload 0 7 20 27), (0x60C1FBE4, .bkcfg 1 30 3 12)] = true := by decide +kernel

theorem test_microwords : ([
    (0x0000, .uNop), (0x1878, .uAap 33 56), (0x201B, .uAp3 1 2 3), (0x3472, .uNot 17 50), (0x4CAB, .uShl 50 43), (0x5F41, .uShr 61 1), (0x6007, .uZr 7),
    (0x7029, .uOn 41), (0x8027, .uEcr 39), (0x9C28, .uCpyb 3 40), (0xA8DF, .uLoop 2 223), (0xB001, .uEnd 1), (0xCA25, .uPar 2 2 37), (0xD0B5, .uSig 181),
    (0xE344, .uWait 836), (0xF415, .uHalt 1045)] : List (Micro × Instr)).all (fun e => decide (decodeMicro e.1 = some e.2) && decide (encodeMicro e.2 = e.1)) = true := by
  decide +kernel

/-! ## Ill-formed terms (R246 step 5): a field at each kind of value its row does not allow -/

/-- None is well formed. -/
def refusedAll (l : List Instr) : Bool := l.all (fun i => !wellFormed i)

theorem test_illFormed_1 : refusedAll [
    .sext 3 2 31 3, .zext 2 11 23 3, .bfx 3 2 7 63 34, .bfi 2 5 24 63 34, .ld 1 14 18 95 7, .ldScoped 2 31 5 6 1 1 6 5, .ldScoped 2 31 5 6 1 1 5 7,
    .stScoped 3 21 13 2 1 6 1, .fadd 3 3 7 22 3 1, .fadd 3 3 7 22 2 5, .fadd 3 3 7 22 2 6, .fsub 1 31 23 21 3 2, .fsub 1 31 23 21 2 5, .fsub 1 31 23 21 2 6,
    .fmul 2 29 5 31 3 2, .fmul 2 29 5 31 2 5, .fmul 2 29 5 31 2 6, .fdiv 0 13 29 16 3 2, .fdiv 0 13 29 16 1 5, .fdiv 0 13 29 16 1 6, .fma 1 23 14 17 3 11,
    .fsqrt 3 7 12 3 1, .fsqrt 3 7 12 2 5, .fsqrt 3 7 12 2 6, .fcvtTo 2 1 11 3 4 29, .fcvtTo 2 1 11 2 5 29, .fcvtTo 2 1 11 2 6 29, .fcvtTo 2 1 11 2 4 3,
    .fcvtTo 2 1 11 2 4 2, .fcvtFrom 0 13 11 3 7 19, .fcvtFrom 0 13 11 2 5 19, .fcvtFrom 0 13 11 2 6 19, .fcvtFrom 0 13 11 2 7 3, .fcvtFrom 0 13 11 2 7 2,
    .fmin 0 30 26 8 3, .fmax 0 9 9 2 3, .fcmpEq 2 25 5 27 3, .fcmpLt 2 13 5 18 3, .fcmpLe 2 3 9 2 3, .fsgn 3 29 3 9 3, .fsgnN 0 26 9 3 3, .fsgnX 0 9 28 4 3,
    .fclass 0 11 18 3, .symq 1 10 16, .vsetdim 3 17 10 23 0, .vadd 2 14 6 2 1 3, .vsub 2 20 8 23 3 3, .vrsub 3 6 6 9 4 3, .vmul 2 12 31 11 5 3, .vmacc 1 2 31 29 3 3,
    .vnmsac 2 6 1 11 4 3, .vand 3 9 17 21 2 3, .vor 0 3 9 27 1 3, .vxor 3 19 2 13 1 3, .vsll 2 21 8 3 5 3, .vsrl 3 25 11 24 4 3, .vsra 2 24 20 21 2 3,
    .vmerge 3 24 23 26 0 1, .vmerge 3 24 23 26 5 3, .vmv 0 27 22 5 3] = true := by decide +kernel

theorem test_illFormed_2 : refusedAll [
    .vnsra 0 1 2 5 6 3, .vaddCh 0 13 27 4 3, .vmulh 0 21 18 22 1 4 0, .vmulh 0 21 18 22 1 4 1, .vmulh 0 21 18 22 1 4 2, .vmulh 0 21 18 22 1 4 6, .vmulh 0 21 18 22 1 4 7,
    .vdiv 0 15 26 3 1 6 2, .vrem 0 24 24 16 1 7 2, .vmin 2 8 24 25 1 2 2, .vmax 3 16 28 13 1 4 2, .vsadd 2 25 2 20 1 1 2, .vssub 1 11 9 21 1 5 2, .vclamp 1 1 16 2 1 3 2,
    .vfcmpEq 3 0 6 1 4 1, .vfcmpEq 3 8 6 1 4 1, .vfcmpLt 3 0 24 5 4 1, .vfcmpLt 3 8 24 5 4 1, .vfcmpLe 3 0 4 27 3 1, .vfcmpLe 3 8 4 27 3 1, .vfcmpEqBf16 2 0 24 21 3 1,
    .vfcmpEqBf16 2 8 24 21 3 1, .vfcmpLtBf16 1 0 16 18 6 1, .vfcmpLtBf16 1 8 16 18 6 1, .vfcmpLeBf16 0 0 21 6 1 1, .vfcmpLeBf16 0 8 21 6 1 1, .vfcvt 3 13 14 6 8 4,
    .vfcvt 3 13 14 6 19 8, .vfcvt 3 13 14 6 19 31, .vcmpEq 1 0 9 11 1 4, .vcmpEq 1 8 9 11 1 4, .vcmpNe 2 0 31 12 1 6, .vcmpNe 2 8 31 12 1 6, .vcmpLt 1 0 9 29 1 4,
    .vcmpLt 1 8 9 29 1 4, .vcmpLe 3 0 15 14 1 7, .vcmpLe 3 8 15 14 1 7, .vcompress 2 22 8 7, .viota 0 26 8 6, .mand 1 0 4 4, .mand 1 8 4 4, .mand 1 2 8 4, .mand 1 2 4 8,
    .mor 0 0 2 4, .mor 0 8 2 4, .mor 0 5 8 4, .mor 0 5 2 8, .mxor 0 0 1 5, .mxor 0 8 1 5, .mxor 0 2 8 5, .mxor 0 2 1 8, .mnot 1 0 1, .mnot 1 8 1, .mnot 1 4 8,
    .mpopc 0 6 8, .mfirst 3 29 8, .vld 2 24 4 6 2, .vlds 2 7 6 21 6 6, .vldx 3 2 10 22 6 7, .vst 2 11 15 6 1 1] = true := by decide +kernel

theorem test_illFormed_3 : refusedAll [
    .vsts 0 9 3 12 6 1 5, .vstx 1 13 12 25 6 1 1, .vldm 0 23 16 6 3, .vstm 3 7 11 6 1 1, .vsld 3 8 26 21 6, .fence 0 6, .fenceAcq 0 6, .fenceRel 0 6, .fenceSv 2 6,
    .fenceVs 0 6, .fenceSe 2 6, .fenceVe 2 6, .barr 2 10 1 24 6, .barb 0 1 27 8 6, .bwait 3 23 31 15 6, .btest 2 30 14 27 6, .cbpush 0 26 30 24 6, .cbpop 1 20 8 11 6,
    .cbwait 3 12 26 26 6, .mldw 0 21 2 4 0, .mldw 0 21 2 4 8, .mldw 0 21 2 4 19, .mmaz 1 8, .msta 0 3 9 5 8, .mchk 1 4 8, .mver 3 23 4 8, .mstat 1 5 8, .mma 1 24 18 7 0,
    .mma 1 24 18 7 8, .mma 1 24 18 7 19, .mmaMx 2 10 9 5 0, .mmaMx 2 10 9 5 8, .mmaMx 2 10 9 5 19, .cpy 2 9 0 22 1 4, .cpy 2 9 7 22 1 4, .cpy 2 9 14 0 1 4,
    .cpy 2 9 14 7 1 4, .cpy2 1 6 0 12 1 3, .cpy2 1 6 7 12 1 3, .cpy2 1 6 6 0 1 3, .cpy2 1 6 6 7 1 3, .cpy2 1 6 6 6 1 3, .cpyg 1 11 0 22 1 2, .cpyg 1 11 7 22 1 2,
    .cpyg 1 11 6 0 1 2, .cpyg 1 11 6 7 1 2, .bkop 0 21 0 2 1, .bkop 0 21 7 2 1, .bkfence 2 0, .bkfence 2 2, .bkcopy 0 29 0 18 1, .bkcopy 0 29 7 18 1,
    .bkcopy 0 29 10 0 1, .bkcopy 0 29 10 7 1] = true := by decide +kernel

/-! ## Single steps: the worked examples of `10_isa_scalar.md`, and values worked out by hand from the rule named -/

/-- What one instruction leaves in a register of a state. -/
noncomputable def leaves (s : State) (i : Instr) (r : Nat) (v : W64) : Bool :=
  after (exec i s) (fun t => decide (t.hart.rx r = .known v) && decide (t.hart.pc = 0x44))

/-- Worked examples 1 to 3: their words. -/
theorem test_workedWords : decode 0x26944910 = .ok (.stScoped 0 8 9 4 1 4 2) ∧ decode 0x98731550 = .ok (.amocas64 0 5 6 7 2 0 1) ∧
    decode 0x0D4315A0 = .ok (.fcvtFrom 0 5 6 0 1 0x14) := by decide +kernel

/-- Worked example 4 (R269). -/
theorem test_workedDivision : leaves (setX T 6 7) (.div 0 5 6 0) 5 0xFFFFFFFFFFFFFFFF = true ∧ leaves (setX T 6 7) (.rem 0 5 6 0) 5 7 = true := by decide +kernel

/-- Worked example 3 (R287, R289). -/
theorem test_workedConversion : after (exec (.fcvtFrom 0 5 6 0 1 0x14) (setX T 6 0xC0200000)) (fun t =>
    decide (t.hart.rx 5 = .known 0xFFFFFFFFFFFFFFFE) && decide (t.hart.fflags = 0x01)) = true := by decide +kernel

/-- Worked example 2 (R283): the AMO writes 0x20; again, with x5 back at 0x10, it finds 0x20 and writes nothing. -/
theorem test_workedCas : (let s := setX (setX (setX { T with mem := [(keyLantern + 128, 0x10)] } 5 0x10) 6 128) 7 0x20
    match nextOf (exec (.amocas64 0 5 6 7 0 0 1) s) with
    | none => false
    | some t => decide (t.hart.rx 5 = .known 0x10) && decide (t.mem = [(keyLantern + 128, 0x20)]) &&
      after (exec (.amocas64 0 5 6 7 0 0 1) (setX t 5 0x10)) (fun u => decide (u.hart.rx 5 = .known 0x20) && decide (u.mem = t.mem))) = true := by decide +kernel

/-- R268. -/
theorem test_integers : leaves T (.add 0 9 7 2) 9 4 = true ∧ leaves T (.mulh 0 9 6 6) 9 0x4000000000000000 = true ∧
    leaves T (.mulhn 0 9 7 7) 9 0xFFFFFFFFFFFFFFFE = true ∧ leaves T (.slt 0 9 6 2) 9 1 = true ∧ leaves T (.sltn 0 9 6 2) 9 0 = true ∧
    leaves T (.sra 0 9 6 1) 9 0x8000000000000000 = true ∧ leaves T (.sra 0 9 6 3) 9 0xF000000000000000 = true ∧ leaves T (.popc 0 9 7) 9 64 = true ∧
    leaves T (.clz 0 9 0) 9 64 = true ∧ leaves T (.ctz 0 9 6) 9 63 = true ∧ leaves (setX T 9 0x80) (.sext 0 9 9 0) 9 0xFFFFFFFFFFFFFF80 = true := by decide +kernel

/-- R270 to R272: an immediate is sign-extended; a field of 16 bits from bit 12; LUI shifts by 15. -/
theorem test_immediates : leaves T (.addi 0 9 2 0xFFF) 9 4 = true ∧ leaves (setX T 9 0xABCDEF0) (.bfx 0 9 9 12 15) 9 0xABCD = true ∧
    leaves T (.addi 0 0 2 1) 0 0 = true := by decide +kernel

/-- R275: a branch taken goes to its target, one not taken to the next instruction. -/
theorem test_branches : after (exec (.blt 0 6 2 3) T) (fun t => decide (t.hart.pc = 0x4C)) = true ∧ after (exec (.bltn 0 6 2 3) T) (fun t => decide (t.hart.pc = 0x44)) = true ∧
    after (exec (.jal 0 1 0x1FFFF) T) (fun t => decide (t.hart.pc = 0x3C) && decide (t.hart.rx 1 = .known 0x44)) = true := by decide +kernel

/-- R276, R277: a load of two bytes from Lantern SRAM, signed and unsigned. -/
theorem test_loads : (let s := { T with mem := [(keyLantern + 64, 0x34), (keyLantern + 65, 0x82)] }
    leaves s (.ld 0 9 1 0 5) 9 0xFFFFFFFFFFFF8234 ∧ leaves s (.ld 0 9 1 0 1) 9 0x8234) := by decide +kernel

/-! ## The hypotheses of the statements on scalar instructions -/

theorem test_IntegerRegisterForms : ∃ f, intForm (.div 0 31 6 7) = some (0, 31, 6, 7, f) ∧ calm T 0 ∧
    holds T 6 0x8000000000000000 ∧ holds T 7 0xFFFFFFFFFFFFFFFF := ⟨_, rfl, calmT _, hold6, hold7⟩

theorem test_IntegerImmediateForms : ∃ f, oneForm (.bfx 3 0 1 63 0) = some (3, 0, 1, f) ∧ calm T 3 ∧ holds T 1 64 :=
  ⟨_, rfl, calmT _, hold1⟩

theorem test_BitFieldAndUpperForms : calm T 0 ∧ holds T 2 5 ∧ holds T 1 64 ∧
    ∀ i : Fin 64, (0xA0#64).getLsbD i = if (5#6).toNat ≤ i.val ∧ i.val ≤ (5#6).toNat + (2#6).toNat then (5#64).getLsbD (i.val - (5#6).toNat)
      else (64#64).getLsbD i := ⟨calmT _, hold2, hold1, by decide⟩

theorem test_Jumps : calm T 0 ∧ holds T 2 5 := ⟨calmT _, hold2⟩

theorem test_Branches : ∃ p, branchForm (.bgen 0 1 2 0x400) = some (0, 1, 2, 0x400, p) ∧ calm T 0 ∧ holds T 1 64 ∧ holds T 2 5 :=
  ⟨_, rfl, calmT _, hold1, hold2⟩

theorem test_RegisterOnlyFrame : registerOnly (.symq 0 31 15) = some 31 ∧ T.inAhead = false ∧ ∃ t, exec (.symq 0 31 15) T = .next t :=
  ⟨rfl, rfl, _, rfl⟩

theorem test_DivisionCorners_zero : calm T 0 ∧ holds T 1 64 ∧ holds T 0 0 := ⟨calmT _, hold1, rfl, .inl rfl, rfl⟩
theorem test_DivisionCorners_least : calm T 0 ∧ holds T 6 0x8000000000000000 ∧ holds T 7 0xFFFFFFFFFFFFFFFF ∧
    (0x8000000000000000#64).toInt = -2 ^ 63 ∧ (0xFFFFFFFFFFFFFFFF#64).toInt = -1 := ⟨calmT _, hold6, hold7, by decide, by decide⟩

theorem test_ScalarFpPairs : ∃ ok g, fpForm (.fadd 0 5 1 2 0 4) = some (0, 5, 1, 2, ok, g) ∧ calm T 0 ∧ holds T 1 64 ∧ holds T 2 5 ∧
    ok T.hart = true := ⟨_, _, rfl, calmT _, hold1, hold2, rfl⟩

theorem test_ScalarFpOthers : calm T 0 ∧ holds T 1 64 ∧ holds T 2 5 ∧ holds T 3 3 ∧ modeOk T.hart.frm = true ∧ modeOk (T.hart.mode 4) = true :=
  ⟨calmT _, hold1, hold2, hold3, rfl, rfl⟩

theorem test_IllegalRounding : (T.upd (fun h => { h with frm := 6 })).inAhead = false ∧
    (T.upd (fun h => { h with frm := 6 })).isLate = false ∧ modeOk ((T.upd (fun h => { h with frm := 6 })).hart.mode 7) = false := ⟨rfl, rfl, rfl⟩

theorem test_Loads : calm T 0 ∧ holds T 1 64 ∧ (∃ t v, T.loadVal (64 + scaledBy (0#8) (widthOf 3)) (widthOf 3) 0 = .go t v) ∧
    (∃ t v, T.loadVal (64 + scaledBy (7#3) (widthOf 5)) (widthOf 5) (5#3).toNat = .go t v) :=
  ⟨calmT _, hold1, go_of (by decide), go_of (by decide)⟩

theorem test_Stores : calm T 0 ∧ holds T 4 0x10000 ∧ holds T 2 5 ∧
    (∃ u v, T.storeBytes (0x10000 + scaledBy (255#9) (2 ^ (3#2).toNat)) (bytesLE (2 ^ (3#2).toNat) 5) 0 = .go u v) ∧
    (∃ t v, T.releaseFor (1#1 = 1#1) (5#3).toNat = .go t v) ∧
    isGo (match T.releaseFor true (4#3).toNat with
      | .go t _ => t.storeBytes (0x10000 + scaledBy (16#5) (2 ^ (0#2).toNat)) (bytesLE (2 ^ (0#2).toNat) 5) 4
      | _ => .skip T) = true :=
  ⟨calmT _, hold4, hold2, go_of (by decide), go_of (by decide), by decide⟩

theorem test_AtomicOperations : amoForm (.amocas64 0 3 1 2 3 1 1) = some (9, 8, 0, 3, 1, 2, 3, 1, 1) ∧ calm T 0 ∧ holds T 1 64 ∧ holds T 2 5 ∧
    holds T 3 3 ∧ isGo (match T.releaseFor true 5 with
      | .go t _ => t.rmw 64 8 5 (amoStep 9 8 5 3)
      | _ => .skip T) = true :=
  ⟨rfl, calmT _, hold1, hold2, hold3, by decide⟩

theorem test_AtomicFloatAdd : calm T 0 ∧ holds T 1 64 ∧ holds T 2 5 ∧ isGo (T.releaseFor false 2) = true ∧
    (match T.rmw 64 4 2 (fun o => ((fp32.add 0 (o % 2 ^ 32) 5).1, true)) with | .go u _ => !u.inAhead && !u.isLate | _ => false) = true :=
  ⟨calmT _, hold1, hold2, by decide, by decide⟩

theorem test_SymbolicProducers_load : calm T 0 ∧ holds T 1 64 ∧ (31 : Reg) ≠ 0 ∧ T.hart.openSlot = some 0 ∧
    T.symHold (64 + scaledBy (0#3) (widthOf 3)) (widthOf 3) .read = false := ⟨calmT _, hold1, by decide, by decide, by decide⟩

theorem test_SymbolicProducers_amo : symForm (.amocasSy 0 3 1 2 3 0 0) = some (9, 0, 3, 1, 2, 3, 0, 0) ∧ calm T 0 ∧ holds T 1 64 ∧
    holds T 2 5 ∧ holds T 3 3 ∧ isGo (T.releaseFor false 5) = true ∧ T.symHold 64 8 .both = false :=
  ⟨rfl, calmT _, hold1, hold2, hold3, by decide, by decide⟩

theorem test_CsrInstructions : calm T 0 ∧ T.csrGet (0x00A#12).toNat = some 0 ∧ csrLevel (0x00A#12).toNat T.hart.level = true ∧
    (csrWaits (0x00A#12).toNat = true → T.hart.vq = []) ∧ T.hart.csrUnknown (0x00A#12).toNat = false ∧ holds T 1 64 ∧
    (0x00A#12).toNat / 1024 ≠ 1 := ⟨calmT _, by decide, by decide, fun _ => rfl, by decide, hold1, by decide⟩

theorem test_CsrRefused : T.inAhead = false ∧ T.isLate = false ∧ csrLevel (0x800#12).toNat T.hart.level = false ∧ T.csrGet (0x003#12).toNat = none ∧
    (0x7FF#12).toNat / 1024 = 1 := by decide

theorem test_Returns_sup : calm L 0 ∧ L.hart.level ≠ .app ∧ levelOf (L.hart.bank L.hart.level).ppl = some .app ∧ L.hart.level.ge .app = true ∧
    (∀ k : Nat, ∀ q : Producer, L.hart.slot k ≠ .pending q 0) ∧
    ∀ (k c : Nat) (q : Producer), L.hart.slot k ≠ .held c q (some L.hart.depth) := by
  have h : ∀ k, L.hart.slot k = .free := by
    intro k
    by_cases hk : k < 16
    · interval_cases k <;> rfl
    · show ((Vector.replicate 16 Slot.free)[k]?).getD .free = _
      rw [Vector.getElem?_eq_none (by omega)]; rfl
  exact ⟨calmL _, by decide, by decide, by decide, fun k q => by rw [h]; simp, fun k c q => by rw [h]; simp⟩

theorem test_Returns_app : T.inAhead = false ∧ T.isLate = false ∧ T.hart.level = .app := by decide

theorem test_Fences : calm T 0 ∧ T.symPending = false ∧ (T.release T.me (5#3).toNat).2 = true ∧ T.hart.vq = [] ∧
    (T.release { T.me with vec := true } (5#3).toNat).2 = true := ⟨calmT _, by decide, by decide, rfl, by decide⟩

/-- A symbolic load of `x9` is still to be bound, in slot 0. -/
def TS : State := { T with hart := { hartT with
  x := hartT.x.set 9 (.form 0 1 0)
  sym := hartT.sym.set 0 (.pending { va := 64, width := 3, sext := false, acq := false, rel := false, scope := 0, amo := 0, opnd := 0, cmp := 0 } 20) } }

theorem test_Fences_pending : calm TS 0 ∧ TS.symPending = true ∧ TS.hart.vq.length < 16 := ⟨⟨rfl, fun h => absurd h (by decide), rfl, rfl⟩, rfl, by decide⟩

theorem test_SymbolsAndEvents : calm T 0 ∧ holds T 0 0 ∧ holds T 1 64 ∧ T.symPending = false ∧
    (T.upd (fun h => { h with latch := true })).hart.latch = true ∧ T.hart.latch = false ∧ (64 : W64) ≠ 0 :=
  ⟨calmT _, ⟨rfl, .inl rfl, rfl⟩, hold1, by decide, rfl, rfl, by decide⟩

theorem test_Snapshots_snap : calm L 0 ∧ L.hart.level ≠ .app ∧ L.hart.vq = [] ∧ L.symPending = false ∧ (L.releaseBoth L.me 4).2 = true ∧
    (L.releaseBoth L.me 4).1.fenced (L.releaseBoth L.me 4).1.sequencer = false := ⟨calmL _, by decide, rfl, by decide, by decide, by decide⟩

theorem test_Snapshots_snapq : calm T 0 ∧ holds T 2 ((5#32).setWidth 64) ∧
    (∀ q ∈ [T.gens.slot0, T.gens.slot1], q.g = 5 → q.state = 0) := ⟨calmT _, hold2, by decide⟩

theorem test_Snapshots_slot : (fun s : State => calm s 0 ∧ holds s 2 (s.gens.slot0.g.setWidth 64) ∧ s.gens.slot0.state ≠ 0)
    { T with gens := { T.gens with slot0 := { T.gens.slot0 with g := 5, state := 1 } } } :=
  ⟨⟨rfl, fun _ => rfl, rfl, rfl⟩, ⟨rfl, .inr ⟨rfl, rfl⟩, rfl⟩, by decide⟩

/-- Whether a line may be locked. -/
def lockable (f : Flow (Option (Nat × Piece))) : Option Bool := match f with | .go _ p => some p.isSome | _ => none

theorem test_LineLocks_window : calm T 0 ∧ holds T 1 64 ∧ lockable (T.lockPiece 64) = some false := ⟨calmT _, hold1, by decide⟩


theorem test_LineLocks_line : calm P 0 ∧ holds P 9 0x200080 ∧ lockable (P.lockPiece 0x200080) = some true ∧
    (match P.lockPiece 0x200080 with | .go t (some (c, p)) => (t.lockLine c p).2.isSome | _ => false) = true :=
  ⟨calmP _, hold9, by decide, by decide⟩

/-- The line of `x9`, locked by the test's context in the cache of cluster 0. -/
def K : State :=
  P.setClu 0 { P.getClu 0 with lines := [{ line := 1, data := 0, valid := 0, dirty := 0, gen := 0, bank := 2, lock := some 7 }] }

theorem test_LineLocks_locked :
    (match K.lockPiece 0x200080 with
      | .go t (some (c, p)) => !(t.getClu c).leaving (p.ia / 128) && decide ((((t.getClu c).lineOf (p.ia / 128)).bind (·.lock)) = some t.hart.ctxKey)
      | _ => false) = true := by decide

theorem test_Submissions : calm T 0 ∧ holds T 1 64 ∧ holds T 0 0 ∧ (0#64).toNat % 65536 = 0 ∧ 256 < (0x101#64).toNat % 65536 ∧
    0 < (256#64).toNat % 65536 ∧ (256#64).toNat % 65536 ≤ 256 ∧ (64#64).toNat % 128 ≠ 0 :=
  ⟨calmT _, hold1, ⟨rfl, .inl rfl, rfl⟩, by decide, by decide, by decide, by decide, by decide⟩

theorem test_Submissions_read :
    (match T.submitExtent 128 128 with
      | .go t _ => decide (t.hart.vq = []) && !t.symPending && (match t.releaseBoth t.me 4 with
        | (u, true) => (match u.readDescs (engineWho (8192 + 4 * stackOf u.hart.place) (stackOf u.hart.place) u.hart.level u.hart.vfid.toNat
              u.hart.ctxKey) u.myCtx 128 1 with
          | (_, some l) => decide (l.length = 1)
          | _ => false)
        | _ => false)
      | _ => false) = true := by decide

theorem test_NodeEnd_app : calm T 0 ∧ T.hart.lamp = false ∧ T.owed = false ∧ (T.releaseBoth T.me 4).2 = true ∧
    (∀ n, (T.releaseBoth T.me 4).1.hart.node.bind (T.releaseBoth T.me 4).1.nodeAt = some n → n.k 3 = 0) :=
  ⟨calmT _, rfl, by decide, by decide, fun n h => by
    rw [show (T.releaseBoth T.me 4).1.hart.node.bind (T.releaseBoth T.me 4).1.nodeAt = none by decide] at h; exact absurd h (by simp)⟩

theorem test_NodeEnd_lamp : L.inAhead = false ∧ L.isLate = false ∧ L.hart.lamp = true := by decide

theorem test_LamplighterInstructions : calm L 0 ∧ L.hart.lamp = true ∧ holds L 1 64 ∧ holds L 0 0 ∧
    ((L.setStk 0 { L.getStk 0 with inbox := [1] }).swaitTest 2).2 ≠ 0 ∧ (L.swaitTest 0).2 = 0 ∧ (64#64).toNat % 128 ≠ 0 :=
  ⟨calmL _, rfl, ⟨rfl, .inr ⟨rfl, rfl⟩, rfl⟩, ⟨rfl, .inl rfl, rfl⟩, by decide, by decide, by decide⟩

theorem test_LamplighterInstructions_app : T.inAhead = false ∧ T.isLate = false ∧ T.hart.lamp = false := by decide

/-- A descriptor at VA 128 whose affinity names stack 0. -/
def LD : State := { L with mem := T.mem.take 2 ++ (keyLantern + 130, 1) :: T.mem.drop 2 }

theorem test_LamplighterInstructions_dispatch :
    (match LD.loadVal 128 128 4 with
      | .go t v => match t.dispatchNode (stackOf LD.hart.place) (descWords v) with
        | (u, some n) => decide (u.grantCheck (some n.id) (stackOf LD.hart.place) 16 = 0) &&
          (match u.loadImage n (u.nodeHart n 16) with | (_, .hart h) => decide (h.place = 16) | _ => false)
        | _ => false
      | _ => false) = true := by decide +kernel

/-! ## The hypotheses of the statements on vector instructions -/

/-- A vector type: SEW 2 ^ (w + 1), LMUL by its code, length 4. -/
def vec (s : State) (w l : BitVec 3) : State := s.upd (fun h => { h with vill := false, vsew := w, vlmul := l, vl := 4 })

theorem vec_vreg (w l : BitVec 3) (r : Nat) : (vec T w l).hart.vreg r = {} := by
  show ((Vector.replicate 32 ({} : VReg))[r]?).getD {} = {}
  by_cases h : r < 32
  · rw [Vector.getElem?_eq_getElem h]; simp
  · rw [Vector.getElem?_eq_none (by omega)]; rfl

theorem vec_psn (w l : BitVec 3) (r k i : Nat) : (vec T w l).hart.velPsn r k i = false := by
  simp only [Hart.velPsn, vec_vreg]; simp

theorem vec_clean (w l : BitVec 3) (e : List (Nat × Nat × Nat)) : poisonAt (vec T w l).hart e = none := by
  simp [poisonAt, vec_psn]

theorem vec_ready (w l : BitVec 3) (sc : Sc) (xs : List Reg) (vs ds : List Nat) (hw : w.toNat ≤ 5) (hl : 4 ≤ (vec T w l).hart.vlmax)
    (hx : ∀ r ∈ xs, ∃ v, holds T r v) : vectorReady (vec T w l) sc xs vs ds :=
  ⟨⟨rfl, fun _ => rfl, rfl, rfl⟩, ⟨.inl rfl, hw, hl, rfl, rfl, rfl, rfl, by show (0 : Nat) < 16; decide⟩,
    fun r hr => hx r hr, fun _ _ => rfl, fun r _ => by rw [vec_vreg]; exact ⟨rfl, rfl, rfl⟩⟩

theorem noX : ∀ r ∈ ([] : List Reg), ∃ v, holds T r v := by simp
theorem x1 : ∀ r ∈ ([1] : List Reg), ∃ v, holds T r v := by simpa using ⟨64, hold1⟩
theorem x12 : ∀ r ∈ ([1, 2] : List Reg), ∃ v, holds T r v := by simpa using ⟨⟨64, hold1⟩, ⟨5, hold2⟩⟩

theorem test_VectorIntegerRows : ∃ q, intRow (.vadd 0 8 1 4 0 1) = some q ∧ (q.lane (vec T 2 0).hart).legal = true ∧
    vectorReady (vec T 2 0) q.sc q.a.xs (q.lane (vec T 2 0).hart).vs (groupRegs q.rd (vec T 2 0).hart.lm8) ∧
    (q.lane (vec T 2 0).hart).clean (vec T 2 0).hart :=
  ⟨_, rfl, by decide, vec_ready _ _ _ _ _ _ (by decide) (by decide) x1, fun _ _ => vec_clean _ _ _⟩

theorem test_VectorMixedWidthRows : ∃ L, wideLane (vec T 2 0).hart (.vwmul 0 8 2 4 0 0) = some L ∧ L.legal = true ∧
    vectorReady (vec T 2 0) L.sc L.xs L.vs (groupRegs L.d L.e8) ∧ L.clean (vec T 2 0).hart :=
  ⟨_, rfl, by decide, vec_ready _ _ _ _ _ _ (by decide) (by decide) noX, fun _ _ => vec_clean _ _ _⟩

theorem test_VectorFpRows : ∃ q, fpRow (.vfadd 0 8 1 4 0 1) = some q ∧ (q.lane (vec T 4 0).hart).legal = true ∧
    vectorReady (vec T 4 0) q.sc q.a.xs (q.lane (vec T 4 0).hart).vs (groupRegs q.rd (vec T 4 0).hart.lm8) ∧
    (q.lane (vec T 4 0).hart).clean (vec T 4 0).hart :=
  ⟨_, rfl, by decide, vec_ready _ _ _ _ _ _ (by decide) (by decide) x1, fun _ _ => vec_clean _ _ _⟩

theorem test_VectorPermutes : ∃ L, permLane (vec T 2 0).hart (.vslideup 0 8 1 4 0) = some L ∧ L.legal = true ∧
    vectorReady (vec T 2 0) L.sc L.xs L.vs (groupRegs L.d L.e8) ∧ L.clean (vec T 2 0).hart :=
  ⟨_, rfl, by decide, vec_ready _ _ _ _ _ _ (by decide) (by decide) x1, fun _ _ => vec_clean _ _ _⟩

theorem test_VectorIllegal : ∃ L, laneOf T.hart (.vid 0 3 0) = some L ∧ calm T L.sc ∧ T.hart.cUnk = 0 ∧ T.hart.vill = true :=
  ⟨_, rfl, calmT _, rfl, rfl⟩

theorem test_VectorIllegal_group : ∃ L, laneOf (vec T 2 1).hart (.vid 0 3 0) = some L ∧ calm (vec T 2 1) L.sc ∧ L.legal = false :=
  ⟨_, rfl, ⟨rfl, fun _ => rfl, rfl, rfl⟩, by decide⟩

/-- Element 2 of `v4` is poisoned. -/
def VP : State := (vec T 2 0).upd (fun h => h.poisonEl 4 8 2)

theorem VP_vreg (r : Nat) : (VP.hart.vreg r).unk = false ∧ (VP.hart.vreg r).sy = none ∧ (VP.hart.vreg r).sypsn = none := by
  by_cases h : r < 32
  · interval_cases r <;> decide
  · have : VP.hart.vreg r = {} := by
      show (VP.hart.v[r]?).getD {} = {}
      rw [Vector.getElem?_eq_none (by omega)]; rfl
    rw [this]; exact ⟨rfl, rfl, rfl⟩

theorem test_VectorPoisonStop : ∃ L, laneOf VP.hart (.vadd 0 8 2 4 0 0) = some L ∧ L.legal = true ∧
    vectorReady VP L.sc L.xs L.vs (groupRegs L.d L.e8) ∧ L.on VP.hart 2 = true ∧
    (∀ j < 2, L.on VP.hart j = true → poisonAt VP.hart (L.reads j) = none) ∧ poisonAt VP.hart (L.reads 2) = some (4, 2) :=
  ⟨_, rfl, by decide, ⟨⟨rfl, fun _ => rfl, rfl, rfl⟩, ⟨.inl rfl, by decide, by decide, rfl, rfl, rfl, rfl, by decide⟩, by simp [VA.xs, vaForm, VRow.lane],
    fun _ _ => rfl, fun r _ => VP_vreg r⟩, by decide, by decide +kernel, by decide +kernel⟩

theorem test_VectorConfiguration : calm T 0 ∧ T.hart.cUnk = 0 ∧ holds T 1 64 ∧ holds T 2 5 := ⟨calmT _, rfl, hold1, hold2⟩

theorem test_VectorDimensions : calm T 0 ∧ holds T 1 64 ∧ holds T 2 5 ∧ (3#2).toNat = (2 : Fin 3).val + 1 := ⟨calmT _, hold1, hold2, rfl⟩

theorem test_VectorMaskResults : ∃ B, bitsOf (vec T 2 0).hart (.vcmpLt 0 3 2 4 1 0) = some B ∧ B.legal = true ∧
    vectorReady (vec T 2 0) B.sc B.xs B.vs [] ∧
    (∀ k, (vec T 2 0).hart.vstart.toNat ≤ k → k < (vec T 2 0).hart.vl → B.takes k = true → poisonAt (vec T 2 0).hart (B.reads k) = none) :=
  ⟨_, rfl, by decide, vec_ready _ _ _ _ _ _ (by decide) (by decide) noX, fun _ _ _ _ => vec_clean _ _ _⟩

theorem test_VectorChains : ∃ C, chainOf (vec T 2 0).hart (.vaddCh 0 8 1 0 1) = some C ∧ C.legal = true ∧
    vectorReady (vec T 2 0) C.sc C.a.xs (C.a.regs (vec T 2 0).hart.lm8 ++ groupRegs C.rd (vec T 2 0).hart.lm8)
      (groupRegs C.rd (vec T 2 0).hart.lm8) ∧
    (∀ r : Nat, ((vec T 2 0).hart.vreg r).psn = 0) ∧ segmentStart (vec T 2 0).hart 0 ∧ ¬ segmentStart (vec T 2 0).hart 1 :=
  ⟨_, rfl, by decide, vec_ready _ _ _ _ _ _ (by decide) (by decide) x1, fun r => by rw [vec_vreg], by
    constructor; rfl, by unfold segmentStart; decide⟩

theorem test_VectorReductions : ∃ R, reductionOf (vec T 4 0).hart (.vfredsum 0 8 2 4 0) = some R ∧
    vectorReady (vec T 4 0) R.sc [] (R.r1.toNat :: groupRegs R.r2 (vec T 4 0).hart.lm8) [R.rd.toNat] ∧ R.typed = true ∧
    groupOk R.r2 (vec T 4 0).hart.lm8 = true ∧ (vec T 4 0).hart.vstart = 0 ∧ (∀ r : Nat, ((vec T 4 0).hart.vreg r).psn = 0) ∧
    (vec T 4 0).hart.vl ≠ 0 :=
  ⟨_, rfl, vec_ready _ _ _ _ _ _ (by decide) (by decide) noX, by decide, by decide, rfl, fun r => by rw [vec_vreg], by decide⟩

theorem test_VectorReductions_empty : ∃ R, reductionOf (vec T 4 0).hart (.vredmax 0 8 2 4 0) = some R ∧
    (let s := (vec T 4 0).upd (fun h => { h with vl := 0 }); s.hart.vl = 0 ∧ s.hart.vstart = 0) :=
  ⟨_, rfl, rfl, rfl⟩

theorem test_VectorReductions_restart : ∃ R, reductionOf ((vec T 4 0).upd (fun h => { h with vstart := 1 })).hart (.vredsum 0 8 2 4 0) = some R ∧
    (let s := (vec T 4 0).upd (fun h => { h with vstart := 1 }); s.hart.cUnk = 0 ∧ calm s R.sc ∧ s.hart.vstart ≠ 0) :=
  ⟨_, rfl, rfl, ⟨rfl, fun _ => rfl, rfl, rfl⟩, by decide⟩

theorem test_VectorScalarMoves : groupOk 4 (vec T 2 0).hart.lm8 = true ∧ vectorReady (vec T 2 0) 0 [2] (groupRegs 4 (vec T 2 0).hart.lm8) [] ∧
    holds (vec T 2 0) 2 5 ∧ (5#64).toNat < (vec T 2 0).hart.vlmax ∧ (vec T 2 0).hart.velPsn 4 8 5 = false ∧
    vectorReady (vec T 2 0) 0 [1, 2] [] (groupRegs 4 (vec T 2 0).hart.lm8) ∧ (vec T 2 0).hart.active 0 5 = true ∧
    vectorReady (vec T 2 0) 0 [] [] [] ∧ (vec T 2 0).hart.vdep = 0 :=
  have x2 : ∀ r ∈ ([2] : List Reg), ∃ v, holds T r v := by simpa using ⟨5, hold2⟩
  ⟨by decide, vec_ready _ _ _ _ _ _ (by decide) (by decide) x2, hold2, by decide, vec_psn _ _ _ _ _,
    vec_ready _ _ _ _ _ _ (by decide) (by decide) x12, by decide, vec_ready _ _ _ _ _ _ (by decide) (by decide) noX, rfl⟩

theorem test_VectorScalarMoves_past : (vec T 2 0).hart.vlmax ≤ 128 ∧ (vec T 2 0).hart.active 1 5 = false ∧
    holds (setX (vec T 2 0) 10 128) 10 128 := ⟨by decide, by decide +kernel, rfl, .inr ⟨rfl, rfl⟩, rfl⟩

/-- FP32 under error-feedback rounding. -/
def VE : State := (vec T 4 0).upd (fun h => { h with frm := 5 })

theorem test_VectorConversions : (let s := vec T 4 0
    let L := convertLane s.hart 0 8 4 0 0 1
    L.legal = true ∧ vectorReady s 0 [] L.vs (groupRegs 8 L.e8) ∧ L.clean s.hart ∧ s.hart.frm ≠ 5) :=
  ⟨by decide, vec_ready _ _ _ _ _ _ (by decide) (by decide) noX, fun _ _ => vec_clean _ _ _, by decide⟩

theorem test_VectorConversions_feedback : (let s := VE
    let L := convertLane s.hart 0 8 4 0 0 1
    L.legal = true ∧ vectorReady s 0 [] L.vs (groupRegs 8 L.e8) ∧ L.clean s.hart ∧ s.hart.frm = 5 ∧ efbPair 0 1 = true) :=
  have r : vectorReady (vec T 4 0) 0 [] (convertLane VE.hart 0 8 4 0 0 1).vs (groupRegs 8 (convertLane VE.hart 0 8 4 0 0 1).e8) :=
    vec_ready _ _ _ _ _ _ (by decide) (by decide) noX
  ⟨by decide, ⟨r.1, r.2.1, r.2.2.1, fun _ _ => rfl, r.2.2.2.2⟩, fun i _ => vec_clean 4 0 _, by decide, by decide⟩

theorem test_VectorMxPacking_unpack : (let s := vec T 4 0
    let L := unpackLane s.hart 0 8 2 4 0 0
    L.legal = true ∧ vectorReady s 0 [] L.vs (groupRegs 8 L.e8) ∧ L.clean s.hart) :=
  ⟨by decide, vec_ready _ _ _ _ _ _ (by decide) (by decide) noX, fun _ _ => vec_clean _ _ _⟩

theorem test_VectorMxPacking_pack : (let s := vec T 4 0
    let h := s.hart
    let en := h.em8 (mxSize 0)
    (mxWide h.sew).isSome = true ∧ modeOk h.frm = true ∧ groupOk 4 h.lm8 = true ∧ groupOk 8 en = true ∧
     groupsMeet 8 en 4 h.lm8 = false ∧ groupsMeet 8 en 2 8 = false ∧ groupsMeet 2 8 4 h.lm8 = false ∧
     vectorReady s 0 [] (groupRegs 4 h.lm8) ((2 : Reg).toNat :: groupRegs 8 en) ∧ (∀ k : Nat, (h.vreg k).psn = 0)) :=
  ⟨by decide, by decide, by decide, by decide, by decide, by decide, by decide,
    vec_ready _ _ _ _ _ _ (by decide) (by decide) noX, fun r => by rw [vec_vreg]⟩

/-! ## Memory behind a window, vector memory, barriers and buffers -/

theorem test_OnChipMemory_load : calm T 0 ∧ memoryClean T ∧ holds T 1 64 ∧
    reaches T (64 + scaledBy (0#8) (widthOf 3)) (widthOf 3) .read .load (2 ^ 45 + 64) :=
  ⟨calmT _, cleanT, hold1, 0x8000000000040, 0, .lantern 0 64, by decide +kernel, by decide +kernel, by decide +kernel, by decide +kernel⟩

theorem test_OnChipMemory_store : calm T 0 ∧ memoryClean T ∧ holds T 4 0x10000 ∧ holds T 2 5 ∧
    reaches T (0x10000 + scaledBy (255#9) (2 ^ (3#2).toNat)) (2 ^ (3#2).toNat) .write .store (2 ^ 46 + 2040) :=
  ⟨calmT _, cleanT, hold4, hold2, 0x90000000007f8, 0, .sram 0 2040, by decide +kernel, by decide +kernel, by decide +kernel, by decide +kernel⟩

theorem test_OnChipMemory_amo : calm T 0 ∧ memoryClean T ∧ holds T 1 64 ∧ holds T 2 5 ∧ holds T 3 3 ∧
    amoForm (.amocas64 0 3 1 2 3 0 0) = some (9, 8, 0, 3, 1, 2, 3, 0, 0) ∧ (64#64).toNat % 8 = 0 ∧
    reaches T 64 8 .both .amo (2 ^ 45 + 64) :=
  ⟨calmT _, cleanT, hold1, hold2, hold3, rfl, by decide, 0x8000000000040, 0, .lantern 0 64, by decide +kernel, by decide +kernel, by decide +kernel, by decide +kernel⟩

/-- A vector type with one general register more. -/
def vecX (w l : BitVec 3) (r : Nat) (v : W64) : State := setX (vec T w l) r v

/-- Whether a plan of vector accesses came to a list of that many, or to a fault at an element. -/
def planned (q : State × VPlan) : Option (Nat ⊕ Nat) :=
  match q with
  | (_, .ok l _) => some (.inl l.length)
  | (_, .fault [] _ k e _) => if e.code ≠ 0x26 ∧ e.code ≠ 0x2B then some (.inr k) else none
  | _ => none

theorem test_VectorMemoryAccesses : ∃ f, vmemOf (vec T 2 0).hart (.vld 0 8 1 0 0) = some f ∧ f.legal = true ∧ f.ready (vec T 2 0) ∧
    planned ((vec T 2 0).vplan (max 1 ((vec T 2 0).hart.sew / 8)) f.load f.accs [] false) = some (.inl 4) :=
  ⟨_, rfl, by decide, ⟨rfl, vec_ready _ _ _ _ _ _ (by decide) (by decide) x1⟩, by decide +kernel⟩

theorem test_VectorMemoryAccesses_fault : ∃ f, vmemOf (vecX 2 0 1 0x5000000).hart (.vst 0 8 1 0 0 0) = some f ∧ f.legal = true ∧
    f.ready (vecX 2 0 1 0x5000000) ∧ (vecX 2 0 1 0x5000000).hart.vq = [] ∧
    planned ((vecX 2 0 1 0x5000000).vplan (max 1 ((vecX 2 0 1 0x5000000).hart.sew / 8)) f.load f.accs [] false) = some (.inr 0) :=
  have r := vec_ready 2 0 0 [] ([] ++ groupRegs 8 8) [] (by decide) (by decide) noX
  ⟨_, rfl, by decide, ⟨rfl, ⟨rfl, fun _ => rfl, rfl, rfl⟩, r.2.1, by intro q h; rw [show q = 1 from by simpa [vmemOf.unit] using h]; exact ⟨_, rfl, .inr ⟨rfl, rfl⟩, rfl⟩, fun _ _ => rfl, r.2.2.2.2⟩, rfl, by decide +kernel⟩

theorem test_VectorMemoryAccesses_illegal : ∃ f, vmemOf T.hart (.vldx 0 8 1 2 0 0) = some f ∧ calm T f.sc ∧ T.hart.cUnk = 0 ∧
    T.hart.vill = true := ⟨_, rfl, calmT _, rfl, rfl⟩

theorem test_VectorSlideRefill : (let s := vec T 2 0
    8 ≤ s.hart.sew ∧ groupOk 8 s.hart.lm8 = true ∧ s.hart.vstart = 0 ∧ s.hart.vdep = 0 ∧ vectorReady s 0 [1, 3] [] (groupRegs 8 s.hart.lm8) ∧
    (∀ r : Nat, (s.hart.vreg r).psn = 0) ∧ holds s 1 64 ∧ holds s 3 3 ∧
    planned (s.vplan (s.hart.sew / 8) true (elementAccs s.hart true 8 none ((List.range s.hart.vl).filter (fun i => decide (s.hart.vl - 3 ≤ i)))
      (fun i => 64 + BitVec.ofNat 64 (i * (s.hart.sew / 8)))) [] false) = some (.inl 3)) :=
  ⟨by decide, by decide, rfl, rfl, vec_ready _ _ _ _ _ _ (by decide) (by decide) (by simpa using ⟨⟨64, hold1⟩, ⟨3, hold3⟩⟩),
    fun r => by rw [vec_vreg], hold1, hold3, by decide +kernel⟩

theorem test_BarrierArithmetic : (let b : BarWord := { barOf 0 with exp := 2, rem := 2, bytes := 8 }
    (b.exp < 2 ^ 16 ∧ b.rem < 2 ^ 16 ∧ b.bytes < 2 ^ 32 ∧ b.phase < 16 ∧ b.tflip < 2 ^ 32) ∧
    (b.rem ≤ 2 ∧ (b.bytes ≤ 8 ∨ b.rem < 2)) ∧ ¬ (b.rem ≤ 2 ∧ (b.bytes ≤ 7 ∨ b.rem < 2))) := by decide

theorem test_BarrierArrivals : calm T 0 ∧ holds T 1 64 ∧ holds T 2 5 ∧ holds T 0 0 ∧ memoryClean T ∧ (64#64).toNat % 32 = 0 ∧
    (5#64).toNat % 32 ≠ 0 ∧ (0#64).toNat % 2 ^ 16 = 0 ∧ (5#64).toNat % 2 ^ 16 ≠ 0 ∧
    issue T.myCtx T.hart.level 64 16 .both = .ok (0x8000000000040, 0) ∧ T.plainWindow 64 0x8000000000040 16 0 = .ok (.lantern 0 64) ∧
    onChip T (.lantern 0 64) 32 .amo = some (2 ^ 45 + 64) ∧ onChip T (.lantern 0 64) 32 .store = some (2 ^ 45 + 64) ∧
    T.symBlocks 0x8000000000040 32 = false :=
  ⟨calmT _, hold1, hold2, ⟨rfl, .inl rfl, rfl⟩, cleanT, by decide, by decide, by decide, by decide, by decide +kernel, by decide +kernel, by decide +kernel,
    by decide +kernel, by decide +kernel⟩

theorem test_BarrierArrivals_update : (match T.cell T.myCtx T.hart.level 64 .both with
    | .ok (ia, attr, w) => !T.symBlocks ia 16 attr && (match T.releaseFor true (5#3).toNat with
      | .go t () => [(5, 0), (1, 5), (0, 0)].all (fun n =>
          match t.rmwAt t.me 64 ia 16 attr w (5#3).toNat t.hart.gen (fun v => (((barOf v).update n.1 n.2 false t.tick).word.word, decide (n.1 ≠ 0))) with
          | (_, .ok _) => true
          | _ => false)
      | _ => false)
    | _ => false) = true := by decide +kernel

theorem test_BarrierWaits : calm T 0 ∧ holds T 1 64 ∧ holds T 2 5 ∧ holds T 0 0 ∧ holds T 3 3 ∧
    (match T.readCell 64 (1#3).toNat with
      | .go t b => !t.inAhead && decide (b.phase ≠ (3#64).toNat % 16) && decide (b.phase = (0#64).toNat % 16)
      | _ => false) = true :=
  ⟨calmT _, hold1, hold2, ⟨rfl, .inl rfl, rfl⟩, hold3, by decide +kernel⟩

theorem test_CircularBuffers_init : calm T 0 ∧ holds T 8 0x90000 ∧ holds (setX T 10 0x40008) 10 0x40008 ∧
    (0x8000000000000000#64).toNat / 2 ^ 48 ≠ 0 ∧ (0x40008#64).toNat / 2 ^ 48 = 0 ∧
    Header.legal { prod := 0, cons := 0, rsize := (0x40008#64).toNat % 2 ^ 16, cap := (0x40008#64).toNat / 2 ^ 16 % 2 ^ 32 } = true ∧
    (match (setX T 10 0x40008).buffer 0x90000 .both kWrite with
      | .go t (c, b) => decide (c = 0) && decide (b = 1) && !t.inAhead && !t.isLate && decide (t.hart.hdep = 0) && decide (t.psn = []) && decide (t.uioLost = [])
      | _ => false) = true :=
  ⟨calmT _, hold8, ⟨rfl, .inr ⟨rfl, rfl⟩, rfl⟩, by decide, by decide, by decide, by decide +kernel⟩

theorem test_CircularBuffers_moves : (match T.buffer 0x90000 .both (kRead ||| kWrite) with
    | .go t (c, b) => (match t.releaseFor true (5#3).toNat with
      | .go u () => (match u.headerRead 0x90000 c b with
        | .go v h => decide (v.psn = []) && decide (v.uioLost = []) && decide (h.free = 4) && decide (h.avail = 0)
        | _ => false)
      | _ => false)
    | _ => false) = true ∧ holds T 3 3 ∧ holds T 2 5 ∧ holds T 0 0 := ⟨by decide +kernel, hold3, hold2, rfl, .inl rfl, rfl⟩

/-- The FIFO of the tests with two records in it. -/
def T2 : State := { T with mem := T.mem.take 2 ++ (keySram + 2 ^ 19, 2) :: T.mem.drop 2 }

theorem test_CircularBuffers_pop : (match T2.buffer 0x90000 .both (kRead ||| kWrite) with
    | .go t (c, b) => (match t.releaseFor true (5#3).toNat with
      | .go u () => (match u.headerRead 0x90000 c b with
        | .go v h => decide (v.psn = []) && decide (v.uioLost = []) && decide (h.avail = 2) && decide (h.free < 3)
        | _ => false)
      | _ => false)
    | _ => false) = true ∧ holds (setX T2 10 1) 10 1 := ⟨by decide +kernel, rfl, .inr ⟨rfl, rfl⟩, rfl⟩

theorem test_CircularBuffers_wait : holds T 3 3 ∧ holds T 2 5 ∧ (match T2.buffer 0x90000 .read kRead with
    | .go t (c, b) => (match t.headerRead 0x90000 c b with
      | .go _ h => decide (h.cap < (5#64).toNat % 2 ^ 32) && decide ((3#64).toNat % 2 ^ 32 ≤ h.cap) && decide (h.avail < 3) && decide (1 ≤ h.avail)
      | _ => false)
    | _ => false) = true := ⟨hold3, hold2, by decide +kernel⟩

/-- The tests' state with the register of bank 0 changed. -/
def bankT (f : Bank → Bank) : State := T.setBank 0 0 (f (T.getBank 0 0))

theorem test_BankModeRequests : calm T 0 ∧ holds T 4 0x10000 ∧ holds T 3 3 ∧ issue T.myCtx T.hart.level 0x10000 1 .write = .ok (0x9000000000000, 0) ∧
    T.window 0x10000 0x9000000000000 1 0 = .ok (.sram 0 0) ∧ (T.getBank 0 0).owned = false ∧ (T.getBank 0 0).busy = false ∧
    (T.getBank 0 0).mode.toNat = (1#64).toNat := ⟨calmT _, hold4, hold3, by decide +kernel, by decide +kernel, by decide, by decide, by decide⟩

theorem test_BankModeRequests_owned : ((bankT (fun k => { k with owned := true, octx := 99 })).getBank 0 0).owned = true ∧
    ((bankT (fun k => { k with owned := true, octx := 99 })).getBank 0 0).octx ≠ (bankT (fun k => { k with owned := true, octx := 99 })).hart.ctxid ∧
    ((bankT (fun k => { k with busy := true })).getBank 0 0).busy = true ∧ ((bankT (fun k => { k with busy := true })).getBank 0 0).owned = false ∧
    (let s := bankT (fun k => { k with owned := true, octx := T.hart.ctxid })
     let k := s.getBank 0 0
     k.owned = true ∧ k.octx = s.hart.ctxid ∧ k.busy = false ∧ k.mode = 1 ∧ s.bankNat 0 0 0 4 = s.bankNat 0 0 4 4) := by decide +kernel

/-! ## Commands to the engines -/

/-- A hart with a bay and two tiles of the smallest shape. -/
def M : State := T.upd (fun h => { h with bv := true, nacc := 2, tm := 16, tn := 64, tk := 32 })

theorem calmM (sc : Sc) : calm M sc := ⟨rfl, fun _ => rfl, rfl, rfl⟩

theorem test_MatrixCommands_load : ∃ f, matOf M (.mldw 0 1 0 0 0x12) = some f ∧ calm M f.sc ∧ M.hart.vdep = 0 ∧ (∀ r ∈ f.xs, ∃ v, holds M r v) ∧ f.legal = true ∧
    (match f.ext with
      | some (va, n, acc) => (match M.extent M.myCtx M.hart.level va n acc with
        | .ok (ia, dev) => f.ok ia dev
        | _ => false)
      | none => false) = true ∧
    (match M.barrierOf M.myCtx M.hart.level (f.word &&& 0xffffffffffe0) with | .ok none => true | _ => false) = true ∧
    (match M.acquireCmd f.ord with | .go u () => decide (u.hart.cmdNumber = some 0) && decide (u.mops = []) | _ => false) = true :=
  ⟨_, rfl, calmM _, rfl, by simp; exact ⟨⟨64, rfl, .inr ⟨rfl, rfl⟩, rfl⟩, ⟨0, rfl, .inl rfl, rfl⟩⟩, by decide +kernel, by decide +kernel, by decide +kernel, by decide +kernel⟩

theorem test_MatrixCommands_bad : ∃ f, matOf M (.mchk 0 2 1) = some f ∧ (∀ r ∈ f.xs, ∃ v, holds M r v) ∧ f.legal = true ∧ f.ok 0 false = false ∧ f.ext = none ∧
    (match M.barrierOf M.myCtx M.hart.level (f.word &&& 0xffffffffffe0) with | .ok none => true | _ => false) = true :=
  ⟨_, rfl, by simp; exact ⟨5, rfl, .inr ⟨rfl, rfl⟩, rfl⟩, by decide +kernel, by decide +kernel, rfl, by decide +kernel⟩

theorem test_MatrixCommands_zero : ∃ f, matOf M (.mmaz 0 1) = some f ∧ f.sub = 2 ∧ f.ext = none ∧ f.legal = true ∧ f.ok 0 false = true :=
  ⟨_, rfl, rfl, rfl, by decide, rfl⟩

theorem test_MatrixCommands_illegal : ∃ f, matOf T (.mmaz 0 0) = some f ∧ calm T f.sc ∧ f.legal = false :=
  ⟨_, rfl, calmT _, by decide⟩

theorem test_MatrixState : calm M 0 ∧ holds M 1 64 ∧ M.mops = [] ∧ smallest (fieldOf 64 15 0) [16, 32, 64, 128] ≠ M.hart.tm ∧
    (1#5).toNat < M.hart.nacc.toNat ∧ M.hart.nacc.toNat ≤ (2#5).toNat ∧ T.hart.bv = false ∧ M.hart.bv = true :=
  ⟨calmM _, ⟨rfl, .inr ⟨rfl, rfl⟩, rfl⟩, rfl, by decide, by decide, by decide, rfl, rfl⟩

theorem test_MatrixState_kept : smallest (fieldOf 0 15 0) [16, 32, 64, 128] = M.hart.tm ∧ smallest (fieldOf 0 31 16) [64, 128, 256] = M.hart.tn ∧
    holds M 0 0 := ⟨by decide, by decide, rfl, .inl rfl, rfl⟩

/-- `x10` to `x13` set to a copy's operands. -/
def C (a b c d : W64) : State := setX (setX (setX (setX T 10 a) 11 b) 12 c) 13 d

/-- What the checks of a copy came to, and whether its class and number are there. -/
def sends (s : State) (kind : Nat) (ops : List W64) (o : BitVec 3) : Option Nat :=
  match s.planCopy s.me s.myCtx kind ops with
  | (t, .trap f) => if batched f.code || t.inAhead || t.isLate then none else some f.code
  | (t, .go _ _) => (match t.acquireCmd o with | .go u () => if u.hart.cmdNumber = some 0 ∧ u.hart.openSlot.isSome = true then some 0 else none | _ => none)
  | (t, .bad _) => (match t.acquireCmd o with | .go u () => if u.hart.cmdNumber = some 0 ∧ u.hart.openSlot.isSome = true then some 4 else none | _ => none)
  | _ => none

theorem test_CopyCommands : copyForm (.cpy 0 9 10 12 0 0) = some (0, 0, 9, [10, 11, 12, 13], false, 0) ∧ calm (C 0x10000 64 32 0) 0 ∧
    (∀ e ∈ ([10, 11, 12, 13] : List Reg).zip ([0x10000, 64, 32, 0] : List W64), (C 0x10000 64 32 0).hart.rx e.1 = .known e.2 ∧
      (e.1 = 0 ∨ (C 0x10000 64 32 0).hart.xBad.getLsbD e.1.toNat = false)) ∧
    (C 0x10000 64 32 0).hart.depOf [10, 11, 12, 13] = 0 ∧ (C 0x10000 64 32 0).listHold 0 [0x10000, 64, 32, 0] = false ∧ sends (C 0x10000 64 32 0) 0 [0x10000, 64, 32, 0] 0 = some 0 ∧
    sends (C 64 64 32 0) 0 [64, 64, 32, 0] 0 = some 4 ∧ sends (C 0x5000000 64 32 0) 0 [0x5000000, 64, 32, 0] 0 = some 0x21 :=
  ⟨rfl, ⟨rfl, fun _ => rfl, rfl, rfl⟩, by simp; exact ⟨⟨rfl, rfl⟩, ⟨rfl, rfl⟩, ⟨rfl, rfl⟩, rfl, rfl⟩, by decide +kernel, by decide +kernel, by decide +kernel, by decide +kernel, by decide +kernel⟩

theorem test_CopyCommands_segment : 0 < (32#64).toNat ∧ (32#64).toNat < 2 ^ 32 ∧
    T.extent T.myCtx T.hart.level 0x10000 32 .write = .ok (0x9000000000000, false) ∧
    T.extent T.myCtx T.hart.level 64 32 .read = .ok (0x8000000000040, false) ∧ T.barrierOf T.myCtx T.hart.level 0 = .ok none ∧
    (0x9000000000000 + 32 ≤ 0x8000000000040 ∨ 0x8000000000040 + 32 ≤ 0x9000000000000) :=
  ⟨by decide, by decide, by decide +kernel, by decide +kernel, by decide +kernel, by decide⟩

/-- A copy of the test hart with command number 0. -/
def copyOf (st : CopyState) : Copy :=
  { id := 50, place := some 3, cnum := 0, slot := some 0, node := none, ctx := 7, vf := 0, stack := 0, lvl := .app, segs := [], total := 0, barrier := none,
    cls := 0, rel := false, ordered := false, older := [], tag := 0, st := st, chunks := [], issued := 0, done := [], armed := false, taken := 0, moved := 0,
    pushBank := none, popBank := none, code := 0, cause := 0, psn := false, saved := none }

/-- `x9` holds the symbol of a copy in slot 0. -/
def CA (st : CopyState) : State :=
  { T.upd (fun h => { h with x := h.x.set 9 (.form 0 1 0), sym := h.sym.set 0 (.copyStatus 0) }) with copies := [copyOf st] }

theorem test_CopyAborts : calm (CA .sent) 0 ∧ (CA .sent).hart.xBad.getLsbD 9 = false ∧ (CA .sent).hart.rx 9 = .form 0 1 0 ∧
    (CA .sent).hart.slot 0 = .copyStatus 0 ∧ (CA .sent).hart.held = [] ∧ (CA .sent).copies = [copyOf .sent] ∧
    (copyOf .sent).place = some (CA .sent).hart.place ∧ (copyOf .sent).cnum = 0 ∧ (copyOf .sent).saved = none :=
  ⟨⟨rfl, fun _ => rfl, rfl, rfl⟩, rfl, rfl, rfl, rfl, rfl, rfl, rfl, rfl⟩

theorem test_CopyAborts_past : (CA .ended).hart.rx 9 = .form 0 1 0 ∧ (CA .ended).hart.slot 0 = .copyStatus 0 ∧ (CA .ended).hart.held = [] ∧
    (∀ c ∈ (CA .ended).copies, c.st = .finishing ∨ c.st = .ended) := ⟨rfl, rfl, rfl, by decide⟩

theorem test_CopyAborts_none : ∀ k a b, T.hart.rx 2 ≠ .form k a b := by
  intro k a b h; have : T.hart.rx 2 = .known 5 := rfl; rw [this] at h; exact absurd h (by simp)

/-- A load's symbol in `x9`. -/
theorem test_CopyAborts_other : (let s := T.upd (fun h => { h with x := h.x.set 9 (.form 0 1 0), sym := h.sym.set 0 (.poisoned 0x21 0) })
    s.hart.rx 9 = .form 0 1 0 ∧ ∀ n, s.hart.slot 0 ≠ .copyStatus n) := ⟨rfl, by intro n h; exact absurd h (by simp [T, State.upd, Hart.slot, hartT])⟩

/-- A planar page of 1 MiB at VA 0x200000, in `x10`; `x11` a message and `x12` no barrier. -/
def B (a m v : W64) : State :=
  { C a m v 0 with regions := [(0, 0x101)], stk := [(0, { tc := [{ ia := 0, size := 1, pte := 0x1000180CF }] })] }

/-- What the checks of a BKOP came to: pages, or a value failure, or a fault's cause. -/
def bkops (s : State) (a m v : W64) (o : BitVec 3) : Option (Nat × Nat) :=
  match s.planBkop s.me s.myCtx a m v with
  | (t, .trap f) => if batched f.code || t.inAhead || t.isLate then none else some (2, f.code)
  | (t, .go l _) => if t.windowFull t.hart.place (l.map (fun q => keyDie q.2)) then some (3, l.length)
    else (match t.acquireCmd o with | .go u () => if u.hart.cmdNumber = some 0 then some (0, l.length) else none | _ => none)
  | (t, .bad _) => (match t.acquireCmd o with | .go u () => if u.hart.cmdNumber = some 0 then some (1, 0) else none | _ => none)
  | _ => none

theorem test_BankOperations : calm (B 0x200000 3 0) 0 ∧
    (∀ e ∈ ([(10, 0x200000), (10 + 1, 3), (12, 0)] : List (Reg × W64)), (B 0x200000 3 0).hart.rx e.1 = .known e.2 ∧
      (e.1 = 0 ∨ (B 0x200000 3 0).hart.xBad.getLsbD e.1.toNat = false)) ∧
    (B 0x200000 3 0).hart.depOf [10, 10 + 1, 12] = 0 ∧ bkops (B 0x200000 3 0) 0x200000 3 0 0 = some (0, 1) ∧ bkops (B 0x5000000 3 0) 0x5000000 3 0 0 = some (2, 0x21) ∧
    bkops (B 0x200040 3 0) 0x200040 3 0 0 = some (1, 0) :=
  ⟨⟨rfl, fun _ => rfl, rfl, rfl⟩, by simp; exact ⟨⟨rfl, rfl⟩, ⟨rfl, rfl⟩, rfl, rfl⟩, by decide +kernel, by decide +kernel, by decide +kernel, by decide +kernel⟩

/-! ## Row locks, bank copies and bank setup -/

/-- A held lock of a context on row 5 of the page of `B`. -/
def lockOf (id ctx : Nat) : RowLock :=
  { id := id, die := 0, bank := 0, sub := 16, row := 5, count := 1, ctx := ctx, isHeld := true, expired := false, since := 0, waiter := none }

/-- The page of `B` with locks. -/
def BL (l : List RowLock) : State := { B 0x200000 5 0 with locks := l, nextId := 100 }

/-- The page that a lock instruction names, where nothing else is in its way. -/
def locksAt (s : State) (a : W64) : Option (Option Nat) :=
  match s.lockPage a with
  | .go t k => if t.inAhead = false ∧ t.isLate = false ∧ t.hart.rx 10 = s.hart.rx 10 ∧ t.hart.rx 11 = s.hart.rx 11 ∧ t.invs = [] ∧ t.waits = [] ∧ t.parts = [] then some k else none
  | _ => none

theorem test_RowLocks_fence : calm (BL []) 0 ∧ (BL []).hart.held = [] ∧ (∀ b ∈ (BL []).bcmds, b.place ≠ some (BL []).hart.place) :=
  ⟨⟨rfl, fun _ => rfl, rfl, rfl⟩, rfl, by decide⟩

theorem test_RowLocks_bad : locksAt (B 0x200040 5 0) 0x200040 = some none ∧ lockRows 1024 = none ∧ holds (BL []) 10 0x200000 ∧ holds (BL []) 11 5 :=
  ⟨by decide +kernel, by decide, ⟨rfl, .inr ⟨rfl, rfl⟩, rfl⟩, rfl, .inr ⟨rfl, rfl⟩, rfl⟩

theorem test_RowLocks_lock : locksAt (BL []) 0x200000 = some (some 0x1000000) ∧ lockRows 5 = some (5, 1) ∧
    (∀ l ∈ (BL []).locks, l.waiter ≠ some (BL []).hart.place) ∧ (∀ l ∈ (BL []).locks, l.id < (BL []).nextId) := by decide +kernel

/-- The locks that count and those that meet rows 5 of the page. -/
def locksHere (t : State) (key x n : Nat) : Nat × Nat :=
  let here := t.locks.filter (fun l => !l.expired && decide (l.die = key / 2 ^ 32 % 256) && decide (l.bank = key / 2 ^ 26 % 64))
  (here.length, (here.filter (fun l => decide (l.sub = key / 2 ^ 20 % 64) && decide (l.ctx ≠ t.hart.ctxKey) && decide (l.row < x + n) && decide (x < l.row + l.count))).length)

theorem test_RowLocks_counts : locksHere (BL []) 0x1000000 5 1 = (0, 0) ∧ locksHere (BL [lockOf 9 99]) 0x1000000 5 1 = (1, 1) ∧
    locksHere (BL ((List.range 8).map (fun i => lockOf i 7))) 0x1000000 5 1 = (8, 0) ∧
    locksAt (BL [lockOf 9 99]) 0x200000 = some (some 0x1000000) ∧
    locksAt (BL ((List.range 8).map (fun i => lockOf i 7))) 0x200000 = some (some 0x1000000) := by decide +kernel

theorem test_RowLocks_unlock : (match issue (BL []).myCtx (BL []).hart.level 0x200000 1048576 { Acc.write with eng := true } with
      | .ok (ia, _) => !(BL []).symBlocks (ia + 1024 * 5) 1024
      | _ => false) = true ∧
    (let l := lockOf 9 7
     l.isHeld = true ∧ l.waiter = none ∧ l.ctx = (BL [l]).hart.ctxKey ∧ l.die = 0x1000000 / 2 ^ 32 % 256 ∧ l.bank = 0x1000000 / 2 ^ 26 % 64 ∧
       l.sub = 0x1000000 / 2 ^ 20 % 64 ∧ l.row = 5 ∧ l.count = 1) := by decide +kernel

/-- Two planar pages of 1 MiB at VA 0x200000 and 0x300000, and a word of BKCOPY. -/
def BC (r w : W64) : State :=
  { C 0x200000 r w 0 with
    regions := [(0, 0x101)], stk := [(0, { tc := [{ ia := 0, size := 1, pte := 0x1000180CF }, { ia := 0x100000, size := 1, pte := 0x2000180CF }] })] }

/-- The checks of BKCOPY but for the values. -/
def copiesRows (s : State) (dv rv : W64) : Bool :=
  match s.extent s.myCtx s.hart.level dv 1048576 .write, s.extent s.myCtx s.hart.level rv 1048576 .read, s.barrierOf s.myCtx s.hart.level 0 with
  | .ok (d, _), .ok (r, _), .ok none =>
    (match s.probe s.me dv d .write with
     | (t, .ok _) => (match t.probe t.me rv r .read with
       | (z, .ok _) => !z.inAhead && (match z.acquireCmd 0 with | .go u () => decide (u.hart.cmdNumber = some 0) | _ => false)
       | _ => false)
     | _ => false)
  | _, _, _ => false

theorem test_BankCopies : calm (BC 0x300000 0) 0 ∧ holds (BC 0x300000 0) 10 0x200000 ∧ holds (BC 0x300000 0) (10 + 1) 0x300000 ∧
    holds (BC 0x300000 0) 12 0 ∧ holds (BC 0x300000 0) (12 + 1) 0 ∧ (0x200000#64).toNat % 1048576 = 0 ∧ (0x300000#64).toNat % 1048576 = 0 ∧
    copiesRows (BC 0x300000 0) 0x200000 0x300000 = true ∧ (fieldOf 0 63 30 = 0 ∧ fieldOf 0 9 0 + 1 ≤ 1024 ∧ fieldOf 0 19 10 + 1 ≤ 1024) :=
  ⟨⟨rfl, fun _ => rfl, rfl, rfl⟩, ⟨rfl, .inr ⟨rfl, rfl⟩, rfl⟩, ⟨rfl, .inr ⟨rfl, rfl⟩, rfl⟩, ⟨rfl, .inr ⟨rfl, rfl⟩, rfl⟩, ⟨rfl, .inr ⟨rfl, rfl⟩, rfl⟩, by decide, by decide,
    by decide +kernel, by decide⟩

theorem test_BankCopies_bad : copiesRows (BC 0x200000 0) 0x200000 0x200000 = true ∧
    ¬ (fieldOf 0 19 10 + (fieldOf 0 29 20 + 1) ≤ fieldOf 0 9 0 ∨ fieldOf 0 9 0 + (fieldOf 0 29 20 + 1) ≤ fieldOf 0 19 10) :=
  ⟨by decide +kernel, by decide⟩

/-- A lamplighter hart with a target word of WICKLOAD in `x10` and an image at VA 128: NOP-coded words but HALT at 130. -/
def W : State := { setX (setX L 10 0x100010010) 11 1 with mem := T.mem.take 2 ++ [(keyLantern + 131, 0xF0), (keyLantern + 133, 0xF0)] ++ T.mem.drop 2 }

/-- What an image reads as. -/
def imageRead (s : State) (n : Nat) (a : W64) : Option (Option Nat) :=
  match s.imageWords n a with
  | .go t l => if t.dieFenced 0 = false then some (imageBad l) else none
  | _ => none

theorem test_BankSetup : calm W 0 ∧ W.hart.level ≠ .app ∧ holds W 10 0x100010010 ∧ holds W 11 1 ∧ T.hart.level = .app ∧
    (1#64).toNat % 2 = 1 ∧ (130#64).toNat % 2 = 0 ∧ fieldOf 0x100010010 63 48 = 0 ∧ fieldOf 0x100010010 15 12 = 0 ∧ fieldOf 0x100010010 11 4 + 1 = 2 ∧
    (List.range 256).filter (fun d => (0x100010010#64).getLsbD (32 + d / 16) && (0x100010010#64).getLsbD (16 + d % 16)) = [0] ∧
    imageRead W 1 132 = some none ∧ imageRead W 1 128 = some (some 0) :=
  ⟨⟨rfl, fun _ => rfl, rfl, rfl⟩, by decide, ⟨rfl, .inr ⟨rfl, rfl⟩, rfl⟩, ⟨rfl, .inr ⟨rfl, rfl⟩, rfl⟩, rfl, by decide, by decide, by decide, by decide, by decide,
    by decide +kernel, by decide +kernel, by decide +kernel⟩

theorem test_BankSetup_fenced : (match ({ W with stk := [(0, { rasFdie := 1 })] } : State).imageWords 1 132 with
    | .go t l => decide (imageBad l = none) && t.dieFenced 0
    | _ => false) = true := by decide +kernel

theorem test_BankSetup_config : fieldOf 0x1000 63 12 ≠ 0 ∧ 5 ≤ fieldOf 0x500 10 8 ∧ fieldOf 0x800 63 12 = 0 ∧ fieldOf 0x800 10 8 < 5 ∧
    fieldOf 0x800 11 11 = 1 ∧ W.dieFenced (16 * fieldOf 0x800 7 4 + fieldOf 0x800 3 0) = false := by decide

/-! ## Micro-ops -/

/-- An invocation of the page of `B` at handler 0. -/
def inv (f : Inv → Inv) : Inv :=
  f { id := 5, cmd := 4, idx := 0, die := 0, bank := 0, sub := 1, ia := 0, ctx := 7, vf := 0, tag := 0, h := 0, code := [], pc := 0, p := #v[0, 0, 0, 0],
      b := #v[0, 0, 0, 0], arg := 0, loops := [], status := 0, cycles := 0, corrections := 0, st := .running, ecode := 0, errRow := 0,
      t := Vector.replicate 6 0, cpy := none }

/-- It runs on the page of `B`, whose rows hold zeros. -/
def U (v : Inv) : State := { B 0x200000 0 0 with mem := [], invs := [v], cur := 5 }

theorem runsU (v : Inv) (n : Nat) (hi : v.id = 5) (hs : v.st = .running) (hd : v.die = 0) (h : v.cycles + n ≤ 2560) : microRuns (U v) v n := by
  refine ⟨?_, hs, ?_, rfl, h⟩
  · show List.find? _ [v] = some v
    exact List.find?_cons_of_pos (decide_eq_true hi)
  · rw [hd]; show (B 0x200000 0 0).dieFenced 0 = false; decide +kernel

theorem test_MicroRows_data : rowsClean (U (inv id)) ∧ specInRange (inv id) 2 ∧ specInRange (inv id) 3 ∧ rowHolds (U (inv id)) (inv id) 3 0 ∧
    microRuns (U (inv id)) (inv id) 20 ∧ (2 : BitVec 6) ≠ notDc 2 3 :=
  ⟨⟨rfl, rfl, rfl⟩, .inr (by decide), .inr (by decide), by
    rw [rowHolds, if_neg (by decide)]; intro c
    have : State.byteAt (U (inv id)) (rowPlace (inv id) 3 + c.val / 8) = 0 := by
      simp only [State.byteAt]
      rw [if_neg (by simp [rowPlace, inv, dataRow, keySram]; omega), if_neg (by simp [rowPlace, inv, dataRow, keyPeer]; omega)]; rfl
    rw [this]; simp, runsU _ _ rfl rfl rfl (by decide), by decide⟩

theorem test_MicroRows_compute : specInRange (inv id) 0x21 ∧ rowHolds (U (inv id)) (inv id) 0x21 0 ∧ microRuns (U (inv id)) (inv id) 12 ∧
    (0x20 : BitVec 6).getLsbD 5 = true ∧ (2 : BitVec 6).getLsbD 5 = false :=
  ⟨.inl (by decide), by
    rw [rowHolds, if_pos (by decide)]; intro c
    simp [inv, Vector.getElem_replicate], runsU _ _ rfl rfl rfl (by decide), by decide, by decide⟩

theorem test_MicroControl : microRuns (U (inv id)) (inv id) 1 ∧ microRuns (U (inv id)) (inv id) 10 ∧ microRuns (U (inv id)) (inv id) (12#12).toNat ∧
    (∀ q ∈ (U (inv id)).invs, q.cmd = (inv id).cmd → q.id ≠ (inv id).id → q.st = .ended) :=
  ⟨runsU _ _ rfl rfl rfl (by decide), runsU _ _ rfl rfl rfl (by decide), runsU _ _ rfl rfl rfl (by decide),
    fun q hq _ h => absurd (by rw [show q = inv id by simpa [U] using hq]) h⟩

/-- A loop of 0 passes at microword 0, whose END is at 2. -/
def loopInv : Inv := inv (fun v => { v with code := [0xA000, 0, 0xB000, 0xF000] })

theorem test_MicroControl_loop : microRuns (U loopInv) loopInv 1 ∧ plainLoop loopInv.code (loopInv.pc + 1) 2 :=
  ⟨runsU _ _ rfl rfl rfl (by decide), by decide, ⟨0xB000, rfl, by decide⟩, by
    intro k h1 h2 w hw
    have : k = 1 := by simp [loopInv, inv] at h1; omega
    subst this
    have : w = 0 := by simpa [loopInv, inv] using hw.symm
    subst this; decide⟩

theorem test_MicroControl_end : microRuns (U (inv (fun v => { v with loops := [(1, 2)] }))) (inv (fun v => { v with loops := [(1, 2)] })) 1 ∧ 1 < 2 ∧
    microRuns (U (inv (fun v => { v with loops := [(1, 1)] }))) (inv (fun v => { v with loops := [(1, 1)] })) 1 :=
  ⟨runsU _ _ rfl rfl rfl (by decide), by decide, runsU _ _ rfl rfl rfl (by decide)⟩

/-- The page's subarray in bank 1 belongs to the invocation's VF. -/
def UC : State := { U (inv id) with owners := [(65, 1 + 128 * 9)] }

theorem test_MicroEnds_copy : microRuns UC (inv id) 48 ∧ (3 : BitVec 6).getLsbD 5 = false ∧ dataRow (inv id) 3 ≤ 1023 ∧ rowsClean UC ∧
    (inv id).bank / 4 * 4 + (1#2).toNat ≠ (inv id).bank ∧ (inv id).bank / 4 * 4 + (0#2).toNat = (inv id).bank ∧
    UC.ownerOf (4096 * 0 + 64 * 1 + 1) = some ((inv id).vf, 9) ∧ UC.locks = [] ∧ (U (inv id)).ownerOf 65 = none :=
  ⟨runsU _ _ rfl rfl rfl (by decide), by decide, by decide, ⟨rfl, rfl, rfl⟩, by decide, by decide, by decide, rfl, by decide⟩

theorem test_MicroEnds_others : (U (inv (fun v => { v with cycles := 2560 }))).invAt 5 = some (inv (fun v => { v with cycles := 2560 })) ∧
    2560 < (inv (fun v => { v with cycles := 2560 })).cycles + 1 ∧ (U (inv id)).dieFenced 0 = false ∧
    (2 : BitVec 6).getLsbD 5 = false ∧ 1023 < dataRow (inv (fun v => { v with b := #v[1024, 0, 0, 0] })) 2 ∧
    ({ U (inv id) with stk := [(0, { rasFdie := 1 })] } : State).dieFenced (inv id).die = true ∧
    (U (inv (fun v => { v with cycles := 2560 }))).holdsOps (64 * 0 + 0) = false :=
  ⟨rfl, by decide, by decide, by decide, by decide, by decide, rfl⟩

/-! ## Registers, holds and translation -/

theorem test_RegisterWindow : T.fenced 0 = false ∧ (0x200000, 0x000fffffffffe001) ∈ plainReg 0 ∧ 0x200004 % 8 ≠ 0 ∧ devReg 0 0xe00000 = none ∧
    ({ T with plat := { T.plat with fstk := 1 } } : State).fenced 0 = true := by
  refine ⟨by decide, ?_, by decide, by decide +kernel, by decide⟩
  unfold plainReg
  repeat (first | exact List.mem_cons_self | apply List.mem_append_left)

theorem test_Invalidations : (T.getStk 0).tcinvQ.length ≤ 16 ∧
    16 < ((T.setStk 0 { tcinvQ := List.replicate 17 0 }).getStk 0).tcinvQ.length ∧
    ((T.setStk 0 { tcinvQ := [6] }).getStk 0).tcinvQ = 6 :: [] ∧ 6 ≤ fieldOf 6 2 0 ∧ fieldOf 5 2 0 = 5 ∧ fieldOf 0x10000 2 0 ≤ 4 := by decide

/-- A tree of stack 0 at 0x10000 that maps IA 0 to a page: L2 at 0x10000, L1 at 0x20000, L0 at 0x30000. The entry's low byte is given. -/
def tree (b0 b1 b2 b4 : Byte) : List Host.Cell :=
  [(0x10000, 1), (0x10003, 2), (0x20000, 1), (0x20003, 3), (0x30000, b0), (0x30001, b1), (0x30002, b2), (0x30004, b4)]

/-- A page of 64 KiB at IA 0. -/
def TT : State := { T with mem := tree 0x4F 0x80 1 1, regions := [(0, 0x101)], stk := [(0, { trootV := true, troot := 8 })] }

/-- A planar page of 1 MiB at IA 0, with a row lock on it. -/
def TP : State := { TT with mem := tree 0xCF 0xA0 1 1, locks := [lockOf 9 7] }

/-- A change to `MIGCTL` 0 of stack 0. -/
def mig (s : State) (m : Mig) : State := s.setMig 0 0 m

theorem test_Holds : (T.getMig 0 0).held = false ∧ (∀ j < 4, j ≠ 0 → (T.getMig 0 j).held = false) ∧
    ((mig T { held := true }).getMig 0 0).held = true ∧ (∀ page ∈ mibPages 0 (pageSize 0), (mig T { held := true }).planarAt 0 page = none) ∧
    ((mig T { wanted := true }).getMig 0 0).wanted = true ∧ (mig T { wanted := true }).rangeBusy 0 0 (pageSize 0) = false := by decide +kernel

theorem test_Holds_busy : ((mig TP { wanted := true, size := 1 }).getMig 0 0).wanted = true ∧ (mig TP { wanted := true, size := 1 }).rangeBusy 0 0 (pageSize 1) = true := by
  decide +kernel

/-- A request of the test hart's slot 0, or of the host. -/
def req (src : ReqSrc) (ia : Nat) (op : ReqOp) (st : ReqStage) : Req :=
  { id := 20, src := src, op := op, va := BitVec.ofNat 64 ia, ia := ia, n := 8, data := 0, scope := 0, attr := 0, lvl := .app, vf := 0, tag := 0,
    cluster := 0, stage := st, result := 0, cause := 0 }

/-- A load's producer. -/
def prod : Producer := { va := 64, width := 3, sext := false, acq := false, rel := false, scope := 0, amo := 0, opnd := 0, cmp := 0 }

/-- A state with the request, and the symbol that waits for it in slot 0. -/
def R (s : State) (r : Req) : State := { s.upd (fun h => { h with sym := h.sym.set 0 (.pending prod 20), x := h.x.set 9 (.form 0 1 0) }) with reqs := [r], nextId := 100 }

theorem test_Holds_drained : (let s := mig (R T (req .host 128 .read .engine)) { held := true }
    (s.getMig 0 0).held = true ∧ (s.getMig 0 0).drained = false ∧ (∀ r ∈ s.reqs, r.stage = .engine ∧ 0 < r.ia + r.n ∧ r.ia < pageSize 0)) ∧
    (let s := mig (R T (req .host 128 .read .sent)) { held := true }
     (s.getMig 0 0).held = true ∧ (s.getMig 0 0).drained = false ∧ ∀ r ∈ s.reqs, r.stage = .sent) := by decide +kernel

theorem test_Holds_atWork : atWork (req .host 128 .read .engine) ∧ ¬ atWork (req .host 128 .read .sent) := ⟨.inl rfl, by simp [atWork, req]⟩

theorem test_RequestsAtHome_window : (let r := req .host 0x8000000000040 .read .sent
    let s := R T r
    s.reqAt r.id = some r ∧ r.stage = .sent ∧ winOf s.ownPart r.ia = some (.lantern 0 64)) := ⟨by decide +kernel, rfl, by decide +kernel⟩

theorem test_RequestsAtHome_held : (let r := req .host 128 .read .sent
    let s := mig (R P r) { held := true }
    s.reqAt r.id = some r ∧ winOf s.ownPart r.ia = some .trans ∧ 0 < r.n ∧ r.ia % 65536 + r.n ≤ 65536 ∧ s.home r.ia = some 0 ∧ s.fenced 0 = false ∧
    s.migHeld 0 r.ia = true ∧
    (s.getStk 0).heldBy.length + (s.reqs.filter (fun q => decide (q.stage = .heldMig) && decide (s.home q.ia = some 0))).length < 256) :=
  ⟨by decide +kernel, by decide +kernel, by decide, by decide, by decide +kernel, by decide, by decide +kernel, by decide +kernel⟩

theorem test_RequestsAtHome_walks : (let r := req .host 128 .read .sent
    let s := R TT r
    s.reqAt r.id = some r ∧ winOf s.ownPart r.ia = some .trans ∧ s.home r.ia = some 0 ∧ s.fenced 0 = false ∧ s.migHeld 0 r.ia = false ∧
    (s.getStk 0).cached r.ia = none ∧ (s.getStk 0).batch = none) :=
  ⟨by decide +kernel, by decide +kernel, by decide +kernel, by decide, by decide +kernel, by decide +kernel, by decide⟩

/-- Whether the pieces of a request come to a list or a fault. -/
def pieced (s : State) (r : Req) : Option Nat :=
  match s.pieces (s.reqWho r) r.va r.ia r.n r.acc with | (_, .ok _) => some 0 | (_, .fault f) => some f.code | _ => none

theorem test_RequestsAtHome_served : (let r := req (.sym 3 0) 128 .read .sent
    let s := R P r
    s.reqAt r.id = some r ∧ winOf s.ownPart r.ia = some .trans ∧ s.home r.ia = some 0 ∧ s.migHeld 0 r.ia = false ∧
    (s.getStk 0).cached r.ia ≠ none ∧ pieced s r = some 0) ∧
    (let r := req .host 128 .write .sent
     let s := R { P with stk := [(0, { tc := [{ ia := 0, size := 0, pte := 0x10001804B }] })] } r
     (s.getStk 0).cached r.ia ≠ none ∧ pieced s r = some 0x27) :=
  ⟨⟨by decide +kernel, by decide +kernel, by decide +kernel, by decide +kernel, by decide +kernel, by decide +kernel⟩, by decide +kernel, by decide +kernel⟩

/-- A request walked at a level of the tree. -/
def walked (s : State) (l : Nat) (open_ : Bool) : State :=
  let u := R s (req .host 0 .read .walking)
  u.setStk 0 { u.getStk 0 with batch := some { openB := open_, level := l, elems := [{ req := 20, unit := 0 }] } }

/-- What the element of a walk comes to: down, a fault's cause, or a leaf. -/
def stepOf (w : WalkStep) : Nat ⊕ Option Nat := match w with | .down => .inr none | .fault c => .inr (some c) | .leaf e _ _ => .inl e

theorem test_WalkBatches : ((walked TT 2 true).getStk 0).batch = some { openB := true, level := 2, elems := [{ req := 20, unit := 0 }] } ∧
    stepOf ((walked TT 2 false).walkStep 0 2 0) = .inr none ∧ stepOf ((walked TT 0 false).walkStep 0 0 0) = .inl 0x10001804F ∧
    stepOf ((walked T 2 false).walkStep 0 2 0) = .inr (some 0x26) ∧ (ptePlanar 0x10001804F && pteEnc 0x10001804F) = false ∧
    ((walked TT 0 false).getStk 0).missed = [] ∧ (walked TT 0 false).reqAt 20 = some (req .host 0 .read .walking) ∧
    (req .host 0 .read .walking).id = 20 := by decide +kernel

/-- The page of `TT`, walked for an access of core 3. -/
def walkedBy (s : State) : State :=
  s.setStk 0 { s.getStk 0 with batch := some { openB := false, level := 0, elems := [{ req := 0, unit := 0, by_ := some 3 }] } }

theorem test_WalkBatches_accesses : ((walkedBy TT).getStk 0).batch = some { openB := false, level := 0, elems := [{ req := 0, unit := 0, by_ := some 3 }] } ∧
    stepOf ((walkedBy TT).walkStep 0 0 0) = .inl 0x10001804F ∧ stepOf ((walkedBy T).walkStep 0 0 0) = .inr (some 0x26) ∧
    ((walkedBy TT).getStk 0).missed = [] := by decide +kernel

theorem test_Responses : (let r := req (.sym 3 0) 128 .read .done
    (R T r).reqAt r.id = some r ∧ (R T r).slotOf r = some (3, 0)) ∧
    (let r := req .host 128 .read .done; (R T r).reqAt r.id = some r) ∧
    (let r := req (.sym 3 0) 128 .read .failed
    (R T r).reqAt r.id = some r ∧ (R T r).slotOf r = some (3, 0)) ∧
    (let r := req .host 128 .read .failed; (R T r).reqAt r.id = some r) := by decide +kernel

/-- A hart in run-ahead for 256 instructions; its record goes to the address. -/
def RA (fb : W64) : State :=
  let s := T.upd (fun h => { h with fbbase := fb, instret := 300 })
  { s with ras := [{ place := 3, ck := { s.hart with instret := 0 }, entries := [{ ia := 0, cause := 0x26, level := 0, kind := 1, hits := 1 }], tval := 64, arrived := [] }] }

/-- What became of the record of a run-ahead. -/
def recorded (s : State) : Option (Option Nat) :=
  match s.ahead, s.ahead.bind (fun r => s.aheadDone r) with
  | some r, some n =>
    let w : State := { s with hart := r.ck, ras := s.ras.filter (fun q => decide (q.place ≠ s.hart.place)) }
    (match w.writeRecord (recordBytes r.ck.pc s.hart.pc r.entries n (s.hart.instret - r.ck.instret).toNat) with
     | (_, .ok ()) => some none
     | (_, .fault f) => some (some f.code)
     | _ => none)
  | _, _ => none

theorem test_RunAheadStops : (RA 0).ahead.map (fun r => (r.arrived, (r.entries.head?).map (·.cause), r.ck.fbbase)) = some ([], some 0x26, 0) ∧
    (RA 0).ahead.bind (fun r => (RA 0).aheadDone r) = some 0 ∧ recorded (RA 0x8000000000100) = some none ∧
    recorded (RA 0x1000000000000) = some (some 0x24) := by decide +kernel

theorem test_Retirement : (let s := TT.setStk 0 { TT.getStk 0 with corrFrames := [(0x100, 8)] }
    max 1 (s.getStk 0).retthr.toNat ≤ sget 0 (s.getStk 0).corrFrames 0x100 ∧ s.ecc = [] ∧ s.stale = [] ∧ s.reqs = [] ∧ s.locks = [] ∧
    s.invs = [] ∧ s.waits = [] ∧ ((List.range 16).flatMap (fun j => (s.leavesOver j 0x100).map (fun q => (j, q)))).map (fun q => (q.1, q.2.1, q.2.2.2.1)) = [(0, 0, 0)] ∧
    (∀ q ∈ (List.range 16).flatMap (fun j => (s.leavesOver j 0x100).map (fun q => (j, q))),
      s.rangeBusy q.1 q.2.1 (pageSize (leafSize q.2.2.2.1 q.2.2.1)) = false)) := by decide +kernel

/-! ## Caches, banks, engines and replicas -/

/-- A line of cluster 0's cache with dirty bytes. -/
def lineOf (d : BitVec 128) : Line := { line := 1, data := 0, valid := 0xff, dirty := d, gen := 0, bank := 2, lock := none }

/-- The line in the cache of cluster 0, over a page that stack 0 maps, or over none. -/
def CL (s : State) (d : BitVec 128) : State := s.setClu 0 { s.getClu 0 with lines := [lineOf d] }

theorem test_CacheLines_fill : ((CL P 1).getClu 0).copyOf 1 = some (lineOf 1) ∧
    (match (CL P 1).pieceAt (cacheWho 0 0) 0 (128 * 1) (128 * 1) 128 .read with
     | (u, .ok p) => (match u.gate (cacheWho 0 0) p.line false with
       | (v, true) => decide (((v.fetch { cacheWho 0 0 with unit := unitCache 0 } p.line).2).length = 128)
       | _ => false)
     | _ => false) = true := by decide +kernel

theorem test_CacheLines_clean : ((CL P 0).getClu 0).copyOf 1 = some (lineOf 0) ∧ (lineOf 0).dirty = 0 ∧ (lineOf 0).after = [] ∧ (lineOf 1).after = [] := by decide +kernel

theorem test_CacheLines_back : (match (CL P 1).pieceAt (cacheWho 0 0) 0 (128 * 1) (128 * 1) 128 .write with
    | (u, .ok p) => (match u.readyWrite (cacheWho 0 0) p 0 with
      | (v, true) => decide (v.psn = []) && decide (v.ecc = []) && decide (v.stale = []) && decide (v.uioLost = []) && decide (v.encKey = []) &&
          !pteRepl p.pte && !pteTracked p.pte && !pteEnc p.pte && pteMod p.pte
      | _ => false)
    | _ => false) = true := by decide +kernel

theorem test_CacheLines_lost : (match (CL T 1).pieceAt (cacheWho 0 0) 0 (128 * 1) (128 * 1) 128 .write with | (_, .fault _) => true | _ => false) = true ∧
    ((CL T 1).getClu 0).copyOf 1 = some (lineOf 1) := by decide +kernel

theorem test_CacheLines_settled : (let s : State := { CL P 0 with gens := { P.gens with unsettled := [unitCache 0] } }
    nmem (unitCache 0) s.gens.lag = false ∧ nmem (unitCache 0) s.gens.unsettled = true ∧ s.oldLines 0 = []) := by decide +kernel

theorem test_BankTransitions : fieldOf 2 1 0 < 3 ∧ fieldOf 2 1 0 ≠ (T.getBank 0 0).mode.toNat ∧ (T.getBank 0 0).busy = false ∧ (T.getBank 0 0).mode = 1 ∧
    T.bankNat 0 0 0 4 = T.bankNat 0 0 4 4 ∧ fieldOf 0 1 0 < 3 ∧ fieldOf 0 1 0 ≠ (T2.getBank 0 1).mode.toNat ∧ (T2.getBank 0 1).busy = false ∧
    (T2.getBank 0 1).mode = 2 ∧ T2.bankNat 0 1 0 4 ≠ T2.bankNat 0 1 4 4 ∧
    fieldOf 3 1 0 = 3 ∧ (let s := (bankT (fun k => { k with busy := true, target := 2 })).upd (fun h => { h with wait := some (.srcfg 9 0 0) })
      (s.getBank 0 0).busy = true ∧ (s.getBank 0 0).mode ≠ 0 ∧ s.bankInFlight 0 0 = false ∧ s.hart.wait = some (.srcfg 9 0 0) ∧ (s.getBank 0 0).target = 2) := by
  decide +kernel

theorem test_BankTransitions_kept : (let s := T.setBank 0 1 { T.getBank 0 1 with busy := true, target := 1 }
    (s.getBank 0 1).busy = true ∧ (s.getBank 0 1).mode = 2 ∧ (s.getBank 0 1).target = 1 ∧ s.bankInFlight 0 1 = false ∧ s.hart.wait = none) := by decide +kernel

theorem test_WindowRequests_sram : (let r := req .host 0x9000000000008 .read .sent
    (R T r).reqAt r.id = some r ∧ winOf (R T r).ownPart r.ia = some (.sram 0 8) ∧ (R T r).fenced (0 / 2) = false ∧ (R T r).sramAllows 0 8 r.n .load = true ∧
    (R T r).sramAllows 0 8 r.n .amo = true) ∧
    (let r := req .host 0x9000000100000 .read .sent
     winOf (R T r).ownPart r.ia = some (.sram 0 0x100000) ∧ (R T r).sramAllows 0 0x100000 r.n .load = false ∧ (R T r).sramAllows 0 0x100000 r.n .amo = false) :=
  ⟨⟨by decide +kernel, by decide +kernel, by decide +kernel, by decide +kernel, by decide +kernel⟩, by decide +kernel, by decide +kernel, by decide +kernel⟩

theorem test_WindowRequests_lantern : (let r := req .host 0x8000000000040 (.amo 0 1 0) .sent
    (R T r).reqAt r.id = some r ∧ winOf (R T r).ownPart r.ia = some (.lantern 0 64) ∧ (R T r).fenced 0 = false ∧ (R T r).slotWaited 0 64 r.n = false ∧
    ∀ q ∈ (R T r).reqs, q.id = r.id) := ⟨by decide +kernel, by decide +kernel, by decide, by decide +kernel, by decide⟩

theorem test_WindowRequests_line : keepsLine { req .host 0x8000000000048 (.amo 0 1 0) .done with id := 21 } (req .host 0x8000000000040 (.amo 0 1 0) .sent) ∧
    ¬ keepsLine { req .host 0x80000000000C0 (.amo 0 1 0) .done with id := 21 } (req .host 0x8000000000040 (.amo 0 1 0) .sent) := by
  constructor
  · exact ⟨rfl, .inr rfl, rfl⟩
  · simp [keepsLine, req]

/-- A request at the engine of cluster 0, by a port or in a line's queue. -/
def AE (s : State) (r : Req) (ports : List Ported) (q : List Nat) : State :=
  (R s r).setClu 0 { s.getClu 0 with ports := ports, cam := if q = [99] then [] else [{ ln := lineOf 0, queue := q }] }

theorem test_AtomicEngines_sram : (let r := req .host 0x9000000000008 (.amo 0 1 0) .engine
    let s := AE T r [{ port := 64, req := 20 }] [99]
    s.reqAt r.id = some r ∧ (s.getClu 0).ports = [{ port := 64, req := r.id }] ∧ winOf s.ownPart r.ia = some (.sram 0 8) ∧
    s.amoAhead r.ia = false) := ⟨by decide +kernel, by decide +kernel, by decide +kernel, by decide +kernel⟩

theorem test_AtomicEngines_line : (let r := req .host 128 (.amo 0 1 0) .engine
    let s := AE P r [{ port := 64, req := 20 }] []
    s.reqAt r.id = some r ∧ (s.getClu 0).ports = [{ port := 64, req := r.id }] ∧ winOf s.ownPart r.ia = some .trans ∧
    (s.getClu 0).camOf (r.ia / 128) = some { ln := lineOf 0, queue := [] }) :=
  ⟨by decide +kernel, by decide +kernel, by decide +kernel, by decide +kernel⟩

theorem test_AtomicEngines_hot : (let r := req .host 128 (.amo 0 1 0) .engine
    let s := AE P r [] [20]
    decide ((s.getClu 0).camOf 1 = some { ln := lineOf 0, queue := 20 :: [] }) && (match s.reqPieces r .both with
     | (u, .ok _) => decide (u.reqs = s.reqs)
     | _ => false)) = true := by decide +kernel

theorem test_AtomicEngines_home : (let r := req .host 128 (.amo 0 1 0) .engine
    let s := R P r
    (match s.reqPieces r .both with
     | (u, .ok _) => u.reqs.all (fun q => decide (q.id = r.id))
     | _ => false)) = true := by decide +kernel

/-- An update of a replicated page of stacks 0 and 1. -/
def upd_ (o : Bool) (p : List Nat) : Update := { id := 30, place := none, ia := 128, n := 8, data := 5, tag := 0, live := 0xff, pending := p, ordered := o }

/-- The page and the update. -/
def RU (o : Bool) (p : List Nat) : State :=
  { P with updates := [upd_ o p], regions := [(0, 0x303)], stk := [(0, { tc := [{ ia := 0, size := 0, pte := 0x10001814F }] }), (1, { tc := [{ ia := 0, size := 0, pte := 0x10001814F }] })] }

theorem test_ReplicaUpdates : (RU false []).updates.takeWhile (fun x => decide (x.id ≠ (upd_ false []).id)) = [] ∧ (RU false []).updates.find? (fun x => decide (x.id = (upd_ false []).id)) = some (upd_ false []) ∧
    (RU false []).fenced (fieldOf (sget 0 (RU false []).regions ((upd_ false []).ia / 2 ^ 36 % 4096)) 6 3) = false ∧
    ((RU false []).applyReplica (fieldOf (sget 0 (RU false []).regions ((upd_ false []).ia / 2 ^ 36 % 4096)) 6 3) (upd_ false [])).2 = true ∧
    (RU false []).slotsInUse = [] ∧ (RU true [1]).updates.find? (fun x => x.ordered && nmem 1 x.pending) = some (upd_ true [1]) ∧
    (RU true [1]).fenced 1 = false ∧ ((RU true [1]).applyReplica 1 (upd_ true [1])).2 = true := by decide +kernel

/-! ## Symbols, the vector queue and waits -/

/-- The load's request for the byte 64 of Lantern SRAM. -/
def symReq (st : ReqStage) : Req := { req (.sym 3 0) 0x8000000000040 .read st with va := 64 }

theorem test_SymbolResolution : (R T (symReq .done)).producerOf 3 0 = some (prod, symReq .done) ∧ (symReq .done).stage = .done ∧ prod.amo = 0 ∧
    (match (R T (symReq .done)).symValue prod (symReq .done) with
     | (u, .ok _) => decide (u.hart.place = 3) && !u.inAhead && decide (u.hart.held = [])
     | _ => false) = true := by decide +kernel

theorem test_SymbolResolution_amo : ({ prod with amo := 1 } : Producer).amo ≠ 0 ∧ winOf T.ownPart 0x8000000000040 = some (.lantern 0 64) ∧
    winOf T.ownPart 0x9000000000008 = some (.sram 0 8) ∧ (0 : Nat) ≤ 9 ∧
    (let r := { symReq .done with op := .amo 0 1 0 }
     let p := { prod with amo := 1 }
     let s := (R T r).upd (fun h => { h with sym := h.sym.set 0 (.pending p 20) })
     s.producerOf s.hart.place 0 = some (p, r) ∧ (match s.symValue p r with
       | (u, .ok _) => decide (u.hart.place = 3) && !u.inAhead && decide (u.hart.held = [])
       | _ => false) = true) := by decide +kernel

theorem test_SymbolPoisons : (let s := R T { symReq .failed with cause := 0x21 }
    s.producerOf s.hart.place 0 = some (prod, { symReq .failed with cause := 0x21 }) ∧ s.ras = [] ∧ s.hart.held = []) ∧
    (let s := R T { symReq .failed with cause := 0x26 }
    s.producerOf s.hart.place 0 = some (prod, { symReq .failed with cause := 0x26 })) := by decide +kernel

/-- An entry of the vector queue with one element, at VA 64. -/
def vqOf (load tp : Bool) : VQEntry :=
  { load := load, vd := 8, sew := 8, bytes := 1, scope := 0, elems := [{ idx := 3, va := 64, ia := 0x8000000000040, attr := 0, val := 7 }], free := true, strict := false, tp := tp }

/-- The hart with the entry. -/
def VQ (load tp : Bool) : State := T.upd (fun h => { h with vq := [vqOf load tp] })

theorem test_VectorQueue : (VQ true false).hart.vq = vqOf true false :: [] ∧ (vqOf true false).tp = false ∧ (vqOf true true).fence = none ∧
    (vqOf true true).late = none ∧ (vqOf false true).free = true ∧ (VQ true true).window 64 0x8000000000040 1 0 = .ok (.lantern 0 64) ∧
    (match (VQ false true).storeAt { (VQ false true).me with vec := true, after := [] } 64 0x8000000000040 0 (.lantern 0 64) 0 (bytesLE 1 7) (VQ false true).hart.gen with
     | (u, .ok ()) => decide (u.hart.vq = (VQ false true).hart.vq)
     | _ => false) = true ∧
    (match (VQ true true).loadAt { (VQ true true).me with vec := true, after := [] } 64 0x8000000000040 1 0 (.lantern 0 64) 0 .read with
     | (u, .ok _) => decide (u.hart.vq = (VQ true true).hart.vq) && decide (u.hart.v = (VQ true true).hart.v) && decide (u.hart.vgrant = 1024)
     | _ => false) = true ∧ 8 ∣ 1024 ∧ 8 + 8 * 3 / 1024 < 32 := by decide +kernel

/-- The test hart waits. -/
def WT (w : Wait) : State := T2.upd (fun h => { h with wait := some w })

theorem test_WaitsEnd_barrier : (let s := WT (.bwait 9 64 0 0 (some 0))
    s.hart.wait = some (.bwait 9 64 0 0 (some 0)) ∧ s.focus s.hart.place = s ∧ (0#64).toNat ≤ s.tick.toNat ∧
    (match (s.postOnce (.bwaitReturn 3)).readCell 64 0 with | .go _ b => decide (b.phase = 0) | _ => false) = true ∧
    (match (s.postOnce (.bwaitTimeout 3)).readCell 64 0 with | .go _ _ => true | _ => false) = true) := by decide +kernel

theorem test_WaitsEnd_late : ¬ ∃ x : W64, (none : Option W64) = some x ∧ x.toNat ≤ T.tick.toNat := by simp

theorem test_WaitsEnd_buffer : (let s := WT (.cbwait 9 0x90000 1 false 0 (some 0))
    (match (s.postOnce (.cbwaitReturn 3)).buffer 0x90000 .read kRead with
     | .go v (c, b) => (match v.headerRead 0x90000 c b with | .go _ h => decide ((1#64).toNat ≤ h.cap) && decide ((1#64).toNat ≤ h.avail) | _ => false)
     | _ => false) = true ∧
    (match (s.postOnce (.cbwaitTimeout 3)).buffer 0x90000 .read kRead with
     | .go v (c, b) => (match v.headerRead 0x90000 c b with | .go _ h => decide ((1#64).toNat ≤ h.cap) | _ => false)
     | _ => false) = true) := by decide +kernel

theorem test_WaitsEnd_events : (WT (.swait 9 2 (some 0))).hart.wait = some (.swait 9 2 (some 0)) ∧ ((WT (.swait 9 2 none)).swaitTest 2).2 = 0 ∧
    (WT (.wfe 9 (some 0))).hart.latch = false ∧ ((WT (.wfe 9 none)).upd (fun h => { h with latch := true })).hart.latch = true := by decide +kernel

/-! ## Events of the bank plane -/

/-- A bank command of the test hart. -/
def bcmd (f : BankCmd → BankCmd) : BankCmd :=
  f { id := 4, copy := false, place := some 3, cnum := 0, node := none, ctx := 7, vf := 0, stack := 0, barrier := none, rel := false, total := 0, invs := [],
      dst := 0, src := 0, row := 0, drow := 0, count := 0, moved := 0, tag := 0, code := 0, cause := 0, ecode := 0, errRow := 0, pages := [], msg := 3, probed := [] }

/-- The page of `B` with a command. -/
def BE (c : BankCmd) : State := { B 0x200000 0 0 with bcmds := [c], nextId := 100 }

/-- What a probe comes to. -/
def probed (s : State) (ia : Nat) : Option Nat := match s.probe (bcmd id).who 0 ia .both with | (_, .ok _) => some 0 | (_, .fault f) => some f.code | _ => none

theorem test_BankProbes : (let c := bcmd (fun c => { c with pages := [0] })
    (BE c).bcmdAt c.id = some c ∧ c.invs = [] ∧ c.code = 0 ∧ c.pages[c.probed.length]? = some 0 ∧ probed (BE c) 0 = some 0 ∧ c.sent = false ∧
    c.pages ≠ [] ∧ c.probed.length < c.pages.length) ∧ probed (BE (bcmd id)) (2 ^ 48) = some 0x33 ∧
    (let c := bcmd (fun c => { c with pages := [0], probed := [(0, 5)] })
     c.pages.length ≤ c.probed.length ∧ (BE c).windowFull (invFrom c.place c.stack) (c.probed.map (fun q => keyDie q.2.toNat)) = false ∧
     ({ BE c with invs := List.replicate 32 (inv (fun v => { v with st := .sent })) } : State).windowFull (invFrom c.place c.stack)
       (c.probed.map (fun q => keyDie q.2.toNat)) = true) ∧
    (bcmd (fun c => { c with code := 2 })).code ≠ 0 := by decide +kernel

/-- Thirty-two invocations of the hart to the die are not acknowledged. -/
theorem test_BankOperations_full : bkops { B 0x200000 3 0 with
    invs := List.replicate 32 (inv (fun v => { v with st := .sent })), bcmds := [bcmd (fun c => { c with place := some (B 0x200000 3 0).hart.place })] }
    0x200000 3 0 0 = some (3, 1) := by decide +kernel

/-- An invocation in its die's queue, with an image in slot 0. -/
def IQ (v : Inv) (q : List Nat) : State := (U v).setDie 0 { queue := q, slots := [(0, [0xF000])] }

theorem test_Invocations_arrival : (let v := inv (fun v => { v with st := .sent })
    let s := IQ v []
    s.invAt v.id = some v ∧ (s.getSender (senderStack (s.invSender v)) (s.invSender v)).waiting = false ∧ s.dieFenced v.die = false ∧
    (∀ q ∈ s.invs, q.st = .sent → q.die = v.die → v.id ≤ q.id) ∧ (s.getDie v.die).queue.length < 256 ∧
    256 ≤ ((IQ v (List.replicate 256 1)).getDie v.die).queue.length) := by decide +kernel

theorem test_Invocations_start : (let v := inv (fun v => { v with st := .queued })
    let s := IQ v [5]
    s.invAt v.id = some v ∧ (s.getDie v.die).queue = [v.id] ∧ s.mayStart v [] = true ∧ (s.pageLeaf v).2 = false ∧ sget [] (s.getDie v.die).slots v.h ≠ [] ∧
    s.computing (64 * v.die + v.bank) = false) ∧
    (let v := inv (fun v => { v with st := .queued, h := 1 })
     let s := IQ v [5]
     s.invAt v.id = some v ∧ s.mayStart v [] = true ∧ sget [] (s.getDie v.die).slots v.h = []) ∧
    (let v := inv (fun v => { v with st := .queued })
     let s : State := { IQ v [5] with stk := [(0, { rasFdie := 1 })] }
     (s.getDie v.die).queue = [v.id] ∧ s.dieFenced v.die = true) := by decide +kernel

/-- An invocation whose CPYB goes to bank 1, and one that runs there. -/
def cpyInv : Inv := inv (fun v => { v with st := .cpyWait, cpy := some (2 ^ 26, 0, 0) })

theorem test_DieEvents_copy : (U cpyInv).invAt cpyInv.id = some cpyInv ∧ (U cpyInv).computing cpyInv.destBank = false ∧ (U cpyInv).locks = [] ∧
    (U cpyInv).cpyRecent cpyInv.die (cpyInv.destBank % 64) = false ∧ cpyInv.waits = false ∧ cpyInv.st = .cpyWait ∧ cpyInv.cpy = some (2 ^ 26, 0, 0) ∧
    (let v := inv (fun v => { v with st := .cpyWait, cpy := some (2 ^ 26, 0, 0), waits := true })
     (U v).invAt v.id = some v ∧ v.st = .cpyWait ∧ v.waits = true) ∧
    (U cpyInv).psn = [] ∧ (U cpyInv).uioLost = [] ∧ (U cpyInv).ownerOf (2 ^ 26 / 2 ^ 20) = none ∧
    (match (U cpyInv).peekLeaf 0 with | some (_, e, _) => !pteTracked e && pteMod e | none => false) = true := by decide +kernel

/-- An invocation with corrupted words in row 2. -/
def badInv (n : Nat) : Inv := inv (fun v => { v with st := .correcting, errRow := 2, corrections := n })

/-- Its page. -/
def EC (n e : Nat) : State := { U (badInv n) with ecc := [((badInv n).rowKey 2, e)] }

theorem test_DieEvents_errors : (EC 0 1).rowErrors ((badInv 0).rowKey (badInv 0).errRow.toNat) = [(badInv 0).rowKey 2] ∧
    badSymbols (sget 0 (EC 0 1).ecc ((badInv 0).rowKey 2)) = 1 ∧ (EC 0 1).psn = [] ∧ (badInv 0).st = .correcting ∧ (badInv 0).corrections + 1 ≤ 16 ∧ 17 ≤ (badInv 16).corrections + 1 ∧
    (EC 16 1).rowErrors ((badInv 16).rowKey (badInv 16).errRow.toNat) = [(badInv 16).rowKey 2] ∧
    badSymbols (sget 0 (EC 0 3).ecc ((badInv 0).rowKey 2)) = 3 ∧ (EC 0 3).rowErrors ((badInv 0).rowKey (badInv 0).errRow.toNat) = [(badInv 0).rowKey 2] ∧
    badSymbols (sget 0 (EC 0 2).ecc ((badInv 0).rowKey 2)) = 2 ∧ (EC 0 2).rowErrors ((badInv 0).rowKey (badInv 0).errRow.toNat) = [(badInv 0).rowKey 2] := by decide +kernel

/-- An access of the host that waits at bank 0. -/
def waiting_ : SlotWait := { unit := 9, cmd := 0, key := 64, len := 64, ctx := 3 }

theorem test_DieEvents_banks : (let s : State := { U (inv id) with waits := [waiting_] }
    s.computing 0 = true ∧ s.slotOpen 0 = false ∧ s.oldestWait 0 = some waiting_ ∧
    sget 0 (s.getDie 0).counts 0 < 10 * max 4 (s.getDie 0).slotn.toNat ∧
    (let s := s.setDie 0 { counts := [(0, 40)] }
     s.computing 0 = true ∧ s.oldestWait 0 = some waiting_ ∧ 10 * max 4 (s.getDie 0).slotn.toNat ≤ sget 0 (s.getDie 0).counts 0)) ∧
    (U (inv id)).computing 0 = true ∧ (U (inv id)).slotOpen 0 = false ∧ (U (inv id)).oldestWait 0 = none ∧ T.computing 0 = false ∧
    (let sum (s : State) := ((List.range 256).map (fun i => if i = 0 then (s.getDie 0).energy else (s.getDie i).lastEnergy)).sum
     sum T ≤ 234375 * T.plat.capBank.toNat ∧
     (let s := T.setDie 0 { energy := 234375 * T.plat.capBank.toNat + 1 }; 234375 * s.plat.capBank.toNat < sum s)) ∧
    T.dieFenced (65535 / 2 ^ 22) = false ∧ T.locks = [] ∧ T.waits = [] ∧ T.computing (65535 / 65536) = false ∧ T.ecc = [] ∧ 65535 % 64 = 63 := by decide +kernel

theorem test_BankEnds_locks : (let l := lockOf 9 7
    let s := { BL [l] with tick := 1000000 }
    s.locks = [l] ∧ l.isHeld = true ∧ l.since.toNat + max 1000 (min 1000000 (s.getDie l.die).lkmax.toNat) ≤ s.tick.toNat ∧
    (BL [l]).tick.toNat < l.since.toNat + max 1000 (min 1000000 ((BL [l]).getDie l.die).lkmax.toNat)) ∧
    (let l := { lockOf 9 7 with isHeld := false }
     l.isHeld = false ∧ l.expired = false ∧ (BL [l]).lockBlocked l = false ∧
     ({ BL [l] with invs := [inv (fun v => { v with sub := 16, ctx := 99 })] } : State).lockBlocked l = true) := by decide +kernel

theorem test_BankEnds_loads : (let s := (T.setDie 0 { loading := [(2, T.hart.place, [0xF000])] }).upd (fun h => { h with wait := some (.wickload 9 0 2 [0]) })
    (s.getDie 0).loading.find? (fun q => decide (q.1 = 2)) = some (2, s.hart.place, [0xF000]) ∧ (∀ v ∈ s.invs, v.die = 0 → v.h = 2 → v.st.active = false) ∧
    s.hart.wait = some (.wickload 9 0 2 [0]) ∧ (s.upd (fun h => { h with wait := some (.wickload 9 0 2 [0, 1]) })).hart.wait = some (.wickload 9 0 2 [0, 1])) := by
  decide +kernel

theorem test_BankEnds_commands : (let c := bcmd (fun c => { c with invs := [5] })
    let v := inv (fun v => { v with st := .ended })
    let s := { BE c with invs := [v] }
    s.bcmdAt c.id = some c ∧ c.invs ≠ [] ∧ c.barrier = none ∧ s.invs.filter (fun q => decide (q.cmd = c.id)) = [v] ∧ v.st = .ended ∧ v.idx = 0 ∧ v.ecode ≠ 8) ∧
    (let c := bcmd (fun c => { c with sent := true })
     (BE c).signals = [] ∧ c.place = some (BE c).hart.place) ∧
    (let c := bcmd (fun c => { c with copy := true, count := 1, dst := 0x100000, moved := 0 })
     let s := { BC 0x300000 0 with bcmds := [c] }
     c.moved < c.count ∧ s.behindInvs c = false ∧ (match s.engineRead c.who (c.src + 1024 * (c.row + c.moved)) 1024 with
      | (u, .ok l) => l.all (fun b => b.2 = none) && (match u.engineWrite c.who (c.dst + 1024 * (c.drow + c.moved)) (l.map (·.1)) (genMax c.tag (u.unitGen c.who.unit)) with
        | (z, .ok ()) => decide (z.bcmds = s.bcmds)
        | _ => false)
      | _ => false) = true) ∧
    (bcmd (fun c => { c with copy := true })).count ≤ (bcmd (fun c => { c with copy := true })).moved := by decide +kernel

/-! ## Generations -/

/-- The sequencer is enabled, on stack 0. -/
def G : State := { T with stk := [(0, { gsctlEn := true, gsres2 := 0, gsda0 := 0x10000 })], gens := { dev := 1 } }

/-- A state of the two slots. -/
def slots (s : State) (a b : GSlot) : State := { s with gens := { s.gens with slot0 := a, slot1 := b } }

theorem test_GenerationControl : (∀ e ∈ T.stk, e.2.gsctlEn = false) ∧ (1#64).getLsbD 0 = true ∧ (G.getStk 0).gsctlEn = true := by decide

theorem test_Flips : G.fenced (G.getStk 0).gsctlSeq.toNat = false ∧ (G.getStk (G.getStk 0).gsctlSeq.toNat).gsctlEn = true ∧
    ({ G with gens := { G.gens with snapq := [3] } } : State).gens.snapq = 3 :: [] ∧ G.gens.settling = none ∧ G.gens.freeSlot = some 0 ∧
    (slots G { state := 1 } { state := 2 }).gens.freeSlot = none ∧ (T.getStk (T.getStk 0).gsctlSeq.toNat).gsctlEn = false ∧
    ({ G.gens with settling := some 0 } : Gens).settling = some 0 := by decide

theorem test_Flips_units : nmem 3 ({ G.gens with lag := [3] } : Gens).lag = true ∧ nmem 3 G.gens.lag = false ∧ 3 = G.hart.place ∧
    (let s : State := { G.upd (fun h => { h with wait := some (.snap 9) }) with gens := { G.gens with answers := [(3, 5)] } }
     s.gens.answers.find? (fun q => decide (q.1 = s.hart.place)) = some (s.hart.place, 5) ∧ s.hart.wait = some (.snap 9)) := by decide

theorem test_Settling : (let g : Gens := { dev := 2, unsettled := [3], settling := some 0, slot0 := { g := 1, state := 1 } }
    let s : State := { G with gens := g }
    nmem 3 s.gens.unsettled = true ∧ nmem 3 s.gens.lag = false ∧ s.gens.settling = some 0 ∧ s.sentOlder 3 = false ∧ nrem 3 s.gens.unsettled = [] ∧
    nrem 3 [3, 10000] ≠ [] ∧ ({ s with updates := [{ upd_ false [] with place := some 3, unit := 3, tag := 1 }] } : State).sentOlder 3 = true) := by decide +kernel

/-- A frame for block 0. -/
def frameOf (rows : BitVec 64) (slots : List Nat) : Frame := { id := 40, block := 0, die := 0, slots := slots, rows := rows, mask := [], bytes := [], psn := [], enc := [] }

theorem test_Preservation : (let r := req .host 128 .write .engine
    let s := R P r
    s.reqAt r.id = some r ∧ (match s.reqPieces r .write with
     | (u, .ok [p]) => (match u.readyWrite (u.reqWho r) p r.tag with
       | (v, true) => decide (v.psn = []) && decide (v.ecc = []) && decide (v.stale = []) && decide (v.uioLost = []) && decide (v.encKey = []) &&
           decide (p.len = r.n) && !pteRepl p.pte && !pteTracked p.pte && !pteEnc p.pte && pteMod p.pte && decide (p.key < 2 ^ 60)
       | _ => false)
     | _ => false) = true) := by decide +kernel

theorem test_Preservation_frames : (let f := frameOf 1 [0]
    let s : State := { P with gens := { G.gens with frames := [f] } }
    s.getFrame 40 = some f ∧ (∀ j < 1, f.rows.getLsbD j = true) ∧ f.rows.getLsbD 1 = false ∧ (s.peekKey (65536 * f.block)).isSome = true ∧ s.locks = [] ∧ s.invs = [] ∧ s.waits = []) ∧
    (frameOf (BitVec.allOnes 64) []).rows = BitVec.allOnes 64 ∧ (frameOf 1 []).slots = [] ∧ (frameOf 1 [0]).slots ≠ [] := by decide +kernel

/-- The page of `P`, whose die keeps no frames; slot 0's write to block 0 waits for one since tick 0. -/
def PS : State := { slots P { state := 1, stalls := [(0, 0)] } {} with stk := P.stk.map (fun e => (e.1, { e.2 with gsctlRsv := 0 })) }

theorem test_Preservation_timeouts : (let s : State := { PS with tick := 2000000 }
    (s.gens.slot 0).stalls.filter (fun q => s.stalled 0 q.1) = (0, 0) :: [] ∧ (s.gens.slot 0).timedOut = false ∧
    (s.getStk (s.getStk 0).gsctlSeq.toNat).gsctlRtmo.toNat ≤ (s.tick - 0).toNat) ∧
    PS.stalled 0 0 = true ∧ (PS.tick - 0).toNat < (PS.getStk (PS.getStk 0).gsctlSeq.toNat).gsctlRtmo.toNat ∧
    (∀ q ∈ ((slots P { state := 1, stalls := [(0, 0)] } {}).gens.slot 0).stalls, (slots P { state := 1, stalls := [(0, 0)] } {}).stalled 0 q.1 = false) := by
  decide +kernel

/-- Slot 0 drains; block 0, a tracked page of stack 0's tree, in a state; its drain area has 1 GiB, or nothing. -/
def DR (st : BlockState) (f : Option Nat) (da : BitVec 28) : State :=
  { TT with
    mem := [(0x10000, 1), (0x10003, 2), (0x20000, 1), (0x20003, 3), (0x30000, 0x4F), (0x30001, 0x84), (0x30002, 1), (0x30004, 1)]
    stk := [(0, { trootV := true, troot := 8, gsctlEn := true, gsda0 := da })]
    gens := { dev := 2, slot0 := { g := 1, state := 2 }, blocks := [(0, { st := st, frame := f })], frames := [frameOf (BitVec.allOnes 64) [0]] } }

theorem test_Drain : (DR .PR (some 40) 0x10000).drainArea 0 = (2 ^ 44, 2 ^ 30) ∧ nmem 0 ((DR .PR (some 40) 0x10000).undrained 0) = true ∧
    ((DR .PR (some 40) 0x10000).getBlock 0 0).st = .PR ∧ ((DR .PR (some 40) 0x10000).getBlock 0 0).frame = some 40 ∧
    (DR .PR (some 40) 0x10000).getFrame 40 = some (frameOf (BitVec.allOnes 64) [0]) ∧
    nmem 0 ((DR .LO none 0x10000).undrained 0) = true ∧ ((DR .LO none 0x10000).getBlock 0 0).st = .LO ∧
    nmem 0 ((DR .SH none 0x10000).undrained 0) = true ∧ (DR .SH none 0x10000).stale = [] ∧ ((DR .SH none 0x10000).peekLeaf 0).isSome = true := by decide +kernel

theorem test_Drain_clean : rowsClean (DR .SH none 0x10000) ∧ (DR .SH none 0x10000).locks = [] ∧ (DR .SH none 0x10000).invs = [] ∧
    (DR .SH none 0x10000).waits = [] ∧ 0 < ((DR .SH none 0x10000).drainArea 0).2 ∧ (DR .LO none 0).undrained 0 ≠ [] ∧
    (frameOf (BitVec.allOnes 64) [0]).ecc = [] ∧ (frameOf (BitVec.allOnes 64) [0]).stale = 0 ∧ (frameOf (BitVec.allOnes 64) [0]).psn = [] ∧ 2 ^ 44 + 64 + 65600 ≤ 2 ^ 44 + 2 ^ 30 ∧ (DR .LO none 0).drainArea 0 = (2 ^ 44, 0) ∧
    nmem 0 ((DR .LO none 0).undrained 0) = true ∧ nmem 9 ((DR .LO none 0).undrained 0) = false ∧ (slots G { state := 2 } {}).undrained 0 = [] :=
  ⟨⟨rfl, rfl, rfl⟩, rfl, rfl, rfl, by decide +kernel, by decide +kernel, rfl, rfl, rfl, by decide, by decide +kernel, by decide +kernel, by decide +kernel,
    by decide +kernel⟩

/-- A service waits in mailbox 0 of stack 0. -/
def MB (b : Mailbox) : State := { slots G { g := 5, state := 3 } {} with stk := [(0, { gsctlEn := true, boxes := [(0, b)] })] }

theorem test_Mailboxes : ((MB { go := true, svc := 2 }).getBox 0 0).go = true ∧ ((MB { go := true, svc := 2 }).getBox 0 0).svc ≠ 1 ∧
    ((MB { go := true, svc := 1 }).getBox 0 0).svc = 1 ∧ 0 = ((MB { go := true, svc := 1 }).getStk 0).gsctlSeq.toNat ∧
    (MB { go := true, svc := 1 }).plat.rollback = none ∧
    (∀ j < 2, ((MB { go := true, svc := 1 }).gens.slot j).state = 3 → ((MB { go := true, svc := 1 }).gens.slot j).g ≠ ((MB { go := true, svc := 1 }).getBox 0 0).arg0.extractLsb' 0 32) ∧
    (let s := MB { go := true, svc := 1, arg0 := 5 }
     let w : State := { s with plat := { s.plat with rollback := some 0 } }
     s.drainedSlot ((s.getBox 0 0).arg0.extractLsb' 0 32) = some 0 ∧ (w.rollAll 0 (w.rollBlocks 0 (s.getBox 0 0).arg1)).2 = true ∧
     (w.rollAll 0 (w.rollBlocks 0 (s.getBox 0 0).arg1)).1.stk = s.stk ∧
     (∀ h ∈ s.hart :: s.harts, h.lamp = true ∨ ∀ q ∈ w.rollBlocks 0 (s.getBox 0 0).arg1, (s.getCtx h.ctxKey).mapsBlock q.1 = false)) := by decide +kernel

theorem test_Mailboxes_others : (let s := MB { go := true, svc := 1 }
    let b : State := { s with plat := { s.plat with rollback := some 5 } }
    b.plat.rollback = some 5 ∧ 5 ≠ 16 * 0 + 0) ∧
    (let s := (MB { go := true, svc := 1 }).setStk 1 { boxes := [(0, { go := true, svc := 1 })] }
     (s.getBox 1 0).go = true ∧ (s.getBox 1 0).svc = 1 ∧ 1 ≠ (s.getStk 0).gsctlSeq.toNat) := by decide

/-! ## Nodes, gangs and submissions -/

/-- A hart node of stack 0 with tag 9, of a gang of two, or alone. -/
def node (gang gsize : Nat) (f : Node → Node) : Node :=
  f (freshNode [BitVec.ofNat 64 (2 ^ 16 + 2 ^ 40 * gang), 0, 0, 0, 0, 9, 0, BitVec.ofNat 64 (2 ^ 48 * gsize), 0, 0, 0, 0, 0, 0, 0, 0] 0)

/-- The lamplighter's state with the node. -/
def N (n : Node) : State := { L with nodes := [n] }

theorem test_Decrements : (let n := node 0 0 (fun n => { n with id := 60, count := 1 })
    let s := { N n with decOut := [(0, 0, 0, 9)] }
    (s.getSender 0 ((16 * 0 + 0) * 2 + 1)).waiting = false ∧ s.fenced 0 = false ∧
    s.nodes.find? (fun n => decide (n.home = 0) && decide (n.vf = 0) && decide (n.tag = 9)) = some n ∧ s.nodeAt n.id = some n ∧ 0 < n.count) ∧
    (node 0 0 (fun n => { n with id := 60 })).count = 0 ∧
    (N (node 0 0 id)).nodes.find? (fun n => decide (n.home = 0) && decide (n.vf = 0) && decide (n.tag = 8)) = none ∧ (L.getStk 0).decs.length < 1024 ∧
    1024 ≤ ((L.setStk 0 { decs := List.replicate 1024 (0, 0) }).getStk 0).decs.length := by decide +kernel

theorem test_Decrements_senders : (L.getSender (senderStack 33) 33).waiting = false ∧
    (let s := L.setSender (senderStack 33) 33 { naks := 1, resendAt := 64, waiting := true }
     (s.getSender (senderStack 33) 33).waiting = true ∧ s.tick.toNat < (s.getSender (senderStack 33) 33).resendAt.toNat ∧
     (s.getSender (senderStack 33) 33).resendAt.toNat ≤ ({ s with tick := 64 } : State).tick.toNat) := by decide

/-- What the buffers of a node come to. -/
def bufs (s : State) (n : Node) : Option Nat :=
  match s.buffersOf n (upto 8) with
  | (u, .ready) => if u.nodes = s.nodes then some 0 else none
  | (u, .unmet) => if u.nodes = s.nodes then some 1 else none
  | (u, .fault c) => if u.nodes = s.nodes then some (2 + c) else none
  | _ => none

/-- A node of the test's context whose buffer 0 asks for a record of the FIFO, or of no buffer. -/
def nodeB (blk need : Nat) : Node :=
  freshNode [BitVec.ofNat 64 (2 ^ 16), 0, 0, 0, 0, BitVec.ofNat 64 (9 + 7 * 2 ^ 32), 0, 0, BitVec.ofNat 64 (need + blk * 2 ^ 16), 0, 0, 0, 0, 0, 0, 0] 0

theorem test_NodeStarts_fire : (N (node 0 0 id)).nodeAt 0 = some (node 0 0 id) ∧ (node 0 0 id).phase = 0 ∧ (node 0 0 id).count = 0 ∧
    (node 0 0 id).st = .waiting ∧ bufs (N (node 0 0 id)) (node 0 0 id) = some 0 ∧
    bufs (N (nodeB 9 1)) (nodeB 9 1) = some 1 ∧ bufs (N (nodeB 200 1)) (nodeB 200 1) = some (2 + 0x21) := by decide +kernel

theorem test_NodeStarts_dispatch : (let n := node 0 0 (fun n => { n with st := .ready })
    let s := N n
    s.nodeAt n.id = some n ∧ s.dispatchable n.home = n :: [] ∧ n.kind = 0 ∧ s.grantFits n 16 = true ∧ s.grantable n = true ∧ n.gang = 0 ∧
    (match s.loadImage n (s.nodeHart n 16) with | (u, .hart _) => decide (u.nodes = s.nodes) | _ => false) = true) ∧
    (let n := node 5 2 (fun n => { n with st := .ready })
     let s := N n
     s.dispatchable n.home = n :: [] ∧ s.grantFits n 16 = true ∧ s.grantable n = true ∧ n.gang ≠ 0 ∧ s.gangOf n.vf n.gang = none) := by decide +kernel

theorem test_Scheduling : L.fenced 0 = false ∧ (∀ e ∈ L.vfs, e.2.fetched = 0) ∧ L.dispatchable 0 = [] ∧
    ({ L with plat := { L.plat with fstk := 1 } } : State).fenced 0 = true ∧
    (let n := node 0 0 (fun n => { n with st := .ready, skipAt := some 0, desc := n.desc.set 0 (BitVec.ofNat 64 (2 ^ 16 + 60)) })
     let s := { N n with tick := 256000 }
     s.dispatchable 0 = [n] ∧ n.skipAt = some 0 ∧ s.prioOf n = 15 ∧ (0#64).toNat + 256000 ≤ s.tick.toNat ∧ (s.getStk 0).resv = none ∧
     (N n).tick.toNat < (0#64).toNat + 256000) := by decide +kernel

theorem test_NodeCompletion : (let n := node 0 0 (fun n => { n with id := 60, phase := 1 })
    (N n).nodeAt n.id = some n ∧ n.cell = 0) ∧
    (let n := node 0 0 (fun n => { n with id := 60, phase := 2 })
     (N n).signalled n.id = false ∧ ({ N n with signals := [{ id := 1, ia := 0, d := 0, f := false, lvl := .app, vf := 0, ctx := 0, stack := 0, unit := 0, tag := 0, owner := 60 }] } : State).signalled n.id = true) ∧
    (let n := node 0 0 (fun n => { n with id := 60, phase := 3 }); n.nsucc = 0) ∧
    (let n := node 0 0 (fun n => { n with id := 60, phase := 3, desc := (n.desc.set 6 (BitVec.ofNat 64 (2 ^ 48 + 128))).set 5 (BitVec.ofNat 64 (9 + 7 * 2 ^ 32)) })
     n.nsucc = 1 ∧ (match (N n).readVa n.who ((N n).getCtx n.ctx) n.slist 8 with | (u, .ok e) => !u.decsFull n.home (e / 2 ^ 32 % 16) | _ => false) = true ∧
     (let s : State := { N n with decOut := List.replicate 32 (0, 0, 0, 9) }
      (match s.readVa n.who (s.getCtx n.ctx) n.slist 8 with | (u, .ok e) => u.decsFull n.home (e / 2 ^ 32 % 16) | _ => false) = true)) := by decide +kernel

/-- A gang's coordinator on stack 0. -/
def gang (f : Gang → Gang) : Gang := f { vf := 0, gang := 5, coord := 0, readys := [], acks := [], t := 0, started := false, aborts := 0, attempt := 0 }

/-- A participant and its gang. -/
def NG (n : Node) (g : Gang) : State := { N n with gangs := [g] }

/-- The same on part 1, which has met part 0. -/
def NA (n : Node) (g : Gang) : State := (({ NG n g with stk := [(0, { glPart := 1 })] } : State)).setGlow 5 { state := 2, met := true }

theorem test_Gangs_away : (let n := node 5 2 (fun n => { n with id := 60, gst := .readySent, bind := some 16 })
    let g := gang (fun g => { g with started := true, t := 100000000 })
    let s := NA n g
    s.gangFor n.id = some (n, g) ∧ s.gangAway = true ∧ n.attempt = g.attempt ∧ (∀ m ∈ s.gangNodes n.vf n.gang, m.gst ≠ .none ∧ m.attempt = g.attempt) ∧
    s.tick.toNat + 1000 * min (s.getStk 0).glead.toNat (s.getStk 0).gmarg.toNat < g.t.toNat ∧ n.bind.isSome = true ∧
    ¬ (s.tick.toNat + 1000 * min (s.getStk 0).glead.toNat (s.getStk 0).gmarg.toNat < (gang (fun g => { g with started := true })).t.toNat)) ∧
    (let n := node 5 2 (fun n => { n with id := 60, gst := .acked, bind := some 16 }); n.gst = .acked ∧ n.phase = 0) := by decide +kernel

theorem test_GangStarts : (let n := node 5 2 (fun n => { n with id := 60, gst := .readySent, bind := some 16 })
    let g := gang id
    (NG n g).gangFor n.id = some (n, g) ∧ (NG n g).gangAway = false ∧ nmem n.id g.readys = false ∧ g.readys.length + 1 < n.gsize ∧
    (gang (fun g => { g with readys := [61] })).readys.length + 1 = n.gsize ∧ n.gsize ≤ (gang (fun g => { g with readys := [61, 62] })).readys.length) ∧
    (let n := node 5 2 (fun n => { n with id := 60, gst := .readySent, bind := some 16 })
     let g := gang (fun g => { g with started := true, t := 100000000 })
     let s := NG n g
     s.gangFor n.id = some (n, g) ∧ s.tick.toNat + 1000 * min (s.getStk 0).glead.toNat (s.getStk 0).gmarg.toNat < g.t.toNat ∧ n.bind.isSome = true ∧
     (gang (fun g => { g with started := true })).t.toNat ≤ s.tick.toNat + 1000 * min (s.getStk 0).glead.toNat (s.getStk 0).gmarg.toNat) ∧
    (let n := node 5 2 (fun n => { n with id := 60, gst := .acked, bind := some 16, startT := 100000000 })
     let g := gang (fun g => { g with started := true, t := 100000000, readys := [60, 61] })
     let s := NG n g
     s.gangFor n.id = some (n, g) ∧ nmem n.id g.acks = false ∧ s.tick.toNat + 1000 * min (s.getStk 0).glead.toNat (s.getStk 0).gmarg.toNat / 2 < g.t.toNat ∧
     g.acks.length + 1 < g.readys.length ∧ (gang (fun g => { g with readys := [60, 61] })).readys.length ≤ (gang (fun g => { g with acks := [61] })).acks.length + 1 ∧
     s.tick.toNat < n.startT.toNat ∧ n.startT.toNat ≤ ({ s with tick := 100000000 } : State).tick.toNat ∧
     (match s.loadImage n (s.nodeHart n (n.bind.getD 0)) with | (u, .hart _) => decide (u.nodes = s.nodes) | _ => false) = true) := by decide +kernel

theorem test_GangAborts : (let n := node 5 2 (fun n => { n with id := 60, gst := .readySent })
    let g := gang (fun g => { g with started := true, readys := [60] })
    let s := NG n g
    s.gangFor n.id = some (n, g) ∧ s.gangAway = false ∧ nmem n.id g.readys = true ∧ nmem n.id (gang id).readys = false ∧
    s.tick.toNat + 1000 * min (s.getStk g.coord).glead.toNat (s.getStk g.coord).gmarg.toNat / 2 < (100000000 : W64).toNat ∧ n.attempt = g.attempt ∧ n.attempt ≠ (gang (fun g => { g with attempt := 1 })).attempt ∧
    g.t.toNat ≤ s.tick.toNat + 1000 * min (s.getStk g.coord).glead.toNat (s.getStk g.coord).gmarg.toNat / 2 ∧ g.acks.length < g.readys.length ∧
    (gang (fun g => { g with started := true })).readys.length ≤ (gang (fun g => { g with started := true })).acks.length ∧ n.phase = 0) ∧
    (node 5 2 (fun n => { n with id := 60 })).gst = .none ∧
    (let n := node 5 2 (fun n => { n with id := 60, gst := .readySent })
     let s := NG n (gang id)
     (gang id).started = false ∧ s.tick.toNat < n.sentAt.toNat + 4 * (1000 * (s.getStk n.home).glead.toNat) ∧
     n.sentAt.toNat + 4 * (1000 * (s.getStk n.home).glead.toNat) ≤ ({ s with tick := 100000000 } : State).tick.toNat) := by decide +kernel

theorem test_SubmissionBlocks : (T.getVf 0).flr = false ∧ (T.getVf 0).entries.length < 256 ∧
    256 ≤ ((T.setVf 0 { entries := List.replicate 256 (0, 0) }).getVf 0).entries.length ∧ ((T.setVf 0 { entries := List.replicate 256 (0, 0) }).getVf 0).flr = false := by
  decide +kernel

/-! ## Copies, arrivals and matrix operations -/

/-- A copy with one segment of 300 bytes from cluster SRAM to Lantern SRAM. -/
def seg (f : Copy → Copy) : Copy := f { copyOf .sent with segs := [(0x8000000000200, 0x9000000000000, 300)], total := 300 }

/-- The test hart with the copy. -/
def CS (c : Copy) : State := { T with copies := [c], nextId := 100 }

theorem test_CopyStarts : (CS (seg id)).copyAt (seg id).id = some (seg id) ∧ (seg id).st = .sent ∧ (seg id).arr = 0 ∧ (seg id).code = 0 ∧
    (CS (seg id)).bufferEnd 0x8000000000200 = none ∧ (CS (seg id)).bufferEnd 0x9000000000000 = none ∧
    (seg (fun c => { c with code := 4 })).code ≠ 0 ∧ (seg (fun c => { c with code := 4 })).pushBank = none ∧
    (let c := seg (fun c => { c with barrier := some 0x8000000000040, arr := 1 })
     c.armed = false ∧ ((CS c).engineCell c.who 0x8000000000040 ((CS c).copyTag c) (fun b => b.arm c.total)).2 = true ∧
     ((CS c).engineCell c.who 0x8000000000040 ((CS c).copyTag c) (fun b => b.arm c.total)).1.copies = (CS c).copies) ∧
    chunksOf none none 0 (seg id).segs ≠ [] ∧ inDev 0x8000000000200 = false ∧ inDev 0x9000000000000 = false ∧ inDev 0xA000000000000 = true := by
  decide +kernel

theorem test_CopyStarts_buffers : (let c := seg (fun c => { c with st := .waiting, pushBank := some (1, 8), total := 32 })
    let s := CS c
    let h := s.header (1 / 32) (1 % 32)
    c.popBank = none ∧ chunksOf (some (h.ring 1 h.prod)) none 0 c.segs ≠ [] ∧ (s.getBank (1 / 32) (1 % 32)).mode = 2 ∧ (s.getBank (1 / 32) (1 % 32)).busy = false ∧
    c.total / 8 ≤ (s.header (1 / 32) (1 % 32)).free) ∧
    (let c := seg (fun c => { c with st := .waiting, pushBank := some (1, 8), total := 320 }); ((CS c).header (1 / 32) (1 % 32)).free < c.total / 8) ∧
    ((CS (seg id)).getBank (0 / 32) (0 % 32)).mode ≠ 2 := by decide +kernel

theorem test_CopyStarts_rounds : (let c := seg (fun c => { c with st := .moving, chunks := chunksOf none none 0 c.segs })
    c.cls < 4 ∧ c.code = 0 ∧ c.chunks ≠ [] ∧ c.issued = 0 ∧ c.done = [] ∧ c.failed = 0 ∧ c.cls ≠ 3) ∧
    (let s : State := { slots G { state := 2, visit := some 0, arr := 4 } {} with stk := [(0, { gsctlEn := true })] }
     s.copies = [] ∧ s.drains 0 = [(4, 0, 0)] ∧ (s.getStk 0).drained + max 1 ((s.getStk 0).cewgt.toNat / 2 ^ 24 % 256) < 513 ∧
     512 ≤ (({ s with stk := [(0, { gsctlEn := true, drained := 512 })] } : State).getStk 0).drained) := by decide +kernel

theorem test_CopyMoves : (let c := seg (fun c => { c with st := .moving, issued := 1, chunks := [[(0x8000000000200, 0x9000000000000, 128)]] })
    let s := CS c
    s.copyAt c.id = some c ∧ c.dev = false ∧ inDev 0x8000000000200 = false ∧ inDev 0x9000000000000 = false ∧ nmem 0 c.done = false ∧ c.chunks.getD 0 [] = [(0x8000000000200, 0x9000000000000, 128)] ∧ c.barrier = none ∧
    (match s.engineRead c.who 0x9000000000000 128 with
     | (u, .ok l) => decide (u.copies = s.copies) && l.all (fun b => b.2 = none) && (match u.engineWrite c.who 0x8000000000200 (l.map (·.1)) (u.copyTag c) with
       | (v, .ok ()) => decide (v.copies = s.copies)
       | _ => false)
     | _ => false) = true ∧
    (match s.engineRead c.who 0x1000000000000 128 with | (u, .fault _) => decide (u.copies = s.copies) | _ => false) = true) := by decide +kernel

theorem test_CopyMoves_takes : (let c := seg (fun c => { c with st := .moving, issued := 1, done := [0], chunks := [[(0x8000000000200, 0x9000000000000, 128)]], barrier := some 0x8000000000040, arr := 1 })
    c.taken < c.prefixLen ∧ (CS c).behindCopies c = false ∧
    (CS c).cmdReleased c.rel c.place c.id = (CS c, true) ∧ c.rel = false ∧ ({ c with rel := true } : Copy).st = .moving ∧
    ((CS c).engineCell c.who 0x8000000000040 ((CS c).copyTag c) (fun b => (b.update 0 (min 4096 (c.prefixLen - c.taken)) false (CS c).tick).word)).2 = true ∧
    ({ c with taken := 128 } : Copy).prefixLen ≤ ({ c with taken := 128 } : Copy).taken) := by decide +kernel

theorem test_CopyMoves_ends : (let c := seg (fun c => { c with st := .finishing, moved := 300 })
    c.sent = false ∧ (CS c).behindCopies c = false ∧ c.barrier = none ∧ (CS c).cmdReleased c.rel c.place c.id = (CS c, true)) ∧
    (let c := seg (fun c => { c with st := .finishing, moved := 300, rel := true, place := some 3 })
     let s : State := { CS c with updates := [{ upd_ false [] with place := some 3, owner := c.id }] }
     (s.cmdReleased c.rel c.place c.id).2 = false) ∧
    (let c := seg (fun c => { c with st := .finishing, moved := 300, barrier := some 64 })
     c.taken < c.moved ∧ ({ c with taken := 300, armed := true } : Copy).moved ≤ ({ c with taken := 300, armed := true } : Copy).taken) ∧
    (let c := seg (fun c => { c with st := .finishing, moved := 300, sent := true })
     let s : State := { CA .finishing with copies := [c] }
     s.signalled c.id = false ∧ c.saved = none ∧ c.place = some 3 ∧ c.slot = some 0 ∧
     (match s.resolve 3 0 (BitVec.ofNat 64 (c.code.toNat + 16 * b2n c.psn + 256 * c.cause + 2 ^ 16 * c.moved)) with
      | some u => decide (u.hart.place = 3)
      | none => false) = true) := by decide +kernel

/-- A completion signal. -/
def sig : Signal := { id := 70, ia := 0x8000000000040, d := 0, f := false, lvl := .app, vf := 0, ctx := 7, stack := 0, unit := 3, tag := 0, owner := 50 }

/-- A matrix operation of the test hart, at its bay. -/
def mop (f : MOp → MOp) : MOp :=
  f { id := 80, place := 3, stack := 0, bay := 0, cnum := 0, sub := 8, acc := 0, fmt := 0x12, slot := 0, units := 1, mx := false, m := 16, n := 64, k := 32, tctl := 0,
      ia := 0x9000000000000, pitch := 32, ofmt := 0, on := false, tol := 0, sa := [], saBad := [], ctx := 7, vf := 0, lvl := .app, barrier := none, rel := false, tag := 0,
      st := .waiting, arr := 1 }

/-- The hart with a bay, and the operation. -/
def MS (o : MOp) : State := { M with mops := [o] }

theorem test_ArrivalsAndBeats : (let s : State := { CS (copyOf .finishing) with signals := [sig] }
    s.signals.find? (fun q => decide (q.id = sig.id)) = some sig ∧
    (s.engineCell (engineWho sig.unit sig.stack sig.lvl sig.vf sig.ctx) sig.ia (genMax sig.tag (s.unitGen sig.unit)) (fun b => (b.update 1 sig.d sig.f s.tick).word)).2 = true) ∧
    (let o := mop (fun o => { o with pos := 0, beats := 3 })
     (MS o).mops = [o] ∧ o.st = .waiting ∧ o.arr ≠ 0 ∧ o.pos < 9 ∧ 0 < o.beats) ∧ (mop id).beats = 0 := by decide +kernel

theorem test_LayerLoadsAndProducts : (let o := mop (fun o => { o with sub := 1 })
    (MS o).mops = [o] ∧ o.arr ≠ 0 ∧ o.st = .waiting) ∧
    (let o := mop (fun o => { o with sub := 1, st := .running })
     let e := loadExtent o.k o.n o.fmt o.mx
     o.prog < e ∧ (match (MS o).engineRead o.who (o.ia + o.prog) (min (e - o.prog) (128 - (o.ia + o.prog) % 128)) with
      | (u, .ok l) => decide (u.mops = (MS o).mops) && decide (u.psn = []) && decide (u.ecc = []) && decide (u.stale = []) && decide (u.uioLost = []) && decide (u.encKey = []) &&
          decide (l.length = min (e - o.prog) (128 - (o.ia + o.prog) % 128)) && l.all (fun b => b.2 = none)
      | _ => false) = true ∧ e ≤ ({ o with prog := 2048 } : MOp).prog) := by decide +kernel

theorem test_LayerLoadsAndProducts_mma : ((MS (mop id)).getSlot (64 * (64 * 0 + 0) + 0)).valid = false ∧
    (let s := (MS (mop id)).setSlot 0 { valid := true, k := 64, n := 64 }; (s.getSlot 0).valid = true ∧ (s.getSlot 0).k ≠ (mop id).k) ∧
    (let s := (MS (mop id)).setSlot 0 { valid := true, k := 32, n := 64 }; (s.getSlot 0).k = (mop id).k ∧ (s.getSlot 0).n = (mop id).n) ∧
    (let o := mop (fun o => { o with st := .running, prog := 512 })
     o.m * (o.k * formatBits o.fmt / 8) ≤ o.prog ∧ (MS o).psn = [] ∧ o.bad = [] ∧ o.saBad = [] ∧ ((MS o).getTile (8 * o.place + o.acc)).psn = [] ∧
     ((MS o).getTile (8 * o.place + o.acc)).chk = false ∧ 0 < o.n) ∧
    (let o := mop (fun o => { o with st := .running })
     o.prog < o.m * (o.k * formatBits o.fmt / 8) ∧ winOf (MS o).ownPart 0x9000000000000 = some (.sram 0 0) ∧ (MS o).sramAllows 0 0 32 .amo = true ∧
     (match (MS o).engineRead o.who 0x9000000000000 32 with | (u, .ok l) => decide (u.mops = (MS o).mops) && l.all (fun b => b.2 = none) | _ => false) = true) ∧
    (mop (fun o => { o with sub := 2 })).sub = 2 := by decide +kernel

theorem test_StoresAndChecksums : (let o := mop (fun o => { o with sub := 3 })
    (MS o).mops = [o] ∧ o.acc < 8 ∧ o.beats = 0 ∧ ((MS o).getTile (8 * o.place + o.acc)).psn = [] ∧ ((MS o).getTile (8 * o.place + o.acc)).chk = false ∧ o.on = false) ∧
    (let o := mop (fun o => { o with sub := 3 })
     let s := (MS o).setTile 24 { chk := true }
     (s.getTile (8 * o.place + o.acc)).chk = true ∧ o.m * o.n * 4 ≤ 65536) ∧
    (let o := mop (fun o => { o with sub := 3, st := .running, m := 2, n := 4, bytes := List.replicate 32 0, pitch := 256 })
     o.prog < o.m ∧ (match (MS o).engineWrite o.who (o.ia + o.prog * o.pitch) ((o.bytes.drop (o.prog * (o.n * outSize o.ofmt))).take (o.n * outSize o.ofmt)) ((MS o).mopTag o) with
      | (u, .ok ()) => decide (u.mops = (MS o).mops)
      | _ => false) = true ∧ ({ o with prog := 16 } : MOp).m ≤ ({ o with prog := 16 } : MOp).prog ∧ o.held = false ∧
     (match (MS { o with held := true }).commitRows { o with held := true } o.m 0 with | (u, .ok ()) => decide (u.mops = [{ o with held := true }]) | _ => false) = true) := by decide +kernel

theorem test_StoresAndChecksums_others : (mop (fun o => { o with sub := 4, on := true })).on = true ∧
    ((MS (mop (fun o => { o with sub := 5 }))).getTile 24).chk = false ∧
    (let o := mop (fun o => { o with st := .ended })
     o.sent = false ∧ o.barrier = none ∧ o.place < 8256 ∧ (MS o).signalled o.id = false ∧ o.place = (MS o).hart.place ∧ o.told = false ∧ (MS o).cmdReleased o.rel (some o.place) o.id = (MS o, true) ∧
     (∀ q ∈ (MS o).updates, q.owner ≠ o.id)) ∧
    (let o := mop (fun o => { o with sub := 5 })
     let k (b : BitVec 32) : Tile := { chk := true, elems := sset 0 [] 0 b }
     let v (b : BitVec 32) := verify (fun r c => (sget 0 (k b).elems (r * o.n + c)).toNat) (fun r => (sget 0 (k b).pr r).toNat) (fun c => (sget 0 (k b).pcs c).toNat)
       o.m o.n o.tol
     ((MS o).setTile 24 (k 0)).getTile 24 = k 0 ∧ (v 0).code = 0 ∧ (v 0x3F800000).code = 1 ∧ (v 0x7F800000).code = 2 ∧ ({ k 0 with psn := [0] } : Tile).psn ≠ []) ∧
    (let o := mop (fun o => { o with st := .ended, barrier := some 0x8000000000040 })
     (match (MS o).engineWrite o.who (0x8000000000040 + 16) (bytesLE 8 o.word.toNat) ((MS o).mopTag o) with | (u, .ok ()) => decide (u.mops = (MS o).mops) | _ => false) = true) := by
  decide +kernel

/-! ## Pre-emption, fences, the firmware and the platform -/

/-- The test hart on a rung of the ladder. -/
def PR (k : Nat) : State := T.upd (fun h => { h with pre := some { rung := k, since := 0, save := 0x8000000001000, t1 := 20, t2 := 100 } })

theorem test_PreemptionRungs : T.hart.lamp = false ∧ T.ras = [] ∧ T.hart.pre = none ∧ T.hart.wait = none ∧
    (WT (.wfe 9 none)).hart.wait = some (.wfe 9 none) ∧ (WT (.bwait 9 64 0 0 none)).hart.wait = some (.bwait 9 64 0 0 none) ∧
    (WT (.cbwait 9 64 1 false 0 none)).hart.wait = some (.cbwait 9 64 1 false 0 none) ∧
    (PR 1).hart.pre.map (·.rung) = some 1 ∧ (PR 1).hart.vq = [] ∧ (∀ i < 16, (PR 1).hart.slot i = .free) ∧
    (VQ true false).hart.vq ≠ [] ∧ T.lates = [] ∧ (PR 1).lates = [] ∧ (PR 1).hart.pre.map (·.t1) = some 20 ∧
    0 + 20 ≤ ({ PR 1 with tick := 100000000 } : State).tick.toNat ∧ (PR 1).tick.toNat < 0 + 20 ∧ (PR 2).hart.pre.map (·.rung) = some 2 ∧
    (PR 2).hart.pre.map (·.t2) = some 100 ∧ (PR 2).tick.toNat < 0 + 100 ∧ 0 + 100 ≤ ({ PR 2 with tick := 100000000 } : State).tick.toNat ∧
    (PR 2).invs = [] ∧ (PR 2).copies = [] ∧ (PR 2).mops = [] := by decide +kernel

/-- With a second hart to step when the first has left. -/
def SV : State := { PR 2 with harts := [{ hartT with place := 8, lamp := false }] }

theorem test_SavesAndResumptions : SV.saveWaits SV.hart 2 = false ∧ (SV.harts.map (·.place)) = [8] ∧
    ({ SV with mops := [mop id] } : State).saveWaits SV.hart 2 = true ∧ SV.releaseBoth SV.me 4 = (SV, true) ∧
    (let s : State := { SV with updates := [{ upd_ false [] with place := some 3, owner := 3 }] }
     s.saveWaits s.hart 2 = false ∧ (s.releaseBoth s.me 4).2 = false) ∧
    (let h := SV.hart
     let w := engineWho (8192 + 4 * stackOf h.place) (stackOf h.place) .sup h.vfid.toNat h.ctxKey
     (match SV.writeChunks w 0x8000000001000 (SV.unitGen w.unit) (SV.areaChunks h 2) with
      | (u, true) => decide (u.hart = SV.hart) && decide (u.harts = SV.harts) && decide (u.nodes = SV.nodes)
      | _ => false) = true) := by decide +kernel

/-- The state after the save, where the context's area is in memory. -/
def saved : Saved := { ia := 0x8000000001000, ctxKey := 7, vf := 0, node := none, rung := 2, was := SV.hart }

theorem upFrom_append (a i n : Nat) : upFrom a (i + n) = upFrom a i ++ upFrom (a + i) n := by
  induction i generalizing a with
  | zero => simp [upFrom]
  | succ i ih => rw [Nat.add_right_comm]; simp only [upFrom, List.cons_append, ih]; rw [Nat.add_right_comm, Nat.add_assoc]

theorem ofBytesLE_zero (l : List Byte) (h : ∀ b ∈ l, b = 0) : ofBytesLE l = 0 := by
  induction l with
  | nil => rfl
  | cons b l ih => simp only [ofBytesLE, h b (by simp), ih (fun c hc => h c (by simp [hc]))]; rfl

theorem ofBytesLE_trail (l m : List Byte) (h : ∀ b ∈ m, b = 0) : ofBytesLE (l ++ m) = ofBytesLE l := by
  induction l with
  | nil => exact ofBytesLE_zero m h
  | cons b l ih => simp only [List.cons_append, ofBytesLE, ih]

theorem mem_upFrom {j a n : Nat} (h : j ∈ upFrom a n) : a ≤ j ∧ j < a + n := by
  induction n generalizing a with
  | zero => simp [upFrom] at h
  | succ n ih =>
    simp only [upFrom, List.mem_cons] at h
    rcases h with rfl | h
    · omega
    · have := ih h; omega

theorem poisonFault_none (va : W64) (i : Nat) (l : List Taken) (h : ∀ e ∈ l, e.2 = none) : poisonFault va i l = none := by
  induction l generalizing i with
  | nil => rfl
  | cons e l ih =>
    obtain ⟨b, o⟩ := e
    have : o = none := h (b, o) (by simp)
    subst this
    exact ih _ (fun e he => h e (by simp [he]))

/-- What an engine reads of a Lantern SRAM whose bytes from the `i`-th on are 0. -/
theorem lanternRead {s : State} {w : Who} {ia n i off g : Nat} (hw : s.window 0 ia n 3 = .ok (.lantern 0 off)) (hs : s.stale = []) (he : s.ecc = [])
    (hp : s.psn = []) (hk : s.encKey = []) (hl : s.gens.lag = []) (hx : s.inPieces w ia n false = false) (hy : s.busTurn w 0 off = (s, true)) (hi : i ≤ n) (ho : keyLantern + 2 ^ 28 * 0 + off + n ≤ keySram)
    (hz : ∀ j, keyLantern + 2 ^ 28 * 0 + off + i ≤ j → memGet s.mem j = 0)
    (hg : ofBytesLE ((upFrom (keyLantern + 2 ^ 28 * 0 + off) i).map (memGet s.mem)) = g) :
    (∃ l, s.engineRead w ia n = (s, .ok l) ∧ valueOf 0 l = .ok g) := by
  generalize hb : keyLantern + 2 ^ 28 * 0 + off = b at ho hz hg
  have hks : (upFrom b n).map s.byteAt = (upFrom b n).map (memGet s.mem) :=
    List.map_congr_left (fun k hk => by
      have := mem_upFrom hk
      simp only [State.byteAt]
      rw [if_neg (by omega), if_neg (by simp only [keySram, keyPeer] at *; omega)])
  refine ⟨s.taken (upFrom b n) none, ?_, ?_⟩
  · simp only [State.engineRead, hw, hx, State.loadAt, State.winGate, hy, Win.keys, hb, State.touch, hs, he, if_true, State.answer, State.message, State.adopt, hl,
      nmem, List.any_nil, Bool.false_eq_true, if_false, ite_self]
  · simp only [valueOf, State.taken, State.loadKeys, hk, and_self, if_true, hp, nmem, List.any_nil, Bool.false_eq_true, if_false]
    rw [poisonFault_none _ _ _ (fun e he => by
      have := (List.of_mem_zip he).2
      simp only [List.mem_map] at this
      obtain ⟨_, _, h⟩ := this
      exact h.symm)]
    simp only
    rw [← List.unzip_fst, List.unzip_zip (by simp), hks, show n = i + (n - i) by omega, upFrom_append, List.map_append, ofBytesLE_trail _ _ (fun c hc => by
      simp only [List.mem_map] at hc
      obtain ⟨j, hj, rfl⟩ := hc
      exact hz j (mem_upFrom hj).1), hg]

/-- The least area: the format's version 1 and a VLEN of 1024; every other byte is 0. -/
def areaT : Nat := 1 + 1024 * 2 ^ 32

/-- The state after the save, where such an area is in memory. -/
def RS : State :=
  { SV with hart := { hartT with place := 8 }, harts := [], saved := [saved], mem := [(keyLantern + 0x1000, 1), (keyLantern + 0x1005, 4)] }

theorem zeroRS (j : Nat) (h : keyLantern + 0x1006 ≤ j) : memGet RS.mem j = 0 := by
  have h1 : ¬ j = keyLantern + 0x1000 := by omega
  have h2 : ¬ j = keyLantern + 0x1005 := by omega
  show sget unlistedByte [(keyLantern + 0x1000, 1), (keyLantern + 0x1005, 4)] j = 0
  simp only [sget, h1, h2, if_false, unlistedByte]

theorem test_SavesAndResumptions_read : RS.readArea (engineWho (8192 + 4 * stackOf 20) (stackOf 20) .sup saved.vf saved.ctxKey) saved.ia = (RS, .ok areaT) := by
  obtain ⟨l, h1, h2⟩ := lanternRead (s := RS) (w := engineWho (8192 + 4 * stackOf 20) (stackOf 20) .sup saved.vf saved.ctxKey) (ia := saved.ia) (n := offMask) (i := 6)
    (off := 0x1000) (g := areaT) (by decide +kernel) rfl rfl rfl rfl rfl rfl (by decide +kernel) (by decide +kernel) (by decide +kernel) (fun j h => zeroRS j (by omega)) (by decide +kernel)
  have h6 : keyLantern + 0x1006 ≤ keyLantern + 2 ^ 28 * 0 + (0x1000 + offMask) + 0 := by decide +kernel
  obtain ⟨m, h3, h4⟩ := lanternRead (s := RS) (w := engineWho (8192 + 4 * stackOf 20) (stackOf 20) .sup saved.vf saved.ctxKey) (ia := saved.ia + offMask) (n := 3584) (i := 0)
    (off := 0x1000 + offMask) (g := 0) (by decide +kernel) rfl rfl rfl rfl rfl rfl (by decide +kernel) (by decide +kernel) (by decide +kernel) (fun j h => zeroRS j (Nat.le_trans h6 h))
    (by simp only [upFrom, List.map_nil, ofBytesLE])
  have hok : imgOk areaT = true := by decide +kernel
  have hn : imgBody areaT + 4 * fld areaT 20 1 * (fld areaT (offCsr + 8 * 18) 8 % 65536) * (fld areaT (offCsr + 8 * 19) 8 % 65536) - offMask = 3584 := by decide +kernel
  simp only [State.readArea, h1, h2, hok, Bool.not_true, Bool.false_eq_true, if_false, hn, h3, h4, Nat.zero_mul, Nat.add_zero]

theorem test_SavesAndResumptions_resume : RS.saved.find? (fun b => decide (b.ia = saved.ia)) = some saved ∧ saved.was.bv = false ∧ stackOf 20 = stackOf saved.was.place ∧
    20 % (1024 / 1024) = 0 ∧ RS.coresTaken saved.node 20 (1024 / 1024) = false ∧ (∀ h ∈ RS.hart :: RS.harts, h.place ≠ 20) ∧ RS.fenced (stackOf 20) = false ∧
    imgOk areaT = true ∧ 1024 = fld areaT 4 2 ∧ (∀ i < 16, imgSlot areaT i = .free) := by decide +kernel

theorem test_SavesAndResumptions_bad : (let s : State := { SV with hart := { hartT with place := 8 }, harts := [], saved := [saved] }
    (match s.readArea (engineWho (8192 + 4 * stackOf 20) (stackOf 20) .sup saved.vf saved.ctxKey) saved.ia with
      | (_, .ok g) => !imgOk g
      | _ => false) = true) := by decide +kernel

theorem test_FencesAndFatalErrors : T.stopped = none ∧ ({ T with stopped := some 1 } : State).stopped.isSome = true ∧ T.fenced 0 = false ∧ T.fenced 1 = false ∧
    (tierRegion ((T.getStk 0).rasdump.extractLsb' 0 28)).2 = 0 ∧ 0 < (tierRegion (((T.setStk 0 { rasdump := 0x10000 }).getStk 0).rasdump.extractLsb' 0 28)).2 ∧
    ({ T with plat := { T.plat with fstk := 2 } } : State).fenced 1 = true ∧ 8 < popcount 16 (0xFF00#16 ||| (1#16 <<< 1)).toNat ∧
    popcount 16 (T.plat.fstk ||| (1#16 <<< 1)).toNat ≤ 8 ∧ (∀ h ∈ State.reset.hart :: State.reset.harts, h.lamp = true) ∧ State.reset.ctxs = [] ∧
    stackOf State.reset.hart.place ≠ 1 ∧ State.reset.gangs = [] ∧ State.reset.reqs = [] ∧ State.reset.dieFenced (16 * 1 + 2) = false ∧
    ({ State.reset with stk := [(1, { rasFdie := 4 })] } : State).dieFenced (16 * 1 + 2) = true := by decide +kernel

theorem test_FirmwareAndInterrupts : L.fenced 0 = false ∧ (L.getStk 0).restarts = [] ∧ L.ras = [] ∧ (∀ h ∈ L.harts, h.place ≠ L.hart.place) ∧ L.hart.lamp = true ∧
    stackOf L.hart.place = 0 ∧ T.hart.lamp = false ∧ ((L.setStk 0 { wdog := 0 }).getStk 0).wdog = 0 ∧
    (L.tick - sget 0 (L.getStk 0).hbAt 1).toNat < 1000 * (L.getStk 0).wdog.toNat ∧ (L.getStk 0).wdog ≠ 0 ∧
    1000 * (L.getStk 0).wdog.toNat ≤ (({ L with tick := 100000000 } : State).tick - sget 0 (L.getStk 0).hbAt 1).toNat ∧
    (∀ h ∈ T.hart :: T.harts, h.place ≠ 512 * 0 + 5) ∧ T.hart.place = 512 * 0 + 3 ∧
    (let s := T.upd (fun h => { h with irqs := [(1, 5)] })
     s.hart.irqs = [(1, 5)] ∧ s.ras = [] ∧ s.lates = [] ∧ s.hart.pre = none ∧ s.hart.wait = none ∧ s.hart.level = .app) ∧ L.hart.level = .mon := by decide +kernel

theorem test_FaultEvents : T.inAhead = false ∧ T.isLate = false ∧ (0x10#32).toNat % 4 = 0 ∧ (1#32).toNat % 4 ≠ 0 ∧ T.hart.hfirst = false ∧ T.hart.fbbase = 0 ∧
    (L.upd (fun h => { h with hfirst := true })).hart.hfirst = true ∧ L.hart.level = .mon ∧ L.stopped = none ∧
    (L.upd (fun h => { h with hfirst := true, level := .sup })).hart.level ≠ .mon ∧ T.hart.lamp = false ∧ T.hart.ctxKey = 7 ∧ T.hart.pre = none ∧
    (∀ h ∈ T.hart :: T.harts, h.lamp = true ∨ h.ctxKey ≠ 8) ∧ T.engineNodes 8 = [] ∧
    (let n := freshNode [BitVec.ofNat 64 (1 + 2 ^ 16), 0, 0, 0, 0, BitVec.ofNat 64 (9 + 8 * 2 ^ 32), 0, 0, 0, 0, 0, 0, 0, 0, 0, 0] 0
     let n : Node := { n with id := 60, st := .running }
     let s : State := { T with nodes := [n] }
     s.engineNodes 8 = [n] ∧ s.nodeAt n.id = some n ∧ n.due = none ∧ s.tick.toNat < 2 ^ 63) := by decide

theorem test_HostAccesses : T.fenced (5 * 1) = false ∧ T.plat.recovery = false ∧ (T.getPort 0).role = 0 ∧ (T.getPort 1).role = 1 ∧
    (T.setPort 1 { role := 2 } |>.getPort 1).role = 2 ∧ ({ T with plat := { T.plat with fstk := 32 } } : State).fenced (5 * 1) = true ∧
    (let s : State := { T with port0 := { role := 0, inForce := 0, up := true, cxl := true }, plat := { T.plat with hdmEn := true, hdmBase := 0, hdmSize := 1 } }
     s.port0.up = true ∧ s.port0.cxl = true ∧ s.port0.inForce = 0 ∧ 64 % 8 = 0 ∧ s.plat.hdmEn = true ∧ 64 + 8 ≤ s.plat.hdmSize.toNat * 2 ^ 28 ∧
     s.plat.hdmBase.toNat * 2 ^ 28 + 64 + 8 ≤ 2 ^ 48 ∧ s.plat.hdmSize.toNat * 2 ^ 28 < 0x10000000 + 8) := by decide +kernel

/-- A line of the page of `P` that the host holds, being taken back. -/
def HB : State := { P with stk := [(0, { tc := [{ ia := 0, size := 0, pte := 0x10001804F }], hostLines := [(2, true)], biWait := [(2, true)] })] }

theorem test_HostAccesses_snoops : HB.stk = [(0, HB.getStk 0)] ∧ (HB.getStk 0).biWait = [(2, true)] ∧ (2, true) ∈ (HB.getStk 0).hostLines ∧
    (HB.hostBack 2 5).2 = true := by decide +kernel

theorem test_FarRequests : (let r := { req (.far 9) 0 .read .sent with n := 64 }
    let s : State := { T with reqs := [r] }
    s.reqAt r.id = some r ∧ r.src = .far 9 ∧ (s.tick - r.va).toNat < 50000000 ∧ 50000000 ≤ (({ s with tick := 50000000 } : State).tick - r.va).toNat) := by decide +kernel

theorem test_FunctionResets : (L.getVf 1).flr = false ∧ L.ctxsOf 1 = [] ∧ T.ctxsOf 0 = [7] ∧ ((L.setVf 1 { flr := true }).getVf 1).flr = true ∧
    (L.setVf 1 { flr := true }).vfBusy 1 = false ∧ (N (node 0 0 id)).vfBusy 0 = true ∧ 64 ≤ (64#64).toNat := by decide +kernel

theorem test_GlowlineEvents : T.fenced (5 / 4) = false ∧ T.plat.recovery = false ∧ (T.getGlow 5).state ≠ 2 ∧
    (let s := T.setGlow 5 { state := 2 }
     (s.getGlow 5).state = 2 ∧ 65536 % 65536 = (s.getGlow 5).expect ∧ 1 % 65536 ≠ (s.getGlow 5).expect ∧ (s.getGlow 5).fails < 8 ∧ (s.getStk 0).glTbm = false) ∧
    8 ≤ ((T.setGlow 5 { state := 2, fails := 8 }).getGlow 5).fails ∧ ((T.setStk 0 { glTbm := true }).getStk 0).glTbm = true := by decide +kernel

theorem test_ResetAndRecovery : State.reset.plat.boot = 0 ∧ T.plat.boot ≠ 0 ∧ T.plat.recovery = false ∧
    (let s : State := { T with plat := { T.plat with recovery := true } }
     s.plat.recovery = true ∧ s.plat.recState = 0 ∧ s.plat.recArg.toNat * 32768 + 32768 ≤ 2 ^ 28 ∧ swf 0 s.plat.staging = true) ∧
    2 ^ 28 < (8192#64).toNat * 32768 + 32768 ∧ ({ T.plat with recState := 1 } : Platform).recState = 1 := by decide

theorem test_AttestationAndPower : State.reset.port0.up = false ∧ ({ State.reset with port0 := { role := 0, inForce := 0, up := true } } : State).port0.up = true ∧
    ({ State.reset.plat with spdmState := 3 } : Platform).spdmState = 3 := by decide

/-! ## Encodings and the step -/

theorem test_IllegalVersion : (3#32).extractLsb' 0 2 ≠ 0 ∧ T.inAhead = false ∧ T.isLate = false := by decide

theorem test_IllegalWords : (0x3F0#32).extractLsb' 0 2 = 0 ∧ (0x3F0#32).extractLsb' 4 6 = 0x3F ∧ (0x3B0#32).extractLsb' 4 6 = 0x3B ∧
    decode 0x3F0 = .error .illegalSelector := by decide +kernel

theorem test_EncodeDecode : wellFormed (.addi 3 5 6 0xFFF) = true ∧ encode (.addi 3 5 6 0xFFF) ≠ 0 ∧ decode 0x00000010 = .ok (.addi 0 0 0 0) ∧
    decodeMicro 0x10C5 = some (.uAap 3 5) ∧ encodeMicro (.uAap 3 5) ≠ 0 := by decide +kernel

/-- The reset hart about to fetch ADDI x5, x0, 7. -/
def S1 : State := State.reset.withFetchWord 32 0x00701410

theorem test_StepRunsDecoded : S1.stopped = none ∧ S1.plat.boot = 2 ∧ S1.clock.pick = some (.hart 8192) ∧ (S1.clock.focus 8192).ahead = none ∧
    (S1.clock.focus 8192).firstLate = none ∧ (S1.clock.focus 8192).takeDeferred = none ∧ (S1.clock.focus 8192).hart.interruptible = false ∧
    (match (S1.clock.focus 8192).fetchWord with | .word _ w => decide (w = 0x00701410) && decide (decode w = .ok (.addi 0 5 0 7)) | _ => false) = true := by decide +kernel

theorem test_StepRunsDecoded_illegal : (let s := State.reset.withFetchWord 32 0
    (match (s.clock.focus 8192).fetchWord with | .word _ w => decide (decode w = .error .zeroWord) | _ => false) = true) := by decide +kernel

theorem test_StepRunsDecoded_fault : (let s := S1.upd (fun h => { h with pc := 0x5000000 })
    s.clock.pick = some (.hart 8192) ∧ (match (s.clock.focus 8192).fetchWord with | .fault _ c _ => decide (c = 0x21) | _ => false) = true) := by decide +kernel

theorem test_StepRunsDecoded_deferred : (let s := { S1 with ras := [{ place := 8192, ck := S1.hart, entries := [], tval := 0, arrived := [] }] }.upd (fun h => { h with instret := 300 })
    s.clock.pick = some (.hart 8192) ∧ (s.clock.focus 8192).ahead.isSome = true ∧ (s.clock.focus 8192).ahead.bind (fun r => (s.clock.focus 8192).aheadDone r) = some 0) ∧
    (let s := S1.upd (fun h => { h with level := .app, irqs := [(1, 5)] })
     s.clock.pick = some (.hart 8192) ∧ (s.clock.focus 8192).ahead = none ∧ (s.clock.focus 8192).takeDeferred = none ∧ (s.clock.focus 8192).hart.interruptible = true) ∧
    (let s := S1.upd (fun h => { h with defer := [(0, 1, 0)] })
     s.clock.pick = some (.hart 8192) ∧ (s.clock.focus 8192).takeDeferred.isSome = true) := by decide +kernel

/-- The oldest vector instruction of `S1`'s hart waits; `n` instructions have retired since. -/
def SL (n : W64) : State := { S1.upd (fun h => { h with instret := n }) with lates := [{ id := 5, place := 8192, word := 0x00701410, ck := S1.hart }] }

theorem test_StepRunsDecoded_late : (SL 64).clock.pick = some (.hart 8192) ∧ ((SL 64).clock.focus 8192).ahead = none ∧
    (match ((SL 64).clock.focus 8192).firstLate with
      | some l => decide (((SL 64).clock.focus 8192).hart.defer = []) && ((SL 64).clock.focus 8192).lateTurn l
      | none => false) = true ∧ ((SL 64).clock.focus 8192).hart.interruptible = false ∧
    (let s := (SL 0).upd (fun h => { h with level := .app, irqs := [(1, 5)] })
     s.clock.pick = some (.hart 8192) ∧ (s.clock.focus 8192).firstLate.isSome = true ∧ (s.clock.focus 8192).hart.interruptible = true) ∧
    (((SL 0).clock.focus 8192).firstLate.map (fun l => decide (64 ≤ (((SL 0).clock.focus 8192).hart.instret - l.ck.instret).toNat)) = some false) := by
  decide +kernel

theorem test_StepRunsDecoded_waits (l : Late) (h : ¬ 64 ≤ (S1.hart.instret - l.ck.instret).toNat) :
    S1.lateTurn l = decide (Config.element S1.moves % 2 = 0) := by rw [State.lateTurn, decide_eq_false h, Bool.false_or]

theorem test_StepRunsDecoded_acts : (let s : State := { (S1.upd (fun h => { h with wait := some (.wfe 9 none) })) with agenda := [.event (.refresh 0)] }
    s.clock.pick = some (.act 0) ∧ s.agenda[0]? = some (.event (.refresh 0))) ∧
    (let s := State.reset.withFetchWord 16 0x10C5
     s.clock.pick = some (.act 0) ∧ s.agenda[0]? = some (.micro 0) ∧ s.microAt 0 = some 0x10C5) := by decide +kernel

theorem test_FetchReadsMemory : S1.hart.ibuf = [] ∧ S1.psn = [] ∧ S1.ecc = [] ∧ S1.stale = [] ∧ S1.uioLost = [] ∧ S1.encKey = [] ∧
    issue S1.myCtx S1.hart.level S1.hart.pc 4 .fetch = .ok (0x8000000000000, 0) ∧ S1.window S1.hart.pc 0x8000000000000 4 0 = .ok (.lantern 0 0) ∧
    onChip S1 (.lantern 0 0) 4 .load = some (2 ^ 45) ∧ numberAt S1 (2 ^ 45) 4 = 0x00701410 := by decide +kernel

theorem test_MemoryInvariant : Memory.wf S1.mem = true ∧ after (step S1) (fun t => decide (t.hart.rx 5 = .known 7) && decide (t.hart.pc = 4)) = true := by decide +kernel

end Sys2Proof.Tests
end

/-! PROOFS. The words that are no instruction (R244, R246): what the decoder answers and what the step makes of it. -/
namespace Sys2Proof.Machine

section
variable {w : IWord} {s : State} {e : DecodeError}

/-- The first check of R246: no field but `ver` is read. -/
theorem decode_of_ver_ne_zero (hver : w.extractLsb' 0 2 ≠ 0) : decode w = .error .illegalVersion :=
  if_pos hver

/-- Every word that fails to decode, for whichever reason, runs the row ILLEGAL_INSTRUCTION. -/
theorem execWord_of_decode_error (hdec : decode w = .error e) : execWord w s = execIllegalInstruction w s := by
  rw [execWord, hdec]
  exact exec_illegal w s

/-- Outside run-ahead and with no late vector instruction, ILLEGAL_INSTRUCTION traps at once (R246, R438). -/
theorem execIllegalInstruction_of_settled (hahead : s.inAhead = false) (hlate : s.isLate = false) :
    execIllegalInstruction w s = s.trapHere (if w.extractLsb' 0 2 ≠ 0 then 1 else 0) (w.setWidth 64) := by
  simp only [execIllegalInstruction, hahead, hlate, Bool.false_eq_true, if_false]

end

/-- The cause word of the illegal-version trap has no bit beside its code (R435). -/
theorem causeOf_one : causeOf 1 = 1 := by decide

/-- Settles O4: `ver` is the decoder's first check (R246), and the row that executes an undecodable word reads `ver` again to choose
cause 0x01. -/
theorem illegalVersion : Obligations.IllegalVersion := by
  intro w hver
  have hdec : decode w = .error .illegalVersion := decode_of_ver_ne_zero hver
  refine ⟨hdec, fun s hahead hlate => ?_⟩
  calc execWord w s = execIllegalInstruction w s := execWord_of_decode_error hdec
    _ = s.trapHere 1 (w.setWidth 64) := by rw [execIllegalInstruction_of_settled hahead hlate, if_pos hver]
    _ = .next (s.trap 1 (w.setWidth 64) s.hart.pc) := by rw [State.trapHere, causeOf_one]

end Sys2Proof.Machine

/-! PROOFS. The words of majors 0x09, 0x0A and 0x0C (R243, R249, R255): a word assembled from its fields decodes to what the selector of
its major answers for them. -/
namespace Sys2Proof

section
variable {f7 : BitVec 7} {b a d : BitVec 5} {maj : BitVec 6} {sc : Sc} {i : Instr}

/-- R243: each field of the word frame is read back from its bits. -/
theorem wordFrame_fields (f7 : BitVec 7) (b a d : BitVec 5) (maj : BitVec 6) (sc : Sc) :
    let w := wordFrame f7 b a d maj sc
    w.extractLsb' 25 7 = f7 ∧ w.extractLsb' 20 5 = b ∧ w.extractLsb' 15 5 = a ∧ w.extractLsb' 10 5 = d ∧
      w.extractLsb' 4 6 = maj ∧ w.extractLsb' 2 2 = sc ∧ w.extractLsb' 0 2 = 0 := by
  -- The width is kept as the sum of the fields' widths, the form in which the library's lemmas on `++` apply.
  have fields : ∀ w : BitVec (7 + 5 + 5 + 5 + 6 + 2 + 2), w = f7 ++ b ++ a ++ d ++ maj ++ sc ++ 0#2 →
      w.extractLsb' 25 7 = f7 ∧ w.extractLsb' 20 5 = b ∧ w.extractLsb' 15 5 = a ∧ w.extractLsb' 10 5 = d ∧
        w.extractLsb' 4 6 = maj ∧ w.extractLsb' 2 2 = sc ∧ w.extractLsb' 0 2 = 0 := by
    rintro _ rfl
    simp only [BitVec.extractLsb'_append_eq_ite]
    simp
  exact fields _ rfl

theorem decodeFields_wordFrame : decodeFields (wordFrame f7 b a d maj sc) = decodeMajor f7 b a d maj sc := by
  obtain ⟨h7, hb, ha, hd, hmaj, hsc, -⟩ := wordFrame_fields f7 b a d maj sc
  rw [decodeFields, h7, hb, ha, hd, hmaj, hsc]

/-- R246 on a frame: outside major 0 the word is not the zero word, and it decodes to its row when its fields are legal there. -/
theorem decode_wordFrame (hmaj : maj ≠ 0) (hrow : decodeMajor f7 b a d maj sc = some i) (hwf : wellFormed i = true) :
    decode (wordFrame f7 b a d maj sc) = .ok i := by
  obtain ⟨-, -, -, -, hm, -, hver⟩ := wordFrame_fields f7 b a d maj sc
  have hzero : wordFrame f7 b a d maj sc ≠ 0 := fun h => hmaj (by rw [← hm, h]; rfl)
  rw [decode, if_neg (not_not.mpr hver), if_neg hzero, decodeFields_wordFrame, hrow]
  exact if_pos hwf

end

/-- R249: a U immediate fills `funct7`, `rs2` and `rs1`. -/
theorem uImm_fields (i : BitVec 17) : i.extractLsb' 10 7 ++ i.extractLsb' 5 5 ++ i.extractLsb' 0 5 = i := by
  rw [BitVec.extractLsb'_append_extractLsb'_eq_extractLsb' (show 10 = 5 + 5 from rfl)]
  exact BitVec.extractLsb'_append_extractLsb'

/-- R249: an I immediate fills `funct7` and `rs2`. -/
theorem iImm_fields (i : BitVec 12) : i.extractLsb' 5 7 ++ i.extractLsb' 0 5 = i :=
  BitVec.extractLsb'_append_extractLsb'

theorem decode_lui (sc : Sc) (rd : Reg) (i : BitVec 17) :
    decode (i ++ rd ++ 0x09#6 ++ sc ++ 0#2 : BitVec 32) = .ok (.lui sc rd i) := by
  have h : decode (wordFrame (i.extractLsb' 10 7) (i.extractLsb' 5 5) (i.extractLsb' 0 5) rd 0x09 sc) = _ :=
    decode_wordFrame (by decide) rfl rfl
  rwa [wordFrame, uImm_fields] at h

theorem decode_auipc (sc : Sc) (rd : Reg) (i : BitVec 17) :
    decode (i ++ rd ++ 0x0A#6 ++ sc ++ 0#2 : BitVec 32) = .ok (.auipc sc rd i) := by
  have h : decode (wordFrame (i.extractLsb' 10 7) (i.extractLsb' 5 5) (i.extractLsb' 0 5) rd 0x0A sc) = _ :=
    decode_wordFrame (by decide) rfl rfl
  rwa [wordFrame, uImm_fields] at h

theorem decode_jalr (sc : Sc) (rd r1 : Reg) (i : BitVec 12) :
    decode (i ++ r1 ++ rd ++ 0x0C#6 ++ sc ++ 0#2 : BitVec 32) = .ok (.jalr sc rd r1 i) := by
  have h : decode (wordFrame (i.extractLsb' 5 7) (i.extractLsb' 0 5) r1 rd 0x0C sc) = _ :=
    decode_wordFrame (by decide) rfl rfl
  rwa [wordFrame, iImm_fields] at h

end Sys2Proof

/-! PROOFS. What a register holds once it is written, and integer instructions with known operands: division (R269), LUI and AUIPC (R272). -/
namespace Sys2Proof.Machine
open Sys2Proof.Safety

/-- R200: a written register reads as the value written, `x0` as 0. -/
theorem Hart.rx_wx_known (h : Hart) (r : Reg) (v : W64) (dep : BitVec 16) :
    (h.wx r (.known v) dep).rx r = .known (if r = 0 then 0 else v) := by
  rw [Hart.rx_wx, if_pos rfl]
  split <;> rfl

section
variable {s : State} {sc : Sc} {rd r1 r2 : Reg} {a b : W64}

/-- A computation on two known operands writes its result and completes, whatever their values are. -/
theorem calc_next_of_holds (op : W64 → W64 → W64) (hc : calm s sc) (h1 : holds s r1 a) (h2 : holds s r2 b) :
    s.calc sc rd [r1, r2] (fun h => op (h.kx r1) (h.kx r2)) = .next (wrote s rd (op a b)) := by
  have known : ∀ r ∈ [r1, r2], ∃ v, holds s r v := List.forall_mem_cons.mpr ⟨⟨a, h1⟩, List.forall_mem_singleton.mpr ⟨b, h2⟩⟩
  rw [calc_next hc known, kx_of_holds h1, kx_of_holds h2]

theorem exec_div (hc : calm s sc) (h1 : holds s r1 a) (h2 : holds s r2 b) :
    exec (.div sc rd r1 r2) s = .next (wrote s rd (divS a b)) := calc_next_of_holds divS hc h1 h2

theorem exec_divn (hc : calm s sc) (h1 : holds s r1 a) (h2 : holds s r2 b) :
    exec (.divn sc rd r1 r2) s = .next (wrote s rd (divU a b)) := calc_next_of_holds divU hc h1 h2

theorem exec_rem (hc : calm s sc) (h1 : holds s r1 a) (h2 : holds s r2 b) :
    exec (.rem sc rd r1 r2) s = .next (wrote s rd (remS a b)) := calc_next_of_holds remS hc h1 h2

theorem exec_remn (hc : calm s sc) (h1 : holds s r1 a) (h2 : holds s r2 b) :
    exec (.remn sc rd r1 r2) s = .next (wrote s rd (remU a b)) := calc_next_of_holds remU hc h1 h2

/-- LUI has no operand to wait for (R272). -/
theorem exec_lui (hc : calm s sc) (i : BitVec 17) : exec (.lui sc rd i) s = .next (wrote s rd (immU i)) :=
  calc_next (f := fun _ => immU i) hc (List.forall_mem_nil _)

/-- AUIPC has no operand but its own PC (R272). -/
theorem exec_auipc (hc : calm s sc) (i : BitVec 17) : exec (.auipc sc rd i) s = .next (wrote s rd (s.hart.pc + immU i)) :=
  calc_next (f := fun h => h.pc + immU i) hc (List.forall_mem_nil _)

end

section
variable {a b : W64}

@[simp] theorem divS_zero : divS a 0 = BitVec.allOnes 64 := BitVec.neg_one_eq_allOnes
@[simp] theorem divU_zero : divU a 0 = BitVec.allOnes 64 := BitVec.neg_one_eq_allOnes
@[simp] theorem remS_zero : remS a 0 = a := rfl
@[simp] theorem remU_zero : remU a 0 = a := rfl

theorem ne_zero_of_toInt_neg_one (hb : b.toInt = -1) : b ≠ 0 := by
  rintro rfl
  exact absurd hb (by decide)

/-- The quotient 2^63 has no signed word; modulo 2^64 it is the dividend. -/
theorem divS_min_neg_one (ha : a.toInt = -2 ^ 63) (hb : b.toInt = -1) : divS a b = a := by
  rw [divS, if_neg (ne_zero_of_toInt_neg_one hb), hb, Int.tdiv_neg, Int.tdiv_one]
  refine BitVec.eq_of_toInt_eq ?_
  rw [BitVec.toInt_ofInt, ha]
  rfl

theorem remS_neg_one (hb : b.toInt = -1) : remS a b = 0 := by
  rw [remS, if_neg (ne_zero_of_toInt_neg_one hb), hb, Int.tmod_neg, Int.tmod_one]
  rfl

end

/-- Settles O9: a division is a computation on its two operands, so it completes whatever they hold; the corners are those of its result. -/
theorem divisionCorners : Obligations.DivisionCorners := by
  intro s sc rd r1 r2 a b hc h1 h2
  rw [exec_div hc h1 h2, exec_divn hc h1 h2, exec_rem hc h1 h2, exec_remn hc h1 h2]
  refine ⟨?completes, ?zero, ?overflow⟩
  case completes =>
    simp only [List.forall_mem_cons]
    exact ⟨⟨_, exec_div hc h1 h2⟩, ⟨_, exec_divn hc h1 h2⟩, ⟨_, exec_rem hc h1 h2⟩, ⟨_, exec_remn hc h1 h2⟩, List.forall_mem_nil _⟩
  case zero =>
    rintro rfl
    simp only [divS_zero, divU_zero, remS_zero, remU_zero, and_self]
  case overflow =>
    intro ha hb
    have hne : b ≠ 0 := ne_zero_of_toInt_neg_one hb
    rw [divS_min_neg_one ha hb, remS_neg_one hb, divU, remU, if_neg hne, if_neg hne]
    exact ⟨rfl, rfl, rfl, rfl⟩

/-- Settles O10: the U immediate is put together again from its fields (R249), and neither instruction has an operand that could block. -/
theorem upperImmediates : Obligations.UpperImmediates := fun _ sc rd i =>
  ⟨decode_lui sc rd i, decode_auipc sc rd i, fun hc => ⟨exec_lui hc i, exec_auipc hc i, fun v => Hart.rx_wx_known _ rd v 0⟩⟩

end Sys2Proof.Machine

/-! PROOFS. The indirect jump (R274). -/
namespace Sys2Proof.Machine
open Sys2Proof.Safety

section
variable {s : State} {sc : Sc} {rd r1 : Reg} {a : W64}

/-- A jump on registers that hold values puts no producer before later writes (R145). -/
theorem control_of_holds {rs : List Reg} (hr : ∀ r ∈ rs, ∃ v, holds s r v) : s.control rs = s := by
  have hdep : s.hart.hdep ||| s.hart.depOf rs = s.hart.hdep := by
    rw [depOf_zero hr]
    exact BitVec.or_zero
  rw [State.control, hdep]

/-- R274: the target is computed from `x[rs1]` as it is before the write of `x[rd]`, also where `rd` is `rs1`. -/
theorem exec_jalr (hc : calm s sc) (h1 : holds s r1 a) (i : BitVec 12) :
    exec (.jalr sc rd r1 i) s = .next ((s.wx rd (s.hart.pc + 4)).jump (jalrTarget a i)) := by
  have known : ∀ r ∈ [r1], ∃ v, holds s r v := List.forall_mem_singleton.mpr ⟨a, h1⟩
  show execJalr sc rd r1 i s = _
  rw [execJalr, readyCalc_go hc known]
  dsimp only
  rw [control_of_holds known, kx_of_holds h1]

/-- R274: the I immediate counts words. -/
theorem jalrTarget_eq (a : W64) (i : BitVec 12) : jalrTarget a i = (a + 4 * i.signExtend 64) &&& ~~~3#64 := by
  rw [jalrTarget, immI, ← BitVec.twoPow_mul_eq_shiftLeft]
  rfl

@[simp] theorem State.jump_rx (s : State) (t : W64) (r : Reg) : (s.jump t).hart.rx r = s.hart.rx r := rfl

end

/-- Settles O11: with `x[rs1]` known JALR writes its return address and jumps (`exec_jalr`); what it writes and leaves is what writing one
register and setting the PC do. -/
theorem indirectJumps : Obligations.IndirectJumps := by
  intro s sc rd r1 i a
  refine ⟨decode_jalr sc rd r1 i, fun hc h1 => ⟨_, exec_jalr hc h1 i, jalrTarget_eq a i, ?link, ?others, ?retired, fun _ => rfl⟩⟩
  case link => rw [State.jump_rx, State.wx_hart, Hart.rx_wx_known]
  case others =>
    intro r hr
    rw [State.jump_rx, State.wx_hart, Hart.rx_wx_other _ _ _ _ _ hr]
  case retired => rw [State.jump_hart, State.wx_hart, Hart.wx_instret]

end Sys2Proof.Machine
